-- ==== Sys2Proof/Word.lean ====
section
/-! DEFINITION. Word.lean: the widths of the 80386's data (00_scope.md R8, 20_memory.md R102): bytes, words,
doublewords, the operand widths of instructions and the two size attributes. -/

namespace Sys2Proof

/-- A byte, eight bits (R8). -/
abbrev Byte := BitVec 8

/-- A word, sixteen bits (R8). -/
abbrev Word16 := BitVec 16

/-- A doubleword, thirty-two bits (R8). -/
abbrev Word32 := BitVec 32

/-- The width of an operand: a byte, a word or a doubleword (40_data_movement.md R400 point 1). -/
inductive Width where
  | b8 | b16 | b32
  deriving DecidableEq, Repr

/-- How many bits an operand of that width has. -/
@[reducible] def Width.bits : Width → Nat
  | .b8 => 8
  | .b16 => 16
  | .b32 => 32

/-- How many bytes an operand of that width has. -/
@[reducible] def Width.bytes : Width → Nat
  | .b8 => 1
  | .b16 => 2
  | .b32 => 4

/-- A value of an operand of width `w`. -/
abbrev Val (w : Width) := BitVec w.bits

/-- A size attribute: operand size, address size or stack size, 16 or 32 (00_scope.md R15). -/
inductive Size where
  | s16 | s32
  deriving DecidableEq, Repr

/-- The operand width an OpSize of that size selects (30_encoding.md R316). -/
@[reducible] def Size.width : Size → Width
  | .s16 => .b16
  | .s32 => .b32

/-- The other size, which an operand-size or address-size override selects (30_encoding.md R316). -/
def Size.other : Size → Size
  | .s16 => .s32
  | .s32 => .s16

end Sys2Proof
end

