-- ==== Sys2Proof/Config.lean ====
section
/-! DEFINITION. Config.lean: what an implementation fixes and the spec does not say (00_scope.md R10; 92_eei_decisions.md
D4, D8, D18, D2). Each constant is opaque: nothing can be proved of its values. Each is applied to the counter
`State.free`, which a use advances, so that every use is a fresh value (log 7). -/

namespace Sys2Proof

/-- An unspecified value (R10, D4): an UNDEF flag, result, field or slot, and what a device, a port or an empty
address returns (D6, D7). -/
opaque Config.freeValue : Nat → Word32

/-- Which of the admissible translations is used when a TLB entry differs from the page tables: 0 walks the tables,
`k + 1` uses the `k`-th matching entry (21_translation_protection.md R222, D18). -/
opaque Config.tlbChoice : Nat → Nat

/-- Which content an instruction fetch sees of a byte that was overwritten inside the prefetch window: 0 the byte in
memory, `k + 1` the `k`-th overwritten value (20_memory.md R138, D2). -/
opaque Config.prefetchChoice : Nat → Nat

/-- Whether the upper of the two bus cycles of a split access comes first (20_memory.md R106, D8). -/
opaque Config.splitChoice : Nat → Bool

/-- The longest instruction, in bytes (30_encoding.md R314). -/
abbrev Config.maxLength : Nat := 15

/-- The smallest limit of an 80386 TSS (22_multitasking.md R254). -/
abbrev Config.minTssLimit : Nat := 103

end Sys2Proof
end

