-- ==== Sys2Proof/Syntax.lean ====
section
/-! DEFINITION. Syntax.lean: the abstract syntax of the 80386's instructions (30_encoding.md R310 to R331,
R350 to R352): registers, memory operands, and the constructors of `Instr` for the rows of
spec/opcode_table.json. A constructor is named by its mnemonic and the operand letters of its row; a condition's short and
near jump are one constructor, and so are the three counts of a shift (log 38). -/

namespace Sys2Proof

/-- A general register by its encoding number (10_state.md R33). The names are those of the `reg32` column;
at width 16 the number names the `reg16` column (AX .. DI), at width 8 the `reg8` column (AL, CL, DL, BL, AH,
CH, DH, BH). -/
inductive Reg where
  | eax | ecx | edx | ebx | esp | ebp | esi | edi
  deriving DecidableEq, Repr

/-- A segment register (10_state.md R33, R36). -/
inductive SReg where
  | es | cs | ss | ds | fs | gs
  deriving DecidableEq, Repr

/-- The base and index combinations of 16-bit addressing, in the order of their r/m numbers (R321). -/
inductive Base16 where
  | bxSi | bxDi | bpSi | bpDi | si | di | bp | bx
  deriving DecidableEq, Repr

/-- The displacement of a 16-bit memory form: mod = 0, 1, 2 (R321, R326). -/
inductive Disp16 where
  | none
  | d8 (v : Byte)
  | d16 (v : Word16)
  deriving DecidableEq, Repr

/-- The displacement of a 32-bit memory form: mod = 0, 1, 2 (R322, R323, R326). -/
inductive Disp32 where
  | none
  | d8 (v : Byte)
  | d32 (v : Word32)
  deriving DecidableEq, Repr

/-- A memory operand as ModR/M and SIB give it (R321, R322, R323). -/
inductive Mem where
  /-- 16-bit addressing, mod = 0, r/m = 6: a displacement alone. -/
  | abs16 (disp : Word16)
  /-- 16-bit addressing with base and index registers. -/
  | ind16 (base : Base16) (disp : Disp16)
  /-- 32-bit addressing, mod = 0, r/m = 5: a displacement alone. -/
  | abs32 (disp : Word32)
  /-- 32-bit addressing by one base register. -/
  | ind32 (base : Reg) (disp : Disp32)
  /-- A SIB byte with a base; index ESP (number 4) stands for no index. -/
  | sib (scale : BitVec 2) (index base : Reg) (disp : Disp32)
  /-- A SIB byte with base number 5 and mod = 0: no base, a 32-bit displacement. -/
  | sibAbs (scale : BitVec 2) (index : Reg) (disp : Word32)
  deriving DecidableEq, Repr

/-- An r/m operand: a register (mod = 3) or memory (R320). -/
inductive RM where
  | reg (r : Reg)
  | mem (m : Mem)
  deriving DecidableEq, Repr

/-- The displacement of a conditional jump: the `Jb` row's or the `Jv` row's (R350, R352). -/
inductive RelDisp where
  | short (imm : Byte)
  | near (imm : Word32)
  deriving DecidableEq, Repr

/-- The count of a shift or rotate: the row with `1`, the row with `CL`, the row with `Ib` (R351, group 2). -/
inductive ShiftCount where
  | one
  | cl
  | imm (v : Byte)
  deriving DecidableEq, Repr

/-- One constructor per row of spec/opcode_table.json (R350 to R352), the rows with operands first, each part in
the table's order. Two families of rows share a constructor, with an operand that says which row it is: the `Jb`
and the `Jv` row of each conditional jump (`RelDisp`), and the `1`, `CL` and `Ib` rows of each shift or rotate of
one width (`ShiftCount`); Lean's runtime numbers at most 245 constructors that carry operands. An immediate of
OpSize bits and a `moffs` are held zero-extended to 32 bits; a field that selects a special register is kept as
its three bits. -/
inductive Instr where
  | addEbGb (rm : RM) (r : Reg)
  | addEvGv (rm : RM) (r : Reg)
  | addGbEb (r : Reg) (rm : RM)
  | addGvEv (r : Reg) (rm : RM)
  | addAlIb (imm : Byte)
  | addEaxIv (imm : Word32)
  | addEbIb (rm : RM) (imm : Byte)
  | addEvIv (rm : RM) (imm : Word32)
  | addEvIb (rm : RM) (imm : Byte)
  | orEbGb (rm : RM) (r : Reg)
  | orEvGv (rm : RM) (r : Reg)
  | orGbEb (r : Reg) (rm : RM)
  | orGvEv (r : Reg) (rm : RM)
  | orAlIb (imm : Byte)
  | orEaxIv (imm : Word32)
  | orEbIb (rm : RM) (imm : Byte)
  | orEvIv (rm : RM) (imm : Word32)
  | orEvIb (rm : RM) (imm : Byte)
  | adcEbGb (rm : RM) (r : Reg)
  | adcEvGv (rm : RM) (r : Reg)
  | adcGbEb (r : Reg) (rm : RM)
  | adcGvEv (r : Reg) (rm : RM)
  | adcAlIb (imm : Byte)
  | adcEaxIv (imm : Word32)
  | adcEbIb (rm : RM) (imm : Byte)
  | adcEvIv (rm : RM) (imm : Word32)
  | adcEvIb (rm : RM) (imm : Byte)
  | sbbEbGb (rm : RM) (r : Reg)
  | sbbEvGv (rm : RM) (r : Reg)
  | sbbGbEb (r : Reg) (rm : RM)
  | sbbGvEv (r : Reg) (rm : RM)
  | sbbAlIb (imm : Byte)
  | sbbEaxIv (imm : Word32)
  | sbbEbIb (rm : RM) (imm : Byte)
  | sbbEvIv (rm : RM) (imm : Word32)
  | sbbEvIb (rm : RM) (imm : Byte)
  | andEbGb (rm : RM) (r : Reg)
  | andEvGv (rm : RM) (r : Reg)
  | andGbEb (r : Reg) (rm : RM)
  | andGvEv (r : Reg) (rm : RM)
  | andAlIb (imm : Byte)
  | andEaxIv (imm : Word32)
  | andEbIb (rm : RM) (imm : Byte)
  | andEvIv (rm : RM) (imm : Word32)
  | andEvIb (rm : RM) (imm : Byte)
  | subEbGb (rm : RM) (r : Reg)
  | subEvGv (rm : RM) (r : Reg)
  | subGbEb (r : Reg) (rm : RM)
  | subGvEv (r : Reg) (rm : RM)
  | subAlIb (imm : Byte)
  | subEaxIv (imm : Word32)
  | subEbIb (rm : RM) (imm : Byte)
  | subEvIv (rm : RM) (imm : Word32)
  | subEvIb (rm : RM) (imm : Byte)
  | xorEbGb (rm : RM) (r : Reg)
  | xorEvGv (rm : RM) (r : Reg)
  | xorGbEb (r : Reg) (rm : RM)
  | xorGvEv (r : Reg) (rm : RM)
  | xorAlIb (imm : Byte)
  | xorEaxIv (imm : Word32)
  | xorEbIb (rm : RM) (imm : Byte)
  | xorEvIv (rm : RM) (imm : Word32)
  | xorEvIb (rm : RM) (imm : Byte)
  | cmpEbGb (rm : RM) (r : Reg)
  | cmpEvGv (rm : RM) (r : Reg)
  | cmpGbEb (r : Reg) (rm : RM)
  | cmpGvEv (r : Reg) (rm : RM)
  | cmpAlIb (imm : Byte)
  | cmpEaxIv (imm : Word32)
  | cmpEbIb (rm : RM) (imm : Byte)
  | cmpEvIv (rm : RM) (imm : Word32)
  | cmpEvIb (rm : RM) (imm : Byte)
  | incRv (r : Reg)
  | decRv (r : Reg)
  | pushRv (r : Reg)
  | popRv (r : Reg)
  | boundGvMa (r : Reg) (m : Mem)
  | arplEwGw (rm : RM) (r : Reg)
  | pushIv (imm : Word32)
  | imulGvEvIv (r : Reg) (rm : RM) (imm : Word32)
  | pushIb (imm : Byte)
  | imulGvEvIb (r : Reg) (rm : RM) (imm : Byte)
  | jo (disp : RelDisp)
  | jno (disp : RelDisp)
  | jb (disp : RelDisp)
  | jae (disp : RelDisp)
  | je (disp : RelDisp)
  | jne (disp : RelDisp)
  | jbe (disp : RelDisp)
  | ja (disp : RelDisp)
  | js (disp : RelDisp)
  | jns (disp : RelDisp)
  | jp (disp : RelDisp)
  | jnp (disp : RelDisp)
  | jl (disp : RelDisp)
  | jge (disp : RelDisp)
  | jle (disp : RelDisp)
  | jg (disp : RelDisp)
  | setoEb (rm : RM)
  | setnoEb (rm : RM)
  | setbEb (rm : RM)
  | setaeEb (rm : RM)
  | seteEb (rm : RM)
  | setneEb (rm : RM)
  | setbeEb (rm : RM)
  | setaEb (rm : RM)
  | setsEb (rm : RM)
  | setnsEb (rm : RM)
  | setpEb (rm : RM)
  | setnpEb (rm : RM)
  | setlEb (rm : RM)
  | setgeEb (rm : RM)
  | setleEb (rm : RM)
  | setgEb (rm : RM)
  | testEbGb (rm : RM) (r : Reg)
  | testEvGv (rm : RM) (r : Reg)
  | xchgEbGb (rm : RM) (r : Reg)
  | xchgEvGv (rm : RM) (r : Reg)
  | movEbGb (rm : RM) (r : Reg)
  | movEvGv (rm : RM) (r : Reg)
  | movGbEb (r : Reg) (rm : RM)
  | movGvEv (r : Reg) (rm : RM)
  | movEwSreg (rm : RM) (n : BitVec 3)
  | leaGvM (r : Reg) (m : Mem)
  | movSregEw (n : BitVec 3) (rm : RM)
  | popEv (rm : RM)
  | callApFar (off : Word32) (sel : Word16)
  | movAlOb (off : Word32)
  | movEaxOv (off : Word32)
  | movObAl (off : Word32)
  | movOvEax (off : Word32)
  | testAlIb (imm : Byte)
  | testEaxIv (imm : Word32)
  | movR8Ib (r : Reg) (imm : Byte)
  | movRvIv (r : Reg) (imm : Word32)
  | rolEb (rm : RM) (count : ShiftCount)
  | rolEv (rm : RM) (count : ShiftCount)
  | rorEb (rm : RM) (count : ShiftCount)
  | rorEv (rm : RM) (count : ShiftCount)
  | rclEb (rm : RM) (count : ShiftCount)
  | rclEv (rm : RM) (count : ShiftCount)
  | rcrEb (rm : RM) (count : ShiftCount)
  | rcrEv (rm : RM) (count : ShiftCount)
  | shlEb (rm : RM) (count : ShiftCount)
  | shlEv (rm : RM) (count : ShiftCount)
  | shrEb (rm : RM) (count : ShiftCount)
  | shrEv (rm : RM) (count : ShiftCount)
  | sarEb (rm : RM) (count : ShiftCount)
  | sarEv (rm : RM) (count : ShiftCount)
  | retIwNear (imm : Word16)
  | lesGvMp (r : Reg) (m : Mem)
  | ldsGvMp (r : Reg) (m : Mem)
  | movEbIb (rm : RM) (imm : Byte)
  | movEvIv (rm : RM) (imm : Word32)
  | enterIwIb (size : Word16) (level : Byte)
  | retIwFar (imm : Word16)
  | intIb (imm : Byte)
  | aamIb (imm : Byte)
  | aadIb (imm : Byte)
  | esc (op : BitVec 3) (n : BitVec 3) (rm : RM)
  | loopneJb (imm : Byte)
  | loopeJb (imm : Byte)
  | loopJb (imm : Byte)
  | jcxzJb (imm : Byte)
  | jecxzJb (imm : Byte)
  | inAlIb (imm : Byte)
  | inEaxIb (imm : Byte)
  | outIbAl (imm : Byte)
  | outIbEax (imm : Byte)
  | callJvNear (imm : Word32)
  | jmpJvNear (imm : Word32)
  | jmpApFar (off : Word32) (sel : Word16)
  | jmpJbShort (imm : Byte)
  | testEbIb (rm : RM) (imm : Byte)
  | testEvIv (rm : RM) (imm : Word32)
  | notEb (rm : RM)
  | notEv (rm : RM)
  | negEb (rm : RM)
  | negEv (rm : RM)
  | mulEb (rm : RM)
  | mulEv (rm : RM)
  | imulEb (rm : RM)
  | imulEv (rm : RM)
  | divEb (rm : RM)
  | divEv (rm : RM)
  | idivEb (rm : RM)
  | idivEv (rm : RM)
  | incEb (rm : RM)
  | decEb (rm : RM)
  | incEv (rm : RM)
  | decEv (rm : RM)
  | callEvNear (rm : RM)
  | callMpFar (m : Mem)
  | jmpEvNear (rm : RM)
  | jmpMpFar (m : Mem)
  | pushEv (rm : RM)
  | sldtEw (rm : RM)
  | strEw (rm : RM)
  | lldtEw (rm : RM)
  | ltrEw (rm : RM)
  | verrEw (rm : RM)
  | verwEw (rm : RM)
  | sgdtM (m : Mem)
  | sidtM (m : Mem)
  | lgdtM (m : Mem)
  | lidtM (m : Mem)
  | smswEw (rm : RM)
  | lmswEw (rm : RM)
  | larGvEw (r : Reg) (rm : RM)
  | lslGvEw (r : Reg) (rm : RM)
  | movR32Crn (r : Reg) (n : BitVec 3)
  | movR32Drn (r : Reg) (n : BitVec 3)
  | movCrnR32 (n : BitVec 3) (r : Reg)
  | movDrnR32 (n : BitVec 3) (r : Reg)
  | movR32Trn (r : Reg) (n : BitVec 3)
  | movTrnR32 (n : BitVec 3) (r : Reg)
  | btEvGv (rm : RM) (r : Reg)
  | shldEvGvIb (rm : RM) (r : Reg) (imm : Byte)
  | shldEvGvCl (rm : RM) (r : Reg)
  | btsEvGv (rm : RM) (r : Reg)
  | shrdEvGvIb (rm : RM) (r : Reg) (imm : Byte)
  | shrdEvGvCl (rm : RM) (r : Reg)
  | imulGvEv (r : Reg) (rm : RM)
  | lssGvMp (r : Reg) (m : Mem)
  | btrEvGv (rm : RM) (r : Reg)
  | lfsGvMp (r : Reg) (m : Mem)
  | lgsGvMp (r : Reg) (m : Mem)
  | movzxGvEb (r : Reg) (rm : RM)
  | movzxGvEw (r : Reg) (rm : RM)
  | btEvIb (rm : RM) (imm : Byte)
  | btsEvIb (rm : RM) (imm : Byte)
  | btrEvIb (rm : RM) (imm : Byte)
  | btcEvIb (rm : RM) (imm : Byte)
  | btcEvGv (rm : RM) (r : Reg)
  | bsfGvEv (r : Reg) (rm : RM)
  | bsrGvEv (r : Reg) (rm : RM)
  | movsxGvEb (r : Reg) (rm : RM)
  | movsxGvEw (r : Reg) (rm : RM)
  | pushEs
  | pushCs
  | pushSs
  | pushDs
  | pushFs
  | pushGs
  | popEs
  | popSs
  | popDs
  | popFs
  | popGs
  | daa
  | das
  | aaa
  | aas
  | pusha
  | pushad
  | popa
  | popad
  | insb
  | insw
  | insd
  | outsb
  | outsw
  | outsd
  | nop
  | xchgEaxEcx
  | xchgEaxEdx
  | xchgEaxEbx
  | xchgEaxEsp
  | xchgEaxEbp
  | xchgEaxEsi
  | xchgEaxEdi
  | cbw
  | cwde
  | cwd
  | cdq
  | wait
  | pushf
  | pushfd
  | popf
  | popfd
  | sahf
  | lahf
  | movsb
  | movsw
  | movsd
  | cmpsb
  | cmpsw
  | cmpsd
  | stosb
  | stosw
  | stosd
  | lodsb
  | lodsw
  | lodsd
  | scasb
  | scasw
  | scasd
  | retNear
  | leave
  | retFar
  | int3
  | into
  | iret
  | iretd
  | xlat
  | inAlDx
  | inEaxDx
  | outDxAl
  | outDxEax
  | hlt
  | cmc
  | clc
  | stc
  | cli
  | sti
  | cld
  | std
  | clts
  | pfxEs
  | pfxCs
  | pfxSs
  | pfxDs
  | pfxFs
  | pfxGs
  | pfxOpSize
  | pfxAddrSize
  | pfxLock
  | pfxRepne
  | pfxRep
  | undef82
  | undefD6
  | undefF1
  deriving DecidableEq, Repr

end Sys2Proof
end

