-- ==== Sys2Proof/Machine/State.lean ====
section
/-! DEFINITION. State.lean: everything the spec gives the 80386 as state (10_state.md; INVENTORY.md, State), as plain
data, the state after RESET (R90), and the reasons a step can stop. -/

namespace Sys2Proof.Machine

/-- The eight general registers (10_state.md R30). -/
structure Regs where
  eax : Word32
  ecx : Word32
  edx : Word32
  ebx : Word32
  esp : Word32
  ebp : Word32
  esi : Word32
  edi : Word32
  deriving DecidableEq, Repr

/-- EFLAGS (10_state.md R40): its flags by name; `ie` is IF and `ov` is OF. Bits 1, 3, 5, 15 and 31:18 are constants (R44) and are supplied by
`Flags.image`. -/
structure Flags where
  cf : Bool
  pf : Bool
  af : Bool
  zf : Bool
  sf : Bool
  tf : Bool
  ie : Bool
  df : Bool
  ov : Bool
  iopl : BitVec 2
  nt : Bool
  rf : Bool
  vm : Bool
  deriving DecidableEq, Repr

/-- The attributes a segment register's hidden part holds (10_state.md R37; 21_translation_protection.md R160). -/
structure SegAttr where
  present : Bool
  dpl : BitVec 2
  /-- S: a code or data segment. -/
  s : Bool
  type : BitVec 4
  g : Bool
  /-- D for a code segment, B for a data segment. -/
  db : Bool
  deriving DecidableEq, Repr

/-- A segment register: the visible selector and the hidden part (10_state.md R36, R37). `limit` is the effective
limit; `valid` is false after a null selector is loaded. -/
structure Seg where
  sel : Word16
  base : Word32
  limit : Word32
  attr : SegAttr
  valid : Bool
  deriving DecidableEq, Repr

/-- GDTR and IDTR (10_state.md R50, R51). -/
structure TableReg where
  base : Word32
  limit : Word16
  deriving DecidableEq, Repr

/-- LDTR: the selector, and the hidden base and limit with the bit that says an LDT is loaded (10_state.md R52;
48_system.md R664). -/
structure Ldtr where
  sel : Word16
  base : Word32
  limit : Word32
  valid : Bool
  deriving DecidableEq, Repr

/-- TR: the selector, and the hidden base, limit and descriptor type (10_state.md R53; 21_translation_protection.md
R237). -/
structure Tr where
  sel : Word16
  base : Word32
  limit : Word32
  type : BitVec 4
  deriving DecidableEq, Repr

/-- The bits of CR0 that hold something (10_state.md R54). Bits 30:5 are reserved: writes to them are ignored and
they read as free values (48_system.md R680, log 4). -/
structure Cr0 where
  pe : Bool
  mp : Bool
  em : Bool
  ts : Bool
  et : Bool
  pg : Bool
  deriving DecidableEq, Repr

/-- The debug registers (10_state.md R61); DR4 and DR5 are other names of DR6 and DR7 (30_encoding.md R354). -/
structure DebugRegs where
  dr0 : Word32
  dr1 : Word32
  dr2 : Word32
  dr3 : Word32
  dr6 : Word32
  dr7 : Word32
  deriving DecidableEq, Repr

/-- The test registers (10_state.md R62). -/
structure TestRegs where
  tr6 : Word32
  tr7 : Word32
  deriving DecidableEq, Repr

/-- An entry of the page translation cache (21_translation_protection.md R222). -/
structure TlbEntry where
  page : BitVec 20
  frame : BitVec 20
  user : Bool
  write : Bool
  dirty : Bool
  deriving DecidableEq, Repr

/-- A byte of memory that was overwritten and that the prefetch queue may still hold (20_memory.md R138): its address,
its old value, the offset of the instruction that was executing, and how many bytes from there the queue may reach. -/
structure Stale where
  pa : Word32
  old : Byte
  start : Word32
  span : Nat
  deriving DecidableEq, Repr

/-- Physical memory: the bytes that differ from what an unlisted address reads as (`Memory.unlisted`), by strictly
rising address. -/
abbrev Memory := List Host.Cell

/-- What a byte of memory that nothing has written reads as (DESIGN CHOICE, log 6). -/
abbrev Memory.unlisted : Byte := 0

/-- What stands at a physical address (00_scope.md R7; 20_memory.md R112). -/
inductive RegionKind where
  | ram | rom | device | absent
  deriving DecidableEq, Repr

/-- A region of the physical address space. -/
structure Region where
  base : Nat
  size : Nat
  kind : RegionKind
  deriving DecidableEq, Repr

/-- Which coprocessor is attached (00_scope.md R7). -/
inductive Coproc where
  | none | i287 | i387
  deriving DecidableEq, Repr

/-- The parameters of 00_scope.md R7 that are data; they do not change as the machine runs (log 1). An address in no
region is RAM. -/
structure Platform where
  map : List Region
  coproc : Coproc
  revDl : Byte
  selfTest : Bool
  resetCs : Word16
  ioBitmapWordRead : Bool
  prefetchBytes : Nat
  deriving DecidableEq, Repr

/-- Running, halted by HLT, or shut down (00_scope.md R18; 48_system.md R690; 60_exceptions.md R758). -/
inductive Activity where
  | running | halted | shutdown
  deriving DecidableEq, Repr

/-- A repeat prefix (30_encoding.md R312). -/
inductive Rep where
  | repe | repne
  deriving DecidableEq, Repr

/-- The instruction in progress (00_scope.md R15; 10_state.md R47; 30_encoding.md R313, R316): where it starts, where
the next byte is fetched, the default size of its code segment, its size attributes and its prefixes. `committed` says
that a task switch has passed its commit point, `partway` that a fault from here on keeps the registers changed so far
(93_implementation_defined.md U10), `keepRf` that the instruction loaded RF itself, `incomplete` that it does not
complete: a fault was delivered in place of it, or WAIT still waits (log 15). -/
structure Cur where
  start : Word32
  next : Word32
  code : Size
  opSize : Size
  addrSize : Size
  seg : Option SReg
  rep : Option Rep
  lock : Bool
  committed : Bool
  partway : Bool
  keepRf : Bool
  incomplete : Bool
  deriving DecidableEq, Repr

/-- An access that a device observes (00_scope.md R16; 20_memory.md R113, R115): its address, how many bytes, and the
value. -/
inductive BusEvent where
  | portIn (port : Word16) (n : Nat) (value : Word32)
  | portOut (port : Word16) (n : Nat) (value : Word32)
  | devRead (pa : Word32) (bytes : List Byte)
  | devWrite (pa : Word32) (bytes : List Byte)
  deriving DecidableEq, Repr

/-- What can happen outside the processor before a step (00_scope.md R16; log 8, log 9, log 35, log 40). -/
inductive Input where
  /-- Nothing. -/
  | quiet
  /-- INTR is asserted with that identifier. -/
  | intr (n : Byte)
  /-- A signal on the NMI pin. -/
  | nmi
  /-- A signal on the RESET pin. -/
  | reset
  /-- The coprocessor's BUSY# line becomes active or inactive. -/
  | busy (on : Bool)
  /-- The coprocessor's ERROR# line becomes active or inactive. -/
  | error (on : Bool)
  /-- Another bus master writes bytes of physical memory at an instruction boundary. -/
  | master (cells : List (Word32 × Byte))
  deriving DecidableEq, Repr

/-- The 80386 and the world it observes. -/
structure State where
  regs : Regs
  eip : Word32
  flags : Flags
  es : Seg
  cs : Seg
  ss : Seg
  ds : Seg
  fs : Seg
  gs : Seg
  /-- The current privilege level (10_state.md R60; log 16). -/
  cpl : BitVec 2
  gdtr : TableReg
  idtr : TableReg
  ldtr : Ldtr
  tr : Tr
  cr0 : Cr0
  cr2 : Word32
  /-- Bits 11:0 are zero (92_eei_decisions.md D20). -/
  cr3 : Word32
  dbg : DebugRegs
  test : TestRegs
  mem : Memory
  tlb : List TlbEntry
  prefetch : List Stale
  /-- PE was changed and no transfer of control has emptied the prefetch queue since (70_reset_and_hazards.md R830,
  R845; log 27). -/
  modeStale : Bool
  /-- The NMI-in-service latch (10_state.md R67). -/
  nmiLatch : Bool
  /-- An NMI is remembered (60_exceptions.md R746). -/
  nmiPending : Bool
  /-- INTR is asserted, with its identifier (10_state.md R70). -/
  intr : Option Byte
  /-- The interrupt-inhibit latch (10_state.md R68). -/
  inhibit : Bool
  /-- The one-instruction delay of STI (48_system.md R692). -/
  stiShadow : Bool
  /-- A single-step or task-switch trap is pending (60_exceptions.md R745, R795). -/
  debugTrap : Bool
  activity : Activity
  /-- The coprocessor lines (49_io_coprocessor.md R711, R712). -/
  busyLine : Bool
  errorLine : Bool
  /-- LOCK# is asserted: no other bus master acts between the bus cycles (20_memory.md R127, R128). -/
  busLock : Bool
  cur : Cur
  /-- The model's own: what will still happen outside, one entry before each step. -/
  inputs : List Input
  /-- The model's own: what other bus masters will write, one entry before each bus cycle of the processor that LOCK# does
  not protect (20_memory.md R125, R145; log 9). -/
  masters : List (List (Word32 × Byte))
  /-- The model's own: the port and device accesses made, the latest first. -/
  events : List BusEvent
  /-- The model's own: numbers the free values (log 7). -/
  free : Nat
  /-- The model's own: the parameters of 00_scope.md R7. -/
  plat : Platform
  deriving DecidableEq, Repr

/-- What stops the machine with a fault: nothing. An exception is taken (60_exceptions.md R760), an absent address
answers (20_memory.md R112), and shutdown is a state (60_exceptions.md R758). -/
inductive Fault where
  deriving DecidableEq, Repr

/-- Why a step is refused: the spec's own end state 'refused' (00_scope.md R5, R18). -/
inductive Refusal where
  /-- An instruction that has no meaning in the model; raised by no meaning. Safe: nothing is claimed of it. -/
  | notModelled (mnemonic : String)
  /-- A state or flags image with VM = 1 (R5 (a), D9): raised by `step`, IRETD and a task switch. Safe. -/
  | virtual8086
  /-- A gate or TSS of 80286 format is used (R5 (b), D10): raised by far transfers, LTR, task switches and event
  delivery. Safe. -/
  | desc286
  /-- MOV to DR7 of a value that enables a breakpoint (R5 (c), D30). Safe. -/
  | breakpoint
  /-- MOV to TR6, a TLB test command (R5 (d), D31). Safe. -/
  | tlbTest
  /-- An ESC that is not trapped while a coprocessor is attached (R5 (e), D12). Safe. -/
  | coprocessor
  /-- A port access that runs past port FFFFH (20_memory.md R115, D27): raised by IN, OUT, INS and OUTS. Safe. -/
  | portPastEnd
  /-- MOV to CR0 of a value with PG = 1 and PE = 0 (10_state.md R54). Safe. -/
  | pagingInRealMode
  deriving DecidableEq, Repr

/-- No instruction is in progress. -/
def Cur.idle : Cur :=
  { start := 0, next := 0, code := .s16, opSize := .s16, addrSize := .s16, seg := none, rep := none, lock := false,
    committed := false, partway := false, keepRf := false, incomplete := false }

/-- Every flag 0: EFLAGS = 00000002H (10_state.md R90). -/
def Flags.reset : Flags :=
  { cf := false, pf := false, af := false, zf := false, sf := false, tf := false, ie := false, df := false,
    ov := false, iopl := 0, nt := false, rf := false, vm := false }

/-- A data segment register after RESET (10_state.md R90; DPL, A, G and B: log 5). -/
def Seg.resetData : Seg :=
  { sel := 0, base := 0, limit := 0xFFFF, valid := true,
    attr := { present := true, dpl := 0, s := true, type := 0x3, g := false, db := false } }

/-- CS after RESET with that visible selector (10_state.md R90; DPL, A, G and D: log 5). -/
def Seg.resetCode (sel : Word16) : Seg :=
  { sel := sel, base := 0xFFFF0000, limit := 0xFFFF, valid := true,
    attr := { present := true, dpl := 0, s := true, type := 0xB, g := false, db := false } }

/-- The defaults of 00_scope.md R7, and for the parameters that have none the values of log 1. -/
def Platform.default : Platform :=
  { map := [], coproc := .none, revDl := 0, selfTest := false, resetCs := 0xF000, ioBitmapWordRead := false,
    prefetchBytes := 16 }

/-- The state a signal on RESET leaves (10_state.md R90, 70_reset_and_hazards.md R821), from what RESET does not
change: memory, the platform, the coprocessor's lines, and the model's own fields (log 37). A register that R90 calls
undefined takes the value of log 2, 3 or 4. -/
def State.afterReset (mem : Memory) (plat : Platform) (busyLine errorLine : Bool) (inputs : List Input)
    (masters : List (List (Word32 × Byte))) (events : List BusEvent) (free : Nat) : State :=
  { regs := { eax := 0, ecx := 0, edx := 0x300 + plat.revDl.setWidth 32, ebx := 0, esp := 0, ebp := 0, esi := 0,
              edi := 0 }
    eip := 0xFFF0
    flags := .reset
    es := .resetData
    cs := .resetCode plat.resetCs
    ss := .resetData
    ds := .resetData
    fs := .resetData
    gs := .resetData
    cpl := 0
    gdtr := { base := 0, limit := 0 }
    idtr := { base := 0, limit := 0x3FF }
    ldtr := { sel := 0, base := 0, limit := 0, valid := false }
    tr := { sel := 0, base := 0, limit := 0, type := 0 }
    cr0 := { pe := false, mp := false, em := false, ts := false, et := decide (plat.coproc = .i387), pg := false }
    cr2 := 0
    cr3 := 0
    dbg := { dr0 := 0, dr1 := 0, dr2 := 0, dr3 := 0, dr6 := 0, dr7 := 0 }
    test := { tr6 := 0, tr7 := 0 }
    mem := mem
    tlb := []
    prefetch := []
    modeStale := false
    nmiLatch := false
    nmiPending := false
    intr := none
    inhibit := false
    stiShadow := false
    debugTrap := false
    activity := .running
    busyLine := busyLine
    errorLine := errorLine
    busLock := false
    cur := .idle
    inputs := inputs
    masters := masters
    events := events
    free := free
    plat := plat }

/-- The machine right after reset (10_state.md R90) with nothing in memory, the default platform and nothing to come
from outside. -/
def State.reset : State :=
  .afterReset [] .default false false [] [] [] 0

end Sys2Proof.Machine
end

