-- ==== Sys2Proof/Machine/Bits.lean ====
section
/-! DEFINITION. Bits.lean: register names and widths (10_state.md R30 to R33), the flags image (R40, R44), selectors,
descriptors and gates as bit layouts (21_translation_protection.md R153, R160 to R164, R192; 60_exceptions.md R751). -/

namespace Sys2Proof.Machine

/-! ## General registers -/

/-- The 32 bits of a register (R30). -/
def Regs.get (g : Regs) : Reg → Word32
  | .eax => g.eax | .ecx => g.ecx | .edx => g.edx | .ebx => g.ebx
  | .esp => g.esp | .ebp => g.ebp | .esi => g.esi | .edi => g.edi

/-- The registers with all 32 bits of one changed (R30). -/
def Regs.set (g : Regs) (r : Reg) (v : Word32) : Regs :=
  match r with
  | .eax => { g with eax := v } | .ecx => { g with ecx := v } | .edx => { g with edx := v } | .ebx => { g with ebx := v }
  | .esp => { g with esp := v } | .ebp => { g with ebp := v } | .esi => { g with esi := v } | .edi => { g with edi := v }

/-- The register that holds the byte register of that number, and whether it is its high byte (R32, R33). -/
def byteReg : Reg → Reg × Bool
  | .eax => (.eax, false) | .ecx => (.ecx, false) | .edx => (.edx, false) | .ebx => (.ebx, false)
  | .esp => (.eax, true) | .ebp => (.ecx, true) | .esi => (.edx, true) | .edi => (.ebx, true)

/-- The low 16 bits replaced (R31). -/
def setLow16 (old : Word32) (v : Word16) : Word32 := old.extractLsb' 16 16 ++ v

/-- Bits 7:0 replaced (R32). -/
def setLow8 (old : Word32) (v : Byte) : Word32 := old.extractLsb' 8 24 ++ v

/-- Bits 15:8 replaced (R32). -/
def setHigh8 (old : Word32) (v : Byte) : Word32 := (old.extractLsb' 16 16 ++ v) ++ old.extractLsb' 0 8

/-- A register by number at a width (R33). -/
def Regs.read (g : Regs) (w : Width) (r : Reg) : Val w :=
  match w with
  | .b8 => if (byteReg r).2 then (g.get (byteReg r).1).extractLsb' 8 8 else (g.get (byteReg r).1).extractLsb' 0 8
  | .b16 => (g.get r).extractLsb' 0 16
  | .b32 => g.get r

/-- The registers with the register of that number and width changed (R31, R32, R33). -/
def Regs.write (g : Regs) (w : Width) (r : Reg) (v : Val w) : Regs :=
  match w, v with
  | .b8, v =>
    let p := byteReg r
    g.set p.1 (if p.2 then setHigh8 (g.get p.1) v else setLow8 (g.get p.1) v)
  | .b16, v => g.set r (setLow16 (g.get r) v)
  | .b32, v => g.set r v

/-! ## EFLAGS -/

/-- A bit of a word from a flag. -/
def bit (b : Bool) (k : Nat) : Word32 := if b then (1 : Word32) <<< k else 0

/-- EFLAGS as 32 bits (R40, R44). -/
def Flags.image (f : Flags) : Word32 :=
  bit f.cf 0 ||| 2 ||| bit f.pf 2 ||| bit f.af 4 ||| bit f.zf 6 ||| bit f.sf 7 ||| bit f.tf 8 ||| bit f.ie 9 |||
  bit f.df 10 ||| bit f.ov 11 ||| (f.iopl.setWidth 32 <<< 12) ||| bit f.nt 14 ||| bit f.rf 16 ||| bit f.vm 17

/-- The flags of 32 bits (R40); writes to the constant bits are ignored (R44). -/
def Flags.ofImage (v : Word32) : Flags :=
  { cf := v.getLsbD 0, pf := v.getLsbD 2, af := v.getLsbD 4, zf := v.getLsbD 6, sf := v.getLsbD 7, tf := v.getLsbD 8,
    ie := v.getLsbD 9, df := v.getLsbD 10, ov := v.getLsbD 11, iopl := v.extractLsb' 12 2, nt := v.getLsbD 14,
    rf := v.getLsbD 16, vm := v.getLsbD 17 }

/-! ## Segment registers -/

/-- A segment register of the state (R36). -/
def State.seg (s : State) : SReg → Seg
  | .es => s.es | .cs => s.cs | .ss => s.ss | .ds => s.ds | .fs => s.fs | .gs => s.gs

/-- The state with a segment register replaced (R36). -/
def State.setSeg (s : State) (r : SReg) (g : Seg) : State :=
  match r with
  | .es => { s with es := g } | .cs => { s with cs := g } | .ss => { s with ss := g }
  | .ds => { s with ds := g } | .fs => { s with fs := g } | .gs => { s with gs := g }

/-- The segment register of a 3-bit number (R33); numbers 6 and 7 are reserved. -/
def sregOf (n : BitVec 3) : Option SReg :=
  match n.toNat with
  | 0 => some .es | 1 => some .cs | 2 => some .ss | 3 => some .ds | 4 => some .fs | 5 => some .gs | _ => none

/-- A code segment (21_translation_protection.md R161). -/
def SegAttr.code (a : SegAttr) : Bool := a.s && a.type.getLsbD 3
/-- A data segment (R161). -/
def SegAttr.data (a : SegAttr) : Bool := a.s && !a.type.getLsbD 3
/-- A conforming code segment (R161). -/
def SegAttr.conforming (a : SegAttr) : Bool := a.code && a.type.getLsbD 2
/-- A segment a data read may use: data, or code with R = 1 (R161, R181). -/
def SegAttr.readable (a : SegAttr) : Bool := a.data || (a.code && a.type.getLsbD 1)
/-- A segment a write may use: data with W = 1 (R161, R182). -/
def SegAttr.writable (a : SegAttr) : Bool := a.data && a.type.getLsbD 1
/-- An expand-down data segment (R161, R170). -/
def SegAttr.expandDown (a : SegAttr) : Bool := a.data && a.type.getLsbD 2

/-- The bytes `off` to `off + n - 1` lie inside the segment, without wrap (R170; in real-address mode
23_real_address_mode.md R292). In real-address mode the hidden limit alone counts, also where protected mode has left a
segment expand-down (DESIGN CHOICE, log 58: R292 gives the test by the limit, R300 has the attributes stay in force). -/
def Seg.inLimit (g : Seg) (pe : Bool) (off : Word32) (n : Nat) : Bool :=
  if pe && g.attr.expandDown then
    decide (g.limit.toNat < off.toNat) &&
      decide (off.toNat + n - 1 ≤ (if g.attr.db then 0xFFFFFFFF else 0xFFFF))
  else decide (off.toNat + n - 1 ≤ g.limit.toNat)

/-! ## Selectors and descriptors -/

/-- RPL (R153). -/
def rpl (sel : Word16) : BitVec 2 := sel.extractLsb' 0 2
/-- The INDEX field (R153). -/
def selIndex (sel : Word16) : Nat := sel.toNat / 8
/-- TI: the selector names the LDT (R153). -/
def selTI (sel : Word16) : Bool := sel.getLsbD 2
/-- A null selector: index 0 and TI 0 (R154). -/
def selNull (sel : Word16) : Bool := sel.extractLsb' 2 14 == 0
/-- The selector with its RPL replaced. -/
def withRpl (sel : Word16) (p : BitVec 2) : Word16 := sel.extractLsb' 2 14 ++ p

/-- The eight bytes of a descriptor or gate, as two doublewords (R160). -/
structure Desc where
  lo : Word32
  hi : Word32
  deriving DecidableEq, Repr

/-- TYPE (R160). -/
def Desc.type (d : Desc) : BitVec 4 := d.hi.extractLsb' 8 4
/-- S (R160). -/
def Desc.s (d : Desc) : Bool := d.hi.getLsbD 12
/-- DPL (R160). -/
def Desc.dpl (d : Desc) : BitVec 2 := d.hi.extractLsb' 13 2
/-- P (R160). -/
def Desc.present (d : Desc) : Bool := d.hi.getLsbD 15
/-- A, the accessed bit of a code or data segment (R161). -/
def Desc.accessed (d : Desc) : Bool := d.hi.getLsbD 8
/-- The busy bit of a TSS descriptor (22_multitasking.md R254). -/
def Desc.busy (d : Desc) : Bool := d.hi.getLsbD 9
/-- BASE (R160). -/
def Desc.base (d : Desc) : Word32 := (d.hi.extractLsb' 24 8 ++ d.hi.extractLsb' 0 8) ++ d.lo.extractLsb' 16 16
/-- The effective limit (R164). -/
def Desc.limit (d : Desc) : Word32 :=
  let l : BitVec 20 := d.hi.extractLsb' 16 4 ++ d.lo.extractLsb' 0 16
  if d.hi.getLsbD 23 then l ++ (0xFFF : BitVec 12) else l.setWidth 32
/-- What a segment register's hidden part keeps of the descriptor (10_state.md R37). -/
def Desc.attr (d : Desc) : SegAttr :=
  { present := d.present, dpl := d.dpl, s := d.s, type := d.type, g := d.hi.getLsbD 23, db := d.hi.getLsbD 22 }
/-- The segment register that holds this descriptor under that selector (10_state.md R37, R38; 47_segment_misc.md R622):
base, effective limit and attributes are those of the descriptor as it was read, its A bit with them. -/
def Desc.seg (d : Desc) (sel : Word16) : Seg :=
  { sel := sel, base := d.base, limit := d.limit, valid := true, attr := d.attr }
/-- A system descriptor of that type (R163). -/
def Desc.isSys (d : Desc) (t : BitVec 4) : Bool := !d.s && d.type == t
/-- A TSS descriptor of 80286 format (R163). -/
def Desc.tss286 (d : Desc) : Bool := d.isSys 1 || d.isSys 3
/-- A TSS descriptor of 80386 format (22_multitasking.md R254). -/
def Desc.tss386 (d : Desc) : Bool := d.isSys 9 || d.isSys 0xB
/-- SELECTOR of a gate (R192; 60_exceptions.md R751). -/
def Desc.gateSel (d : Desc) : Word16 := d.lo.extractLsb' 16 16
/-- OFFSET of a gate (R192; 60_exceptions.md R751). -/
def Desc.gateOff (d : Desc) : Word32 := d.hi.extractLsb' 16 16 ++ d.lo.extractLsb' 0 16
/-- DWORD COUNT of a call gate (R192). -/
def Desc.gateCount (d : Desc) : Nat := (d.hi.extractLsb' 0 5).toNat

/-- The real-mode base of a selector: selector times 16 (23_real_address_mode.md R291). -/
def realBase (sel : Word16) : Word32 := sel.setWidth 32 <<< 4

end Sys2Proof.Machine
end

