-- ==== Sys2Proof/Machine/Memory.lean ====
section
/-! DEFINITION. Memory.lean: physical memory as a list of cells in one canonical form (20_memory.md R100, R103; log 6),
little-endian values, and the kind of what stands at an address (R112). -/

namespace Sys2Proof.Machine

/-- The byte at an address (20_memory.md R100). -/
def Memory.get (m : Memory) (a : Nat) : Byte :=
  match m with
  | [] => Memory.unlisted
  | (b, v) :: rest => if a < b then Memory.unlisted else if a = b then v else Memory.get rest a

/-- Memory with that cell in front, unless the byte is what an unlisted address reads as. -/
def Memory.cons (a : Nat) (v : Byte) (m : Memory) : Memory :=
  if v = Memory.unlisted then m else (a, v) :: m

/-- Memory with one byte changed, in canonical form. -/
def Memory.set (m : Memory) (a : Nat) (v : Byte) : Memory :=
  match m with
  | [] => Memory.cons a v []
  | (b, w) :: rest =>
    if a < b then Memory.cons a v ((b, w) :: rest)
    else if a = b then Memory.cons a v rest
    else (b, w) :: Memory.set rest a v

/-- Every address of the list is at least `lo`, addresses rise strictly, every address is a physical one (32 bits),
and no byte is what an unlisted address reads as. -/
def Memory.wfFrom (lo : Nat) : Memory → Bool
  | [] => true
  | (a, v) :: rest => decide (lo ≤ a) && decide (a < 4294967296) && !(v == Memory.unlisted) && Memory.wfFrom (a + 1) rest

/-- The canonical form of memory. -/
def Memory.wf (m : Memory) : Bool := Memory.wfFrom 0 m

/-- The number whose bytes are given, the byte at the lowest address first (20_memory.md R103). -/
def leNat : List Byte → Nat
  | [] => 0
  | b :: bs => b.toNat + 256 * leNat bs

/-- The value of those bytes (20_memory.md R103). -/
def ofBytes (w : Width) (bs : List Byte) : Val w := BitVec.ofNat w.bits (leNat bs)

/-- The bytes of a value, the least significant first (20_memory.md R103). -/
def toBytes {k : Nat} (n : Nat) (v : BitVec k) : List Byte :=
  (List.range n).map fun i => v.extractLsb' (8 * i) 8

/-- The region list's answer for an address; an address in no region is RAM (log 1). -/
def regionKind (map : List Region) (a : Nat) : RegionKind :=
  match map with
  | [] => .ram
  | r :: rest => if r.base ≤ a ∧ a < r.base + r.size then r.kind else regionKind rest a

/-- The first region of the list that holds an address; none is RAM (log 1). -/
def regionAt (map : List Region) (a : Nat) : Option Region :=
  map.find? fun r => decide (r.base ≤ a) && decide (a < r.base + r.size)

/-- A byte put in front of the parts of a bus cycle: into the first part, where one region holds both. -/
def regionCons {α : Type} (map : List Region) (address : α → Word32) (a : α) (runs : List (List α)) : List (List α) :=
  match runs with
  | (b :: r) :: rest =>
    if regionAt map (address a).toNat = regionAt map (address b).toNat then (a :: b :: r) :: rest
    else [a] :: (b :: r) :: rest
  | _ => [a] :: runs

/-- The bytes of one bus cycle, cut where the region changes: each part is taken by one region (20_memory.md R112,
R113; log 19). -/
def regionRuns {α : Type} (map : List Region) (address : α → Word32) (p : List α) : List (List α) :=
  p.foldr (regionCons map address) []

end Sys2Proof.Machine
end

