-- ==== Sys2Proof/Machine/Monad.lean ====
section
/-! DEFINITION. Monad.lean: the actions an instruction's meaning is made of. An action reads and changes the state and
ends in a value or in a stop; a stop keeps the state it happened in (00_scope.md R13; log 12). -/

namespace Sys2Proof.Machine

/-- The error code of an exception (60_exceptions.md R752): none, the selector format, or a page fault's three
bits (R738). -/
inductive ErrCode where
  | none
  | sel (v : Word16)
  | page (v : BitVec 3)
  deriving DecidableEq, Repr

/-- An exception raised (00_scope.md R13): its identifier and its error code. -/
structure Exn where
  vec : Byte
  code : ErrCode
  deriving DecidableEq, Repr

/-- Why an action stops: an exception to be taken, shutdown (60_exceptions.md R758), or a refusal. -/
inductive Stop where
  | exc (e : Exn)
  | shutdown
  | refuse (r : Refusal)
  deriving DecidableEq, Repr

/-- An action on the state. -/
abbrev M := EStateM Stop State

/-- Raise an exception. -/
def raise {α : Type} (e : Exn) : M α := fun s => .error (.exc e) s

/-- Refuse by name. -/
def refuse {α : Type} (r : Refusal) : M α := fun s => .error (.refuse r) s

/-- Go on only if the condition holds; else raise the exception. -/
def require (c : Bool) (e : Exn) : M Unit := fun s => if c then .ok () s else .error (.exc e) s

/-- `(sel)` in an exception's notation: the selector with its RPL bits cleared (60_exceptions.md R752). -/
def selCode (sel : Word16) : ErrCode := .sel (sel &&& 0xFFFC)

/-- #UD (60_exceptions.md R740). -/
def ud : Exn := ⟨6, .none⟩
/-- #NM (R740). -/
def nm : Exn := ⟨7, .none⟩
/-- #DE (R740). -/
def de : Exn := ⟨0, .none⟩
/-- #BR (R740). -/
def br : Exn := ⟨5, .none⟩
/-- #MF (R740). -/
def mf : Exn := ⟨16, .none⟩
/-- #TS(sel) (R740). -/
def tsFault (sel : Word16) : Exn := ⟨10, selCode sel⟩
/-- #NP(sel) (R740). -/
def npFault (sel : Word16) : Exn := ⟨11, selCode sel⟩
/-- #SS(sel) (R740). -/
def ssFault (sel : Word16) : Exn := ⟨12, selCode sel⟩
/-- #GP(sel) (R740). -/
def gpFault (sel : Word16) : Exn := ⟨13, selCode sel⟩
/-- #GP(0); exception 13 in real-address mode (23_real_address_mode.md R301). -/
def gp0 : Exn := ⟨13, .sel 0⟩
/-- #SS(0); exception 12 in real-address mode (23_real_address_mode.md R301). -/
def ss0 : Exn := ⟨12, .sel 0⟩

/-- A fresh unspecified value (00_scope.md R10; log 7). -/
def draw : M Word32 := fun s => .ok (Config.freeValue s.free) { s with free := s.free + 1 }

/-- A fresh choice among the admissible translations (21_translation_protection.md R222). -/
def drawTlb : M Nat := fun s => .ok (Config.tlbChoice s.free) { s with free := s.free + 1 }

/-- A fresh choice of what the prefetch queue holds (20_memory.md R138). -/
def drawPrefetch : M Nat := fun s => .ok (Config.prefetchChoice s.free) { s with free := s.free + 1 }

/-- A fresh choice of the order of two bus cycles (20_memory.md R106). -/
def drawSplit : M Bool := fun s => .ok (Config.splitChoice s.free) { s with free := s.free + 1 }

/-- Read a general register (10_state.md R33). -/
def getReg (w : Width) (r : Reg) : M (Val w) := fun s => .ok (s.regs.read w r) s

/-- Write a general register (10_state.md R31, R32; 40_data_movement.md R400 point 2). -/
def setReg (w : Width) (r : Reg) (v : Val w) : M Unit := fun s => .ok () { s with regs := s.regs.write w r v }

/-- Change the flags. -/
def setFlags (f : Flags → Flags) : M Unit := fun s => .ok () { s with flags := f s.flags }

/-- An operation part-way through which a fault keeps the registers changed so far (93_implementation_defined.md U10): the
pushes on the new stack of an inter-level call or delivery, those of PUSHA, and ENTER. -/
def partway (m : M Unit) : M Unit := do
  modify fun s => { s with cur := { s.cur with partway := true } }
  m
  modify fun s => { s with cur := { s.cur with partway := false } }

/-- Load EIP by a transfer of control; the prefetch queue is emptied (20_memory.md R138). -/
def jump (target : Word32) : M Unit := fun s => .ok () { s with eip := target, prefetch := [], modeStale := false }

end Sys2Proof.Machine
end

