-- ==== Sys2Proof/Machine/Flags.lean ====
section
/-! DEFINITION. Flags.lean: the results and the flags of the arithmetic, logical, shift, rotate and decimal operations
(00_scope.md R10, R14; 41_binary_arithmetic.md; 42_decimal_arithmetic.md; 43_logical.md), and the conditions (R505). -/

namespace Sys2Proof.Machine

/-! ## Flag effects -/

/-- What an instruction does to one flag: leaves it, sets it, or leaves it UNDEF (R10, R41). -/
inductive FlagVal where
  | keep
  | set (b : Bool)
  | undef
  deriving DecidableEq, Repr

/-- What an instruction does to the six status flags (R41): a flag that its rule does not name is kept. -/
structure FlagEffect where
  cf : FlagVal := .keep
  pf : FlagVal := .keep
  af : FlagVal := .keep
  zf : FlagVal := .keep
  sf : FlagVal := .keep
  ov : FlagVal := .keep
  deriving DecidableEq, Repr

/-- The new value of a flag, `u` being the unspecified one. -/
def FlagVal.apply (f : FlagVal) (old u : Bool) : Bool :=
  match f with
  | .keep => old
  | .set b => b
  | .undef => u

/-- The flags after an effect; an UNDEF flag takes the bit of `u` at its place in EFLAGS. -/
def Flags.apply (f : Flags) (e : FlagEffect) (u : Word32) : Flags :=
  { f with
    cf := e.cf.apply f.cf (u.getLsbD 0), pf := e.pf.apply f.pf (u.getLsbD 2), af := e.af.apply f.af (u.getLsbD 4)
    zf := e.zf.apply f.zf (u.getLsbD 6), sf := e.sf.apply f.sf (u.getLsbD 7), ov := e.ov.apply f.ov (u.getLsbD 11) }

/-- Apply a flag effect, with a fresh unspecified value for the UNDEF flags (R10, D4). -/
def setEffect (e : FlagEffect) : M Unit := do
  let u ← draw
  setFlags fun f => f.apply e u

/-- All six status flags UNDEF. -/
def allUndef : FlagEffect :=
  { cf := .undef, pf := .undef, af := .undef, zf := .undef, sf := .undef, ov := .undef }

/-! ## The helper functions of R14 -/

/-- `PF_of(r)` (R14): the low eight bits hold an even number of ones. -/
def parity {n : Nat} (r : BitVec n) : Bool :=
  !((((r.getLsbD 0 ^^ r.getLsbD 1) ^^ (r.getLsbD 2 ^^ r.getLsbD 3)) ^^
     ((r.getLsbD 4 ^^ r.getLsbD 5) ^^ (r.getLsbD 6 ^^ r.getLsbD 7))))

/-- `SetSZP(r)` on top of an effect (R14). -/
def FlagEffect.szp {n : Nat} (e : FlagEffect) (r : BitVec n) : FlagEffect :=
  { e with sf := .set r.msb, zf := .set (r == 0), pf := .set (parity r) }

/-- 0 or 1. -/
def carryNat (c : Bool) : Nat := if c then 1 else 0

/-- The sum of an addition with carry-in (R14). -/
def addResult {n : Nat} (a b : BitVec n) (c : Bool) : BitVec n := a + b + BitVec.ofNat n (carryNat c)

/-- The flags of an addition with carry-in (R14). -/
def addFlags {n : Nat} (a b : BitVec n) (c : Bool) : FlagEffect :=
  let r := addResult a b c
  FlagEffect.szp
    { cf := .set (decide (2 ^ n ≤ a.toNat + b.toNat + carryNat c))
      af := .set (decide (16 ≤ a.toNat % 16 + b.toNat % 16 + carryNat c))
      ov := .set (a.msb == b.msb && r.msb != a.msb) } r

/-- The difference of a subtraction with borrow-in (R14). -/
def subResult {n : Nat} (a b : BitVec n) (c : Bool) : BitVec n := a - b - BitVec.ofNat n (carryNat c)

/-- The flags of a subtraction with borrow-in (R14). -/
def subFlags {n : Nat} (a b : BitVec n) (c : Bool) : FlagEffect :=
  let r := subResult a b c
  FlagEffect.szp
    { cf := .set (decide (a.toNat < b.toNat + carryNat c))
      af := .set (decide (a.toNat % 16 < b.toNat % 16 + carryNat c))
      ov := .set (a.msb != b.msb && r.msb != a.msb) } r

/-- The flags of AND, OR, XOR and TEST (R472, R492): OF and CF clear, AF UNDEF. -/
def logicFlags {n : Nat} (r : BitVec n) : FlagEffect :=
  FlagEffect.szp { cf := .set false, ov := .set false, af := .undef } r

/-! ## Two-operand arithmetic and logic -/

/-- The eight operations of the ALU block (R444). -/
inductive AluOp where
  | add | or | adc | sbb | and | sub | xor | cmp
  deriving DecidableEq, Repr

/-- The result of an operation, with CF as it was (R431 to R437, R472 to R474). -/
def AluOp.result (op : AluOp) {n : Nat} (a b : BitVec n) (c : Bool) : BitVec n :=
  match op with
  | .add => addResult a b false
  | .or => a ||| b
  | .adc => addResult a b c
  | .sbb => subResult a b c
  | .and => a &&& b
  | .sub => subResult a b false
  | .xor => a ^^^ b
  | .cmp => subResult a b false

/-- The flags of an operation (R431 to R437, R472 to R474). -/
def AluOp.flags (op : AluOp) {n : Nat} (a b : BitVec n) (c : Bool) : FlagEffect :=
  match op with
  | .add => addFlags a b false
  | .or => logicFlags (a ||| b)
  | .adc => addFlags a b c
  | .sbb => subFlags a b c
  | .and => logicFlags (a &&& b)
  | .sub => subFlags a b false
  | .xor => logicFlags (a ^^^ b)
  | .cmp => subFlags a b false

/-- INC and DEC keep CF (R433, R436). -/
def FlagEffect.keepCf (e : FlagEffect) : FlagEffect := { e with cf := .keep }

/-- CF and OF of a multiplication; the other four flags are UNDEF (R439 to R441). -/
def mulFlags (wide : Bool) : FlagEffect :=
  { cf := .set wide, ov := .set wide, sf := .undef, zf := .undef, af := .undef, pf := .undef }

/-! ## Shifts and rotates -/

/-- The seven operations of group 2 (R482). -/
inductive ShiftOp where
  | rol | ror | rcl | rcr | shl | shr | sar
  deriving DecidableEq, Repr

/-- OF of a shift or rotate: defined for a count of 1 only (R482). -/
def ovIfOne (count : Nat) (b : Bool) : FlagVal := if count = 1 then .set b else .undef

/-- The last bit shifted out, UNDEF for a count above the width (R483, R484). -/
def lastOut (count n : Nat) (b : Bool) : FlagVal := if count ≤ n then .set b else .undef

/-- CF above the operand (R490, R491): n + 1 bits. -/
def withCarry {n : Nat} (c : Bool) (a : BitVec n) : BitVec (1 + n) := BitVec.ofBool c ++ a

/-- Rotated left within its own width. -/
def rotl {n : Nat} (a : BitVec n) (c : Nat) : BitVec n := (a <<< c) ||| (a >>> (n - c))

/-- Rotated right within its own width. -/
def rotr {n : Nat} (a : BitVec n) (c : Nat) : BitVec n := (a >>> c) ||| (a <<< (n - c))

/-- The result of a shift or rotate by a count from 1 to 31 (R483 to R485, R488 to R491). -/
def ShiftOp.result (op : ShiftOp) {n : Nat} (a : BitVec n) (cf : Bool) (count : Nat) : BitVec n :=
  match op with
  | .rol => rotl a (count % n)
  | .ror => rotr a (count % n)
  | .rcl => (rotl (withCarry cf a) (count % (n + 1))).setWidth n
  | .rcr => (rotr (withCarry cf a) (count % (n + 1))).setWidth n
  | .shl => a <<< count
  | .shr => a >>> count
  | .sar => a.sshiftRight count

/-- The flags of a shift or rotate by a count from 1 to 31 (R483 to R485, R488 to R491). -/
def ShiftOp.flags (op : ShiftOp) {n : Nat} (a : BitVec n) (cf : Bool) (count : Nat) : FlagEffect :=
  let r := op.result a cf count
  match op with
  | .rol => { cf := .set (r.getLsbD 0), ov := ovIfOne count (r.msb ^^ r.getLsbD 0) }
  | .ror => { cf := .set r.msb, ov := ovIfOne count (r.msb ^^ r.getLsbD (n - 2)) }
  | .rcl =>
    let c := (rotl (withCarry cf a) (count % (n + 1))).getLsbD n
    { cf := .set c, ov := ovIfOne count (r.msb ^^ c) }
  | .rcr =>
    { cf := .set ((rotr (withCarry cf a) (count % (n + 1))).getLsbD n), ov := ovIfOne count (a.msb ^^ cf) }
  | .shl =>
    FlagEffect.szp { cf := lastOut count n (a.getLsbD (n - count)), af := .undef,
                     ov := ovIfOne count (r.msb ^^ a.getLsbD (n - count)) } r
  | .shr => FlagEffect.szp { cf := lastOut count n (a.getLsbD (count - 1)), af := .undef, ov := ovIfOne count a.msb } r
  | .sar =>
    FlagEffect.szp { cf := .set (if count ≤ n then a.getLsbD (count - 1) else a.msb), af := .undef,
                     ov := ovIfOne count false } r

/-- The result of SHLD or SHRD by a count from 1 to the width (R486, R487). -/
def shiftDouble (left : Bool) {n : Nat} (a b : BitVec n) (count : Nat) : BitVec n :=
  if left then ((a ++ b) >>> (n - count)).setWidth n else ((b ++ a) >>> count).setWidth n

/-- The flags of SHLD or SHRD by a count from 1 to the width (R486, R487). -/
def shiftDoubleFlags (left : Bool) {n : Nat} (a b : BitVec n) (count : Nat) : FlagEffect :=
  let r := shiftDouble left a b count
  FlagEffect.szp { cf := .set (if left then a.getLsbD (n - count) else a.getLsbD (count - 1)), af := .undef,
                   ov := ovIfOne count (r.msb ^^ a.msb) } r

/-! ## Decimal adjustment -/

/-- The low nibble is above 9, or AF is set (R461 to R464). -/
def nibbleAdjust (al : Byte) (af : Bool) : Bool := decide (9 < al.toNat % 16) || af

/-- The high adjustment of DAA and DAS: the old AL is above 99H, or CF was set (R461, R462). -/
def highAdjust (al : Byte) (cf : Bool) : Bool := decide (0x99 < al.toNat) || cf

/-- AL after DAA (R461). -/
def daaResult (al : Byte) (cf af : Bool) : Byte :=
  let x := if nibbleAdjust al af then al + 6 else al
  if highAdjust al cf then x + 0x60 else x

/-- AL after DAS (R462). -/
def dasResult (al : Byte) (cf af : Bool) : Byte :=
  let x := if nibbleAdjust al af then al - 6 else al
  if highAdjust al cf then x - 0x60 else x

/-- The flags of DAA and DAS (R461, R462): OF is UNDEF. -/
def packedFlags (r al : Byte) (cf af : Bool) : FlagEffect :=
  FlagEffect.szp { af := .set (nibbleAdjust al af), cf := .set (highAdjust al cf), ov := .undef } r

/-- The flags of AAA and AAS (R463, R464): OF, SF, ZF and PF are UNDEF. -/
def unpackedFlags (adjust : Bool) : FlagEffect :=
  { af := .set adjust, cf := .set adjust, ov := .undef, sf := .undef, zf := .undef, pf := .undef }

/-- The flags of AAM and AAD (R465, R466): OF, AF and CF are UNDEF. -/
def aamFlags (al : Byte) : FlagEffect :=
  FlagEffect.szp { ov := .undef, af := .undef, cf := .undef } al

/-! ## Conditions -/

/-- The sixteen conditions (R505), in the order of their numbers. -/
inductive Cond where
  | o | no | b | ae | e | ne | be | a | s | ns | p | np | l | ge | le | g
  deriving DecidableEq, Repr

/-- The condition is true (R505). -/
def Cond.holds (f : Flags) : Cond → Bool
  | .o => f.ov
  | .no => !f.ov
  | .b => f.cf
  | .ae => !f.cf
  | .e => f.zf
  | .ne => !f.zf
  | .be => f.cf || f.zf
  | .a => !f.cf && !f.zf
  | .s => f.sf
  | .ns => !f.sf
  | .p => f.pf
  | .np => !f.pf
  | .l => f.sf != f.ov
  | .ge => f.sf == f.ov
  | .le => f.zf || f.sf != f.ov
  | .g => !f.zf && f.sf == f.ov

end Sys2Proof.Machine
end

