-- ==== Sys2Proof/Machine/Access.lean ====
section
/-! DEFINITION. Access.lean: the access path from a segment and an offset to the bytes of physical memory
(20_memory.md R106, R110 to R113, R120, R121; 21_translation_protection.md R170 to R186, R210 to R223;
23_real_address_mode.md R292). -/

namespace Sys2Proof.Machine

/-! ## Physical accesses -/

/-- What the prefetch queue may still hold after the byte at `pa` is overwritten (20_memory.md R138; log 11). -/
def State.staleAfter (s : State) (pa : Word32) (v : Byte) : List Stale :=
  if s.mem.get pa.toNat = v then s.prefetch
  else { pa := pa, old := s.mem.get pa.toNat, start := s.cur.start,
         span := (s.cur.next - s.cur.start).toNat + s.plat.prefetchBytes } :: s.prefetch

/-- The state with one byte of an array of memory written. -/
def State.writeByte (s : State) (pa : Word32) (v : Byte) : State :=
  { s with mem := s.mem.set pa.toNat v, prefetch := s.staleAfter pa v }

/-- Another bus master writes one byte: memory changes only where there is RAM (20_memory.md R112, R145; log 9). -/
def State.masterByte (s : State) (c : Word32 × Byte) : State :=
  match regionKind s.plat.map c.1.toNat with
  | .ram => s.writeByte c.1 c.2
  | .rom | .device | .absent => s

/-- The state in which the processor's next bus cycle is made: unless LOCK# is asserted, the other bus masters have made
the next of theirs (20_memory.md R106, R125, R127, R145; log 9). -/
def State.cycle (s : State) : State :=
  if s.busLock then s
  else
    match s.masters with
    | [] => s
    | cells :: rest => cells.foldl State.masterByte { s with masters := rest }

/-- The point before a bus cycle. -/
def busCycle : M Unit := modify State.cycle

/-- The state in which the first bus cycle of a locked sequence is made. -/
def State.lockBus (s : State) : State := { s.cycle with busLock := true }

/-- An action while LOCK# is asserted (20_memory.md R127, R128): other bus masters act before it, and none between its bus
cycles; LOCK# is then as before, however the action ends. -/
def locked {α : Type} (m : M α) : M α := fun s =>
  match m s.lockBus with
  | .ok a t => .ok a { t with busLock := s.busLock }
  | .error x t => .error x { t with busLock := s.busLock }

/-- An action, with LOCK# asserted where the condition holds. -/
def lockedIf {α : Type} (c : Bool) (m : M α) : M α := if c then locked m else m

/-- The state with bytes of one region written in a bus cycle: RAM stores them, ROM and an empty address drop them, a
device observes them (R112, R113). -/
def State.writeRun (s : State) (p : List (Word32 × Byte)) : State :=
  match p with
  | [] => s
  | (a, _) :: _ =>
    match regionKind s.plat.map a.toNat with
    | .ram => p.foldl (fun t c => t.writeByte c.1 c.2) s
    | .rom => s
    | .absent => s
    | .device => { s with events := .devWrite a (p.map (·.2)) :: s.events }

/-- The state with the bytes of one bus cycle written, each by the region it lies in (R112, R113; log 19). -/
def State.writePiece (s : State) (p : List (Word32 × Byte)) : State :=
  (regionRuns s.plat.map (·.1) p).foldl State.writeRun s.cycle

/-- Read bytes of one region in a bus cycle (R112, R113): a device and an empty address answer with a free value. -/
def readRun (p : List Word32) : M (List Byte) := do
  let s ← get
  match p with
  | [] => return []
  | a :: _ =>
    match regionKind s.plat.map a.toNat with
    | .ram => return p.map fun b => s.mem.get b.toNat
    | .rom => return p.map fun b => s.mem.get b.toNat
    | .absent => do
      let v ← draw
      return toBytes p.length v
    | .device => do
      let v ← draw
      modify fun t => { t with events := .devRead a (toBytes p.length v) :: t.events }
      return toBytes p.length v

/-- Read runs of bytes, one after the other. -/
def readRuns (rs : List (List Word32)) : M (List Byte) :=
  match rs with
  | [] => return []
  | r :: rest => do
    let x ← readRun r
    let y ← readRuns rest
    return x ++ y

/-- Read the bytes of one bus cycle, each from the region it lies in (R112, R113; log 19). -/
def readPiece (p : List Word32) : M (List Byte) := do
  busCycle
  let s ← get
  readRuns (regionRuns s.plat.map id p)

/-- How many bytes of an access that starts at `a` its first bus cycle holds (R106). -/
def firstPiece (a : Word32) : Nat := 4 - a.toNat % 4

/-- Some byte of the access belongs to a device. -/
def touchesDevice (map : List Region) (pas : List Word32) : Bool :=
  pas.any fun a => regionKind map a.toNat == .device

/-- Whether the second bus cycle of a split access comes first: open only where a device can tell (R106, D8). -/
def secondFirst (pas : List Word32) : M Bool := do
  let s ← get
  if touchesDevice s.plat.map pas then drawSplit else return false

/-- Read at most four bytes, whose physical addresses are given, in one or two bus cycles (R106). -/
def physRead (pas : List Word32) : M (List Byte) := do
  match pas with
  | [] => return []
  | a :: _ =>
    let p := pas.take (firstPiece a)
    let q := pas.drop (firstPiece a)
    if q.isEmpty then readPiece p
    else if ← secondFirst pas then do
      let y ← readPiece q
      let x ← readPiece p
      return x ++ y
    else do
      let x ← readPiece p
      let y ← readPiece q
      return x ++ y

/-- Write at most four bytes at the physical addresses given, in one or two bus cycles (R106). -/
def physWrite (cells : List (Word32 × Byte)) : M Unit := do
  match cells with
  | [] => return ()
  | (a, _) :: _ =>
    let p := cells.take (firstPiece a)
    let q := cells.drop (firstPiece a)
    if q.isEmpty then modify fun s => s.writePiece p
    else if ← secondFirst (cells.map (·.1)) then modify fun s => (s.writePiece q).writePiece p
    else modify fun s => (s.writePiece p).writePiece q

/-- The consecutive addresses `a`, `a + 1`, … of `n` bytes. -/
def addrs (a : Word32) (n : Nat) : List Word32 := (List.range n).map fun i => a + BitVec.ofNat 32 i

/-- `MemRead(pa, 4)` (00_scope.md R12). -/
def memRead32 (pa : Word32) : M Word32 := do
  let bs ← physRead (addrs pa 4)
  return ofBytes .b32 bs

/-- Read the doubleword at physical addresses and write it back changed, in one locked sequence (20_memory.md R128); it
answers what was read. -/
def lockedUpdate (pas : List Word32) (f : Word32 → Word32) : M Word32 := locked do
  let bs ← physRead pas
  let v : Word32 := ofBytes .b32 bs
  physWrite (pas.zip (toBytes 4 (f v)))
  return v

/-! ## Page translation -/

/-- A page fault at that linear address (60_exceptions.md R738): CR2 is written, then #PF with P, W/R and U/S. -/
def pageFault {α : Type} (la : Word32) (protection write user : Bool) : M α := do
  modify fun s => { s with cr2 := la }
  raise ⟨14, .page (BitVec.ofBool user ++ (BitVec.ofBool write ++ BitVec.ofBool protection))⟩

/-- The access passes page protection (R217 to R220). -/
def pageAllowed (userOk writeOk write user : Bool) : Bool := !user || (userOk && (!write || writeOk))

/-- The address of the page-directory entry of a linear address (R212, R213). -/
def pdeAddr (cr3 la : Word32) : Word32 := (cr3 &&& 0xFFFFF000) + ((la >>> 22) <<< 2)

/-- The address of the page-table entry of a linear address, from its directory entry (R212, R213). -/
def pteAddr (pde la : Word32) : Word32 := (pde &&& 0xFFFFF000) + (((la >>> 12) &&& 0x3FF) <<< 2)

/-- Bits 31:12 of an address or an entry. -/
def frameOf (v : Word32) : BitVec 20 := v.extractLsb' 12 20

/-- The address of the byte in a page frame that a linear address names (R213). -/
def inFrame (f : BitVec 20) (la : Word32) : Word32 := f ++ la.extractLsb' 0 12

/-- Set bits of an entry of the tables, unless it was read with them set (R216): a locked read-modify-write (20_memory.md
R128; log 36). -/
def setEntryBits (addr entry bits : Word32) : M Unit :=
  if entry &&& bits = bits then pure ()
  else do
    let _ ← lockedUpdate (addrs addr 4) (· ||| bits)

/-- The TLB with an entry added, once (R222). -/
def addTlb (e : TlbEntry) (l : List TlbEntry) : List TlbEntry := if l.contains e then l else e :: l

/-- After a walk: A is set in both entries, and D for a write (R216), and the answer is cached (R222). -/
def recordWalk (la pa pde ta pte : Word32) (userOk writeOk write : Bool) : M Unit := do
  setEntryBits pa pde 0x20
  setEntryBits ta pte (if write then 0x60 else 0x20)
  modify fun t => { t with tlb := addTlb { page := frameOf la, frame := frameOf pte, user := userOk, write := writeOk,
                                           dirty := write } t.tlb }

/-- Translate by walking the tables (R213 to R216, R220). `commit` is false for a probe, which makes the checks of an
access that is not made and changes nothing. -/
def walk (la : Word32) (write user commit : Bool) : M (BitVec 20) := do
  let s ← get
  let pa := pdeAddr s.cr3 la
  let pde ← memRead32 pa
  if !pde.getLsbD 0 then pageFault la false write user
  let ta := pteAddr pde la
  let pte ← memRead32 ta
  if !pte.getLsbD 0 then pageFault la false write user
  let userOk := pde.getLsbD 2 && pte.getLsbD 2
  let writeOk := pde.getLsbD 1 && pte.getLsbD 1
  if !pageAllowed userOk writeOk write user then pageFault la true write user
  if commit then recordWalk la pa pde ta pte userOk writeOk write
  return frameOf pte

/-- The doubleword an array of memory holds, without a bus cycle. -/
def peek32 (s : State) (a : Word32) : Word32 := ofBytes .b32 ((addrs a 4).map fun b => s.mem.get b.toNat)

/-- The physical address a linear address has under the tables now in memory, without an access: the linear address
itself where paging is off, none where the page is not present. -/
def State.peekPhys (s : State) (la : Word32) : Option Word32 :=
  if !s.cr0.pg then some la
  else
    let pde := peek32 s (pdeAddr s.cr3 la)
    let pte := peek32 s (pteAddr pde la)
    if pde.getLsbD 0 && pte.getLsbD 0 then some (inFrame (frameOf pte) la) else none

/-- The address lies in RAM or ROM. -/
def inArray (map : List Region) (a : Word32) : Bool :=
  match regionKind map a.toNat with
  | .ram => true
  | .rom => true
  | .device => false
  | .absent => false

/-- The entry says what a walk of the tables in memory would now say and do (R222): then it makes no difference whether
it or a walk is used. -/
def TlbEntry.agrees (s : State) (e : TlbEntry) (la : Word32) : Bool :=
  let pa := pdeAddr s.cr3 la
  let pde := peek32 s pa
  let ta := pteAddr pde la
  let pte := peek32 s ta
  inArray s.plat.map pa && inArray s.plat.map ta && pde.getLsbD 0 && pte.getLsbD 0 && pde.getLsbD 5 &&
    pte.getLsbD 5 && e.frame == frameOf pte && e.user == (pde.getLsbD 2 && pte.getLsbD 2) &&
    e.write == (pde.getLsbD 1 && pte.getLsbD 1) && (!e.dirty || pte.getLsbD 6)

/-- Translate by a cached entry (R222): its attributes are checked, and a write through an entry that is not dirty
walks the tables to set D. -/
def useEntry (e : TlbEntry) (la : Word32) (write user commit : Bool) : M (BitVec 20) := do
  if !pageAllowed e.user e.write write user then pageFault la true write user
  if write && !e.dirty then walk la write user commit
  else return e.frame

/-- The page frame of a linear address (R210, R213, R222): the tables, or any entry of the TLB where one says
otherwise (log 10). -/
def translate (la : Word32) (write user commit : Bool) : M (BitVec 20) := do
  let s ← get
  let hits := s.tlb.filter fun e => e.page == frameOf la
  if hits.all fun e => e.agrees s la then walk la write user commit
  else do
    let k ← drawTlb
    match hits[k % (hits.length + 1) - 1]? with
    | some e => if k % (hits.length + 1) = 0 then walk la write user commit else useEntry e la write user commit
    | none => walk la write user commit

/-- The physical addresses of the `n` bytes at a linear address (20_memory.md R111): both pages of a split operand are
translated and checked before any byte is accessed (R221). A fault of the second page reports that page's first address
(DESIGN CHOICE, log 41), and leaves the bits that the walk of the first page set (DESIGN CHOICE, log 12). -/
def linResolve (la : Word32) (n : Nat) (write user commit : Bool) : M (List Word32) := do
  let s ← get
  if !s.cr0.pg then return addrs la n
  else do
    let last := la + BitVec.ofNat 32 (n - 1)
    let f ← translate la write user commit
    if frameOf last = frameOf la then return (addrs la n).map (inFrame f)
    else do
      let g ← translate (last &&& 0xFFFFF000) write user commit
      return (addrs la n).map fun a => if frameOf a = frameOf la then inFrame f a else inFrame g a

/-- `LinRead(la, n, acc)` (20_memory.md R111). -/
def linRead (w : Width) (la : Word32) (user : Bool) : M (Val w) := do
  let pas ← linResolve la w.bytes false user true
  let bs ← physRead pas
  return ofBytes w bs

/-- `LinWrite(la, n, v, acc)` (20_memory.md R111). -/
def linWrite (w : Width) (la : Word32) (v : Val w) (user : Bool) : M Unit := do
  let pas ← linResolve la w.bytes true user true
  physWrite (pas.zip (toBytes w.bytes v))

/-! ## Accesses through a segment register -/

/-- The exception of a violation through that segment register: #SS(0) for SS, else #GP(0) (R180 to R185; 20_memory.md
R110, log 17). -/
def segExn (r : SReg) : Exn := if r = .ss then ss0 else gp0

/-- The segment admits a read, or a write (R180, R181, R182). -/
def Seg.allows (g : Seg) (write : Bool) : Bool :=
  g.valid && (if write then g.attr.writable else g.attr.readable)

/-- The current accesses are at user level (R217). -/
def State.user (s : State) : Bool := s.cpl == 3

/-- The segment-level checks of an access, and its linear address (20_memory.md R110; R186). -/
def segCheck (r : SReg) (off : Word32) (n : Nat) (write : Bool) : M Word32 := do
  let s ← get
  require (!s.cr0.pe || (s.seg r).allows write) (segExn r)
  require ((s.seg r).inLimit s.cr0.pe off n) (segExn r)
  return (s.seg r).base + off

/-- The physical addresses of an operand, all checks made, the pages' at that level (20_memory.md R110, R132). -/
def segResolveAs (user : Bool) (r : SReg) (off : Word32) (n : Nat) (write commit : Bool) : M (List Word32) := do
  let la ← segCheck r off n write
  linResolve la n write user commit

/-- The physical addresses of an operand, all checks made (20_memory.md R110). -/
def segResolve (r : SReg) (off : Word32) (n : Nat) (write commit : Bool) : M (List Word32) := do
  let s ← get
  segResolveAs s.user r off n write commit

/-- `SegRead(SR, off, n)` (20_memory.md R110). -/
def segRead (w : Width) (r : SReg) (off : Word32) : M (Val w) := do
  let pas ← segResolve r off w.bytes false true
  let bs ← physRead pas
  return ofBytes w bs

/-- `SegWrite(SR, off, n, v)` (20_memory.md R110). -/
def segWrite (w : Width) (r : SReg) (off : Word32) (v : Val w) : M Unit := do
  let pas ← segResolve r off w.bytes true true
  physWrite (pas.zip (toBytes w.bytes v))

/-! ## The stack -/

/-- The stack-pointer width of a stack segment (R171): ESP when the B bit is set, SP otherwise and always in
real-address mode. -/
def stackSizeOf (pe : Bool) (g : Seg) : Size := if pe && g.attr.db then .s32 else .s16

/-- `StackSize` (R171; 23_real_address_mode.md R294). -/
def State.stackSize (s : State) : Size := stackSizeOf s.cr0.pe s.ss

/-- A stack offset cut to the stack-pointer width (20_memory.md R120). -/
def stackOff (sz : Size) (v : Word32) : Word32 :=
  match sz with
  | .s16 => v &&& 0xFFFF
  | .s32 => v

/-- The general registers with (E)SP replaced: ESP[31:16] stays with a 16-bit stack pointer (20_memory.md R120). -/
def Regs.setSP (g : Regs) (sz : Size) (v : Word32) : Regs :=
  match sz with
  | .s16 => { g with esp := setLow16 g.esp (v.extractLsb' 0 16) }
  | .s32 => { g with esp := v }

/-- The offset `k` bytes above the top of the stack. -/
def State.stackAt (s : State) (k : Word32) : Word32 := stackOff s.stackSize (s.regs.esp + k)

/-- (E)SP moved by `k` bytes. -/
def State.moveSP (s : State) (k : Word32) : State :=
  { s with regs := s.regs.setSP s.stackSize (s.regs.esp + k) }

/-- How many bytes an operand of that width has, as a stack distance. -/
def distOf (w : Width) : Word32 := BitVec.ofNat 32 w.bytes

/-- `Push(v, n)` (20_memory.md R120), the page level given: the register changes only after the write. -/
def pushAs (user : Bool) (w : Width) (v : Val w) : M Unit := do
  let s ← get
  let pas ← segResolveAs user .ss (s.stackAt (-distOf w)) w.bytes true true
  physWrite (pas.zip (toBytes w.bytes v))
  modify fun t => t.moveSP (-distOf w)

/-- `Push(v, n)` of an instruction, at its level (20_memory.md R110, R120). -/
def push (w : Width) (v : Val w) : M Unit := do
  let s ← get
  pushAs s.user w v

/-- A push the processor makes on its own initiative, in delivering an event or in an inter-level call: at supervisor
level (20_memory.md R132). -/
def pushSystem (w : Width) (v : Val w) : M Unit := pushAs false w v

/-- Check `k` pushes of that width below the top of the stack, at a page level, and write nothing (00_scope.md R13;
92_eei_decisions.md D19). -/
def probePushesAs (user : Bool) (w : Width) (k : Nat) : M Unit :=
  match k with
  | 0 => pure ()
  | k + 1 => do
    probePushesAs user w k
    let s ← get
    let _ ← segResolveAs user .ss (s.stackAt (-BitVec.ofNat 32 ((k + 1) * w.bytes))) w.bytes true false

/-- Check `k` pushes of an instruction, at its level (92_eei_decisions.md D19). -/
def probePushes (w : Width) (k : Nat) : M Unit := do
  let s ← get
  probePushesAs s.user w k

/-- The value `k` bytes above the top of the stack, without moving (E)SP. -/
def stackRead (w : Width) (k : Word32) : M (Val w) := do
  let s ← get
  segRead w .ss (s.stackAt k)

/-- `Pop(n)` (20_memory.md R121). -/
def pop (w : Width) : M (Val w) := do
  let v ← stackRead w 0
  modify fun t => t.moveSP (distOf w)
  return v

/-- There is room on a stack for `k` pushes of that width from `sp` (21_translation_protection.md R197;
44_control_transfer.md R527, R529): each slot lies inside the segment, its offset cut to the stack-pointer width, so
that slots that go on below offset 0 at the top of that width count as room (DESIGN CHOICE, log 42: the rules say only
that there must be room). -/
def stackRoom (pe : Bool) (g : Seg) (sp : Word32) (w : Width) (k : Nat) : Bool :=
  (List.range k).all fun i =>
    g.inLimit pe (stackOff (stackSizeOf pe g) (sp - BitVec.ofNat 32 ((i + 1) * w.bytes))) w.bytes

/-- The `k` slots of that width at the top of the stack lie inside the stack segment (44_control_transfer.md R536), the
offset of each slot cut to the stack-pointer width (DESIGN CHOICE, log 42). -/
def stackHolds (s : State) (start : Word32) (w : Width) (k : Nat) : Bool :=
  (List.range k).all fun i =>
    s.ss.inLimit s.cr0.pe (s.stackAt (start + BitVec.ofNat 32 (i * w.bytes))) w.bytes

end Sys2Proof.Machine
end

