-- ==== Sys2Proof/Machine/Operands.lean ====
section
/-! DEFINITION. Operands.lean: effective addresses, the choice of the segment, and operands as places that are read and
written (30_encoding.md R320 to R331, R340, R341, R345, R346). -/

namespace Sys2Proof.Machine

/-- The 16-bit sum of base and index (R321). -/
def base16 (g : Regs) (b : Base16) : Word16 :=
  let r (x : Reg) : Word16 := g.read .b16 x
  match b with
  | .bxSi => r .ebx + r .esi
  | .bxDi => r .ebx + r .edi
  | .bpSi => r .ebp + r .esi
  | .bpDi => r .ebp + r .edi
  | .si => r .esi
  | .di => r .edi
  | .bp => r .ebp
  | .bx => r .ebx

/-- The displacement of a 16-bit form (R326). -/
def disp16Val : Disp16 → Word16
  | .none => 0
  | .d8 v => v.signExtend 16
  | .d16 v => v

/-- The displacement of a 32-bit form (R326). -/
def disp32Val : Disp32 → Word32
  | .none => 0
  | .d8 v => v.signExtend 32
  | .d32 v => v

/-- The scaled index: ESP's number stands for no index (R323; log 26). -/
def scaledIndex (g : Regs) (scale : BitVec 2) (index : Reg) : Word32 :=
  if index = .esp then 0 else g.get index <<< scale.toNat

/-- The effective address of a memory operand (R321, R322, R323, R330). -/
def effAddr (g : Regs) : Mem → Word32
  | .abs16 d => d.setWidth 32
  | .ind16 b d => (base16 g b + disp16Val d).setWidth 32
  | .abs32 d => d
  | .ind32 b d => g.get b + disp32Val d
  | .sib s i b d => g.get b + scaledIndex g s i + disp32Val d
  | .sibAbs s i d => scaledIndex g s i + d

/-- Where the second part of a memory operand of two parts begins, `k` bytes above its effective address (a far pointer, the
bounds of BOUND, a table register): the sum wraps at 2^32, and is not cut to 16 bits where AddrSize is 16 (DESIGN CHOICE,
log 54: 21_translation_protection.md R170 has each part checked, and does not say where it lies). -/
def partOff (ea k : Word32) : Word32 := ea + k

/-- The segment a memory operand uses without an override (R321, R322, R323, R340): SS when the base is BP, EBP or
ESP. -/
def defaultSeg : Mem → SReg
  | .abs16 _ => .ds
  | .ind16 b _ =>
    match b with
    | .bpSi | .bpDi | .bp => .ss
    | .bxSi | .bxDi | .si | .di | .bx => .ds
  | .abs32 _ => .ds
  | .ind32 b _ => if b = .ebp then .ss else .ds
  | .sib _ _ b _ => if b = .ebp ∨ b = .esp then .ss else .ds
  | .sibAbs _ _ _ => .ds

/-- The segment in force where `r` is the default: an override prefix takes its place (R341). -/
def State.segOr (s : State) (r : SReg) : SReg := s.cur.seg.getD r

/-- A place an operand is in: a register, or the physical addresses of its bytes, checked (R346). -/
inductive Loc where
  | reg (r : Reg)
  | mem (pas : List Word32)
  deriving DecidableEq, Repr

/-- Find a memory operand at an offset, for a read or with write permission. -/
def memLoc (w : Width) (r : SReg) (off : Word32) (write commit : Bool) : M Loc := do
  let pas ← segResolve r off w.bytes write commit
  return .mem pas

/-- Find an r/m operand (R346). -/
def locate (w : Width) (rm : RM) (write commit : Bool) : M Loc := do
  match rm with
  | .reg r => return .reg r
  | .mem m => do
    let s ← get
    memLoc w (s.segOr (defaultSeg m)) (effAddr s.regs m) write commit

/-- Read a place. -/
def readLoc (w : Width) (l : Loc) : M (Val w) := do
  match l with
  | .reg r => getReg w r
  | .mem pas => do
    let bs ← physRead pas
    return ofBytes w bs

/-- Write a place. -/
def writeLoc (w : Width) (l : Loc) (v : Val w) : M Unit :=
  match l with
  | .reg r => setReg w r v
  | .mem pas => physWrite (pas.zip (toBytes w.bytes v))

/-- `ReadRM` (R346). -/
def readRM (w : Width) (rm : RM) : M (Val w) := do
  let l ← locate w rm false true
  readLoc w l

/-- `WriteRM` (R346). -/
def writeRM (w : Width) (rm : RM) (v : Val w) : M Unit := do
  let l ← locate w rm true true
  writeLoc w l v

/-- A memory operand. -/
def isMem : RM → Bool
  | .reg _ => false
  | .mem _ => true

/-- The width an OpSize selects for a `v` operand (R316). -/
abbrev State.opw (s : State) : Width := s.cur.opSize.width

end Sys2Proof.Machine
end

