-- ==== Sys2Proof/Machine/Segments.lean ====
section
/-! DEFINITION. Segments.lean: descriptor tables, loading a segment register, and the inner stack pointers of the TSS
(21_translation_protection.md R152 to R178, R196; 47_segment_misc.md R622; 44_control_transfer.md R529). -/

namespace Sys2Proof.Machine

/-- The linear address of the descriptor a selector names, if it lies in its table (R153, R155): none outside the
table's limit, or when the LDT is named and none is loaded. -/
def descAddr (s : State) (sel : Word16) : Option Word32 :=
  let off := BitVec.ofNat 32 (selIndex sel * 8)
  if selTI sel then
    if s.ldtr.valid && decide (selIndex sel * 8 + 7 ≤ s.ldtr.limit.toNat) then some (s.ldtr.base + off) else none
  else if selIndex sel * 8 + 7 ≤ s.gdtr.limit.toNat then some (s.gdtr.base + off) else none

/-- The eight bytes at a linear address, read as two doublewords at supervisor level (R155; 20_memory.md R107). -/
def readPair (la : Word32) : M Desc := do
  let lo ← linRead .b32 la false
  let hi ← linRead .b32 (la + 4) false
  return { lo := lo, hi := hi }

/-- `ReadDescriptor(sel)` (R155), none where it fails. -/
def findDesc (sel : Word16) : M (Option Desc) := do
  let s ← get
  match descAddr s sel with
  | some a => do
    let d ← readPair a
    return some d
  | none => return none

/-- `ReadDescriptor(sel)` (R155): a selector of the LDT where none is loaded raises #GP(sel), and one beyond its table's
limit the exception the caller names. -/
def readDesc (sel : Word16) (e : Exn) : M Desc := do
  let s ← get
  require (!selTI sel || s.ldtr.valid) (gpFault sel)
  let d ← findDesc sel
  match d with
  | some d => return d
  | none => raise e

/-- Change the second doubleword of the descriptor a selector names, in one locked sequence (20_memory.md R128; R166); it
answers what was there. A selector outside its table changes nothing (DESIGN CHOICE, log 32). -/
def updateDescHi (sel : Word16) (f : Word32 → Word32) : M Word32 := do
  let s ← get
  match descAddr s sel with
  | some a => do
    let pas ← linResolve (a + 4) 4 true false true
    lockedUpdate pas f
  | none => return 0

/-- Set the accessed bit of a code or data descriptor in memory if it was read clear (R166). -/
def setAccessed (sel : Word16) (d : Desc) : M Unit :=
  if d.accessed then pure ()
  else do
    let _ ← updateDescHi sel (· ||| 0x100)

/-- Test and set the busy bit of a TSS descriptor in one locked sequence (20_memory.md R128; 22_multitasking.md R273): the
exception is raised where it was set already (DESIGN CHOICE, log 43). -/
def setBusy (sel : Word16) (e : Exn) : M Unit := do
  let v ← updateDescHi sel (· ||| 0x200)
  require (!v.getLsbD 9) e

/-- Clear the busy bit of a TSS descriptor, in a locked sequence (22_multitasking.md R262, R273); where the selector lies
outside its table, nothing is changed and nothing raised (DESIGN CHOICE, log 32). -/
def clearBusy (sel : Word16) : M Unit := do
  let _ ← updateDescHi sel (· &&& 0xFFFFFDFF)

/-- Check that `clearBusy` can write the descriptor, and write nothing (92_eei_decisions.md D19). -/
def probeBusy (sel : Word16) : M Unit := do
  let s ← get
  match descAddr s sel with
  | some a => do
    let _ ← linResolve (a + 4) 4 true false false
  | none => pure ()

/-- Load a segment register's selector and hidden part from a checked descriptor (47_segment_misc.md R622, last
part). -/
def installSeg (r : SReg) (sel : Word16) (d : Desc) : M Unit := do
  setAccessed sel d
  modify fun s => s.setSeg r (d.seg sel)

/-- Load a selector in real-address mode: only the base follows it (23_real_address_mode.md R291). The valid bit of the
hidden part stays as it was, also where a null selector had cleared it in protected mode (DESIGN CHOICE, log 56: R291
and 47_segment_misc.md R622 speak of the limit and the attributes only). -/
def loadRealSeg (r : SReg) (sel : Word16) : M Unit :=
  modify fun s => s.setSeg r { s.seg r with sel := sel, base := realBase sel }

/-- A data segment with W = 1 (R161). -/
def Desc.writableData (d : Desc) : Bool := d.attr.writable

/-- The privilege test of a data-segment load (R176, R178): CPL and RPL at most DPL, or conforming code. -/
def Desc.dataPrivilege (d : Desc) (cpl : BitVec 2) (sel : Word16) : Bool :=
  d.attr.conforming || (decide (cpl ≤ d.dpl) && decide (rpl sel ≤ d.dpl))

/-- `LoadSeg(SS, sel)` in protected mode (47_segment_misc.md R622). -/
def loadSS (sel : Word16) : M Unit := do
  let s ← get
  require (!selNull sel) gp0
  let d ← readDesc sel (gpFault sel)
  require (rpl sel == s.cpl) (gpFault sel)
  require d.writableData (gpFault sel)
  require (d.dpl == s.cpl) (gpFault sel)
  require d.present (ssFault sel)
  installSeg .ss sel d

/-- `LoadSeg(SR, sel)` for DS, ES, FS or GS in protected mode (47_segment_misc.md R622). -/
def loadData (r : SReg) (sel : Word16) : M Unit := do
  let s ← get
  if selNull sel then modify fun t => t.setSeg r { t.seg r with sel := sel, valid := false }
  else do
    let d ← readDesc sel (gpFault sel)
    require d.attr.readable (gpFault sel)
    require (d.dataPrivilege s.cpl sel) (gpFault sel)
    require d.present (npFault sel)
    installSeg r sel d

/-- `LoadSeg(SR, sel)` (47_segment_misc.md R622). -/
def loadSeg (r : SReg) (sel : Word16) : M Unit := do
  let s ← get
  if !s.cr0.pe then loadRealSeg r sel
  else if r = .ss then loadSS sel
  else loadData r sel

/-- Null a data-segment register that a less privileged level may not keep (R200): its segment is not conforming code
and its DPL is below the new CPL. Of the null selectors 0000H to 0003H (R154) it takes 0000H (DESIGN CHOICE, log 55:
R200 gives INDEX and TI only). -/
def Seg.keepOrNull (g : Seg) (cpl : BitVec 2) : Seg :=
  if g.valid && !g.attr.conforming && decide (g.attr.dpl < cpl) then { g with sel := 0, valid := false } else g

/-- The check of DS, ES, FS and GS after a return to an outer level (R200). -/
def State.nullOuter (s : State) : State :=
  { s with es := s.es.keepOrNull s.cpl, ds := s.ds.keepOrNull s.cpl, fs := s.fs.keepOrNull s.cpl,
           gs := s.gs.keepOrNull s.cpl }

/-- The stack selector and pointer of an inner level from the current TSS, and the stack's descriptor, checked
(44_control_transfer.md R529): beyond the TSS limit #TS(TR), a null selector #TS(0), a wrong table, RPL, DPL or type
#TS(selector), not present #SS(selector). ESP is read before SS (DESIGN CHOICE, log 51: R529 gives no order). -/
def innerStack (level : BitVec 2) : M (Word16 × Word32 × Desc) := do
  let s ← get
  let off : Word32 := 4 + 8 * level.setWidth 32
  require (decide (off.toNat + 5 ≤ s.tr.limit.toNat)) (tsFault s.tr.sel)
  let nesp ← linRead .b32 (s.tr.base + off) false
  let nss ← linRead .b16 (s.tr.base + off + 4) false
  require (!selNull nss) (tsFault 0)
  let d ← readDesc nss (tsFault nss)
  require (rpl nss == level && d.dpl == level && d.writableData) (tsFault nss)
  require d.present (ssFault nss)
  return (nss, nesp, d)

/-- Go to an inner level's stack: SS with its hidden part, ESP and CPL (44_control_transfer.md R529). -/
def enterInner (level : BitVec 2) (nss : Word16) (nesp : Word32) (d : Desc) : M Unit := do
  installSeg .ss nss d
  modify fun s => { s with regs := { s.regs with esp := nesp }, cpl := level }

/-- Load CS from a checked code descriptor, the selector's RPL replaced by CPL, and EIP (R191; 44_control_transfer.md
R527). -/
def enterCode (sel : Word16) (d : Desc) (off : Word32) : M Unit := do
  setAccessed sel d
  modify fun s => { s with cs := d.seg (withRpl sel s.cpl) }
  jump off

/-- Load CS from a checked code descriptor for a return: CPL becomes the selector's RPL (44_control_transfer.md R536,
R537). -/
def returnCode (sel : Word16) (d : Desc) (off : Word32) : M Unit := do
  setAccessed sel d
  modify fun s => { s with cs := d.seg sel, cpl := rpl sel }
  jump off

/-- Load CS and EIP in real-address mode (44_control_transfer.md R531). -/
def enterRealCode (sel : Word16) (off : Word32) : M Unit := do
  loadRealSeg .cs sel
  jump off

end Sys2Proof.Machine
end

