-- ==== Sys2Proof/Machine/Task.lean ====
section
/-! DEFINITION. Task.lean: the task switch (22_multitasking.md R252, R261 to R273). -/

namespace Sys2Proof.Machine

/-- What causes a task switch (R262). -/
inductive TaskKind where
  | jmp | call | int | iret
  deriving DecidableEq, Repr

/-- The exception of a selector that names no TSS: #GP(sel), and #TS(sel) for the back link of IRET (R255, R262). -/
def TaskKind.badTss (k : TaskKind) (sel : Word16) : Exn :=
  match k with
  | .iret => tsFault sel
  | .jmp | .call | .int => gpFault sel

/-- The switch puts the outgoing task on the back-link chain (R271). -/
def TaskKind.nests : TaskKind → Bool
  | .call | .int => true
  | .jmp | .iret => false

/-- Step 1 and step 2: find and check the TSS descriptor of the incoming task (R261, R262). -/
def checkTss (sel : Word16) (k : TaskKind) : M Desc := do
  require (!selTI sel && !selNull sel) (k.badTss sel)
  let d ← readDesc sel (k.badTss sel)
  if d.tss286 then refuse .desc286
  require d.tss386 (k.badTss sel)
  require (d.busy == (k == .iret)) (k.badTss sel)
  require d.present (npFault sel)
  require (decide (Config.minTssLimit ≤ d.limit.toNat)) (tsFault sel)
  return d

/-- The fields a switch saves, each with its offset in the TSS (R252), in the order of R262: the general registers, the
segment selectors with the upper half of their slots zero (92_eei_decisions.md D23), EFLAGS and EIP. -/
def State.tssImage (s : State) (ret : Word32) (fl : Flags) : List (Word32 × Word32) :=
  [(0x28, s.regs.eax), (0x2C, s.regs.ecx), (0x30, s.regs.edx), (0x34, s.regs.ebx), (0x38, s.regs.esp),
   (0x3C, s.regs.ebp), (0x40, s.regs.esi), (0x44, s.regs.edi), (0x48, s.es.sel.setWidth 32), (0x4C, s.cs.sel.setWidth 32),
   (0x50, s.ss.sel.setWidth 32), (0x54, s.ds.sel.setWidth 32), (0x58, s.fs.sel.setWidth 32), (0x5C, s.gs.sel.setWidth 32),
   (0x24, fl.image), (0x20, ret)]

/-- The offsets of the fields a switch reads from the incoming TSS (R252), in the order of R262: the LDT selector, EFLAGS,
EIP, the general registers, the segment selectors and CR3. Each is read as a doubleword, a selector with the reserved half
above it (DESIGN CHOICE, log 49: R252 and 20_memory.md R107 leave its width open). -/
def tssLoads : List Word32 :=
  [0x60, 0x24, 0x20, 0x28, 0x2C, 0x30, 0x34, 0x38, 0x3C, 0x40, 0x44, 0x48, 0x4C, 0x50, 0x54, 0x58, 0x5C, 0x1C]

/-- Write doublewords at offsets from a linear address, in order, at supervisor level. -/
def writeFields (base : Word32) (fields : List (Word32 × Word32)) : M Unit :=
  match fields with
  | [] => pure ()
  | (off, v) :: rest => do
    linWrite .b32 (base + off) v false
    writeFields base rest

/-- Read the doublewords at offsets from a linear address, in order, at supervisor level. -/
def readFields (base : Word32) (offs : List Word32) : M (List Word32) :=
  match offs with
  | [] => return []
  | off :: rest => do
    let v ← linRead .b32 (base + off) false
    let vs ← readFields base rest
    return v :: vs

/-- Check that the doublewords at offsets from a linear address can be written, in order, at supervisor level, and write
nothing. -/
def probeFields (base : Word32) (offs : List Word32) : M Unit :=
  match offs with
  | [] => pure ()
  | off :: rest => do
    let _ ← linResolve (base + off) 4 true false false
    probeFields base rest

/-- Step 3: save the outgoing task (R262): the busy bit of its descriptor first, then the fields of its TSS. The pages are
checked in that order before anything is written (92_eei_decisions.md D19; log 32). -/
def saveTask (k : TaskKind) (ret : Word32) : M Unit := do
  let s ← get
  let image := s.tssImage ret (if k == .iret then { s.flags with nt := false } else s.flags)
  if k == .jmp || k == .iret then probeBusy s.tr.sel
  probeFields s.tr.base (image.map (·.1))
  if k == .jmp || k == .iret then clearBusy s.tr.sel
  writeFields s.tr.base image

/-- A selector loaded by a task switch, its hidden part not yet valid (R262, step 5). -/
def Seg.pending (g : Seg) (sel : Word16) : Seg := { g with sel := sel, valid := false }

/-- Tests 4 and 5: the LDT of the incoming task (R263). -/
def loadTaskLdt (sel : Word16) : M Unit := do
  if selNull sel then pure ()
  else do
    require (!selTI sel) (tsFault sel)
    let d ← readDesc sel (tsFault sel)
    require (d.isSys 2) (tsFault sel)
    require d.present (tsFault sel)
    modify fun s => { s with ldtr := { sel := sel, base := d.base, limit := d.limit, valid := true } }

/-- The privilege condition between a code descriptor and the RPL it is to run at (R263 test 8; 44_control_transfer.md
R536): equal for nonconforming code, at most for conforming code. -/
def Desc.codeMatches (d : Desc) (p : BitVec 2) : Bool :=
  if d.attr.conforming then decide (d.dpl ≤ p) else d.dpl == p

/-- Tests 6 to 8: the code segment of the incoming task (R263). -/
def loadTaskCode (sel : Word16) : M Unit := do
  require (!selNull sel) (tsFault sel)
  let d ← readDesc sel (tsFault sel)
  require d.attr.code (tsFault sel)
  require d.present (npFault sel)
  require (d.codeMatches (rpl sel)) (tsFault sel)
  installSeg .cs sel d

/-- Tests 9 to 12: the stack segment of the incoming task (R263). -/
def loadTaskStack (sel : Word16) : M Unit := do
  let s ← get
  require (!selNull sel) (gpFault sel)
  let d ← readDesc sel (gpFault sel)
  require d.writableData (gpFault sel)
  require d.present (ssFault sel)
  require (d.dpl == s.cpl) (ssFault sel)
  require (rpl sel == s.cpl) (gpFault sel)
  installSeg .ss sel d

/-- The descriptor a data selector of the incoming task names; none for a null selector (R263 test 13). -/
def taskDataDesc (sel : Word16) : M (Option Desc) := do
  if selNull sel then return none
  else do
    let d ← readDesc sel (gpFault sel)
    return some d

/-- One of tests 14 to 16 on a data selector; a null selector passes (R263). -/
def taskDataTest (d : Option Desc) (ok : Desc → Bool) (e : Exn) : M Unit :=
  match d with
  | some d => require (ok d) e
  | none => pure ()

/-- Load a data-segment register of the incoming task; a null selector stays invalid (R263). -/
def installTaskData (r : SReg) (sel : Word16) (d : Option Desc) : M Unit :=
  match d with
  | some d => installSeg r sel d
  | none => pure ()

/-- Tests 13 to 16: DS, ES, FS and GS of the incoming task, each test on all four before the next (R263). -/
def loadTaskData (ds es fs gs : Word16) : M Unit := do
  let s ← get
  let d0 ← taskDataDesc ds
  let d1 ← taskDataDesc es
  let d2 ← taskDataDesc fs
  let d3 ← taskDataDesc gs
  let readable : Desc → Bool := fun d => d.attr.readable
  taskDataTest d0 readable (gpFault ds)
  taskDataTest d1 readable (gpFault es)
  taskDataTest d2 readable (gpFault fs)
  taskDataTest d3 readable (gpFault gs)
  taskDataTest d0 Desc.present (npFault ds)
  taskDataTest d1 Desc.present (npFault es)
  taskDataTest d2 Desc.present (npFault fs)
  taskDataTest d3 Desc.present (npFault gs)
  taskDataTest d0 (fun d => d.dataPrivilege s.cpl ds) (gpFault ds)
  taskDataTest d1 (fun d => d.dataPrivilege s.cpl es) (gpFault es)
  taskDataTest d2 (fun d => d.dataPrivilege s.cpl fs) (gpFault fs)
  taskDataTest d3 (fun d => d.dataPrivilege s.cpl gs) (gpFault gs)
  installTaskData .ds ds d0
  installTaskData .es es d1
  installTaskData .fs fs d2
  installTaskData .gs gs d3

/-- The low half of a doubleword slot. -/
def low16 (v : Word32) : Word16 := v.extractLsb' 0 16

/-- Step 4, from which on exceptions are taken in the incoming task: TR, the busy bit and TS, in this order (R262, R264;
92_eei_decisions.md D1; log 21). -/
def commitTask (sel : Word16) (d : Desc) (k : TaskKind) : M Unit := do
  modify fun s => { s with tr := { sel := sel, base := d.base, limit := d.limit, type := 0xB },
                           cur := { s.cur with committed := true, keepRf := true } }
  if k == .iret then pure () else setBusy sel (k.badTss sel)
  modify fun s => { s with cr0 := { s.cr0 with ts := true } }

/-- Load CR3 for the incoming task; the TLB is flushed where the value differs (20_memory.md R141), with paging off too
(DEDUCED, log 32: 22_multitasking.md R262 names the flush in the line for PG = 1). -/
def loadTaskCr3 (v : Word32) : M Unit :=
  modify fun s =>
    let c := v &&& 0xFFFFF000
    { s with cr3 := c, tlb := if c != s.cr3 then [] else s.tlb }

/-- The registers of the incoming task, from the fields `tssLoads` names: the selectors, LDTR's among them, are not yet
valid, and CPL is the RPL of CS (R262, R265). -/
def State.withTask (s : State) (k : TaskKind) (f : Nat → Word32) : State :=
  { s with
    eip := f 2
    prefetch := []
    modeStale := false
    flags := { Flags.ofImage (f 1) with nt := k.nests || (f 1).getLsbD 14 }
    regs := { eax := f 3, ecx := f 4, edx := f 5, ebx := f 6, esp := f 7, ebp := f 8, esi := f 9, edi := f 10 }
    es := s.es.pending (low16 (f 11)), cs := s.cs.pending (low16 (f 12)), ss := s.ss.pending (low16 (f 13))
    ds := s.ds.pending (low16 (f 14)), fs := s.fs.pending (low16 (f 15)), gs := s.gs.pending (low16 (f 16))
    ldtr := { s.ldtr with sel := low16 (f 0), valid := false }
    cpl := rpl (low16 (f 12)) }

/-- `TaskSwitch(sel, kind)` (R262), with `ret` the EIP to save. It answers the T bit of the incoming TSS; the caller
makes the limit check of the EIP loaded and arms the trap (`finishTask`). CPL is the RPL of the incoming CS before tests 4
to 16 are made (DESIGN CHOICE, log 32: R262 writes it after them, though tests 11, 12 and 16 use it), and the T bit is
read after them, under the incoming CR3 (DESIGN CHOICE, log 32: R262 does not list it among the fields read). LDTR, CS and
SS take their hidden parts, and CS and SS set their accessed bits, each after its own tests, and DS, ES, FS and GS after
test 16 (DESIGN CHOICE, log 50: R263 does not say when between tests 4 and 16). -/
def taskSwitch (sel : Word16) (k : TaskKind) (ret : Word32) : M Bool := do
  let d ← checkTss sel k
  let old ← get
  saveTask k ret
  commitTask sel d k
  let img ← readFields d.base tssLoads
  let f : Nat → Word32 := fun i => img.getD i 0
  if k.nests then linWrite .b16 d.base old.tr.sel false
  loadTaskCr3 (f 17)
  if (f 1).getLsbD 17 then refuse .virtual8086
  modify fun s => s.withTask k f
  loadTaskLdt (low16 (f 0))
  loadTaskCode (low16 (f 12))
  loadTaskStack (low16 (f 13))
  loadTaskData (low16 (f 14)) (low16 (f 11)) (low16 (f 15)) (low16 (f 16))
  let word ← linRead .b16 (d.base + 0x64) false
  return word.getLsbD 0

/-- After the switch: the limit check of the EIP loaded (R263), and the debug trap if the T bit is set (R267). -/
def finishTask (t : Bool) : M Unit := do
  let s ← get
  require (decide (s.eip.toNat ≤ s.cs.limit.toNat)) gp0
  if t then modify fun u => { u with debugTrap := true, dbg := { u.dbg with dr6 := u.dbg.dr6 ||| 0x8000 } }

end Sys2Proof.Machine
end

