-- ==== Sys2Proof/Machine/Ops.lean ====
section
/-! DEFINITION. Ops.lean: taking an interrupt or an exception (60_exceptions.md R740 to R766; 23_real_address_mode.md
R297, R298), returning from one (44_control_transfer.md R545, R546), and running an instruction's meaning. -/

namespace Sys2Proof.Machine

/-! ## Taking an exception -/

/-- Where an event comes from (R760): a software interrupt instruction, the processor itself, the outside. -/
inductive Source where
  | soft | exc | ext
  deriving DecidableEq, Repr

/-- The classes of R759. -/
inductive ExnClass where
  | benign | contributory | page
  deriving DecidableEq, Repr

/-- An event to deliver (R760): its identifier, source, the EIP to save, its error code, and whether RF is set in the
flags image it saves (R785: faults set it, and for a double fault it is open, log 28). -/
structure Event where
  vec : Byte
  src : Source
  ret : Word32
  code : ErrCode
  rf : Bool
  deriving DecidableEq, Repr

/-- The class of an event that is being delivered (R759). Every software interrupt is benign, whatever its identifier
(DESIGN CHOICE, log 44). -/
def Event.cls (e : Event) : ExnClass :=
  match e.src with
  | .soft => .benign
  | .ext => .benign
  | .exc =>
    match e.vec.toNat with
    | 0 | 9 | 10 | 11 | 12 | 13 => .contributory
    | 14 => .page
    | _ => .benign

/-- The class of an exception raised while delivering (R759). -/
def Exn.cls (e : Exn) : ExnClass :=
  match e.vec.toNat with
  | 0 | 9 | 10 | 11 | 12 | 13 => .contributory
  | 14 => .page
  | _ => .benign

/-- The pairs that cannot be served in sequence (R759). -/
def doubleFault (first second : ExnClass) : Bool :=
  match first, second with
  | .contributory, .contributory => true
  | .page, .contributory => true
  | .page, .page => true
  | .contributory, .page => false
  | .contributory, .benign => false
  | .page, .benign => false
  | .benign, _ => false

/-- An error code with its EXT bit set where the event being delivered is no software interrupt (R752). -/
def ErrCode.withExt (c : ErrCode) (ext : Bool) : ErrCode :=
  match c with
  | .sel v => .sel (if ext then v ||| 1 else v)
  | .none => .none
  | .page v => .page v

/-- The doubleword pushed for an error code (R752, R738): its upper bits are unspecified. -/
def errImage (c : ErrCode) (u : Word32) : Word32 :=
  match c with
  | .none => 0
  | .sel v => u.extractLsb' 16 16 ++ v
  | .page v => u.extractLsb' 3 29 ++ v

/-- The exception has an error code. -/
def ErrCode.pushes (c : ErrCode) : Bool :=
  match c with
  | .none => false
  | .sel _ => true
  | .page _ => true

/-- The error code of an exception about IDT entry `n` (R752): the index with the I bit. -/
def idtCode (n : Byte) : ErrCode := .sel ((n.setWidth 16 <<< 3) ||| 2)

/-- Push an error code if there is one (R763, R766). -/
def pushCode (c : ErrCode) : M Unit :=
  if c.pushes then do
    let u ← draw
    pushSystem .b32 (errImage c u)
  else pure ()

/-- The flags on entry to a handler (R765, R785): TF, NT and RF clear, IF clear through an interrupt gate. -/
def Flags.entry (f : Flags) (interruptGate : Bool) : Flags :=
  { f with tf := false, nt := false, rf := false, ie := f.ie && !interruptGate }

/-- The frame of a delivery and the entry to the handler (R763, R764); `old` is the state at the event, `c` the descriptor
of the handler's segment. -/
def enterHandler (g c : Desc) (e : Event) (old : State) : M Unit := do
  pushSystem .b32 ({ old.flags with rf := e.rf }).image
  pushSystem .b32 (old.cs.sel.setWidth 32)
  pushSystem .b32 e.ret
  pushCode e.code
  enterCode g.gateSel c g.gateOff
  setFlags fun f => f.entry (g.type == 0xE)

/-- Delivery through an interrupt gate or a trap gate (R763): every push is at supervisor level, also at the same
level (20_memory.md R132; DEDUCED, log 48). At the same level the pages of all pushes are checked before the first
(00_scope.md R13; 92_eei_decisions.md D19); a fault of a push on a new stack keeps that stack (93_implementation_defined.md
U10; log 45). -/
def deliverGate (g : Desc) (e : Event) : M Unit := do
  let s ← get
  let csel := g.gateSel
  require (!selNull csel) gp0
  let c ← readDesc csel (gpFault csel)
  require c.attr.code (gpFault csel)
  require (decide (c.dpl ≤ s.cpl)) (gpFault csel)
  require c.present (npFault csel)
  if !c.attr.conforming && decide (c.dpl < s.cpl) then do
    let (nss, nesp, d) ← innerStack c.dpl
    require (stackRoom true (d.seg nss) nesp .b32 (if e.code.pushes then 6 else 5)) ss0
    require (decide (g.gateOff.toNat ≤ c.limit.toNat)) gp0
    enterInner c.dpl nss nesp d
    partway do
      pushSystem .b32 (s.ss.sel.setWidth 32)
      pushSystem .b32 s.regs.esp
      enterHandler g c e s
  else do
    let k := if e.code.pushes then 4 else 3
    require (stackRoom true s.ss s.regs.esp .b32 k) ss0
    require (decide (g.gateOff.toNat ≤ c.limit.toNat)) gp0
    probePushesAs false .b32 k
    enterHandler g c e s

/-- Delivery through a task gate (R766). -/
def deliverTask (g : Desc) (e : Event) : M Unit := do
  let t ← taskSwitch g.gateSel .int e.ret
  pushCode e.code
  finishTask t

/-- `Deliver(n, src, ret, err)` in protected mode, one attempt (R760, R762). An entry with S = 1 is no gate of 80286
format whatever its TYPE, and raises #GP (DESIGN CHOICE, log 53: R760 tests TYPE first, while 21_translation_protection.md
R163 gives these types for S = 0). -/
def deliverProtected (e : Event) : M Unit := do
  let s ← get
  require (decide (e.vec.toNat * 8 + 7 ≤ s.idtr.limit.toNat)) ⟨13, idtCode e.vec⟩
  let g ← readPair (s.idtr.base + e.vec.setWidth 32 <<< 3)
  if g.isSys 6 || g.isSys 7 then refuse .desc286
  require (g.isSys 5 || g.isSys 0xE || g.isSys 0xF) ⟨13, idtCode e.vec⟩
  require (!(e.src == .soft && decide (g.dpl < s.cpl))) ⟨13, idtCode e.vec⟩
  require g.present ⟨11, idtCode e.vec⟩
  if g.isSys 5 then deliverTask g e else deliverGate g e

/-- A push of a real-mode delivery: where it cannot be made the processor shuts down (R758). -/
def pushOrShutdown (v : Word16) : M Unit := fun s =>
  match pushSystem .b16 v s with
  | .ok () t => .ok () t
  | .error (.exc _) t => .error .shutdown t
  | .error .shutdown t => .error .shutdown t
  | .error (.refuse r) t => .error (.refuse r) t

/-- `RealModeDeliver(n, ret)` (23_real_address_mode.md R297): an entry beyond the table's limit raises exception 8
instead (R298). -/
def deliverReal (e : Event) : M Unit := do
  let s ← get
  require (decide (e.vec.toNat * 4 + 3 ≤ s.idtr.limit.toNat)) ⟨8, .none⟩
  pushOrShutdown (low16 s.flags.image)
  pushOrShutdown s.cs.sel
  pushOrShutdown (low16 e.ret)
  setFlags fun f => { f with ie := false, tf := false, rf := false }
  let entry := s.idtr.base + e.vec.setWidth 32 <<< 2
  let ip ← linRead .b16 entry false
  let sel ← linRead .b16 (entry + 2) false
  enterRealCode sel (ip.setWidth 32)

/-- One attempt at delivering an event, in the mode in force (R775). -/
def deliverOnce (e : Event) : M Unit := do
  let s ← get
  if s.cr0.pe then deliverProtected e else deliverReal e

/-- The state a fault restarts from (00_scope.md R13; 60_exceptions.md R741): `base`, with what does not go back:
memory already written, the tables' accessed and dirty bits with it, the TLB, CR2, and the model's own fields (log 12).
-/
def State.rollback (base s : State) : State :=
  { base with mem := s.mem, tlb := s.tlb, prefetch := s.prefetch, cr2 := s.cr2, masters := s.masters, events := s.events,
              free := s.free }

/-- The state, and the EIP to save, with which an exception is taken: those before the attempt; the new task's where a
task switch has passed its commit point (22_multitasking.md R262, R263; log 21); or, part-way through an operation of
93_implementation_defined.md U10, the registers changed so far with the EIP of the attempt (log 45). -/
def resumeAt (base s : State) (ret : Word32) : State × Word32 :=
  if s.cur.committed then ({ s with cur := { s.cur with committed := false } }, s.eip)
  else if s.cur.partway then ({ s with eip := base.eip, cur := { s.cur with partway := false } }, ret)
  else (base.rollback s, ret)

/-- The event of an exception raised by the processor: RF is set in the image it saves (R785). -/
def faultEvent (e : Exn) (ret : Word32) (ext : Bool) : Event :=
  { vec := e.vec, src := .exc, ret := ret, code := e.code.withExt ext, rf := true }

/-- The double fault (R759): error code 0; the EIP it saves and its RF image are unspecified (R740, log 28). -/
def doubleFaultEvent (u v : Word32) : Event :=
  { vec := 8, src := .exc, ret := u, code := .sel 0, rf := v.getLsbD 0 }

/-- The EIP that an exception raised in delivering an event saves, `ret` being the event's (R760; log 14): in real-address
mode, where the event is a software interrupt, that of the instruction (23_real_address_mode.md R301, exception 8). -/
def Event.refault (e : Event) (s : State) (ret : Word32) : Word32 :=
  if !s.cr0.pe && e.src == .soft then s.cur.start else ret

/-- Deliver an event, and an exception raised in delivering it (R759, R760): a second event is delivered in its place,
or a double fault, or the processor shuts down. Shutdown keeps the registers with which the exception that caused it
would have been taken (`resumeAt`): those of before the attempt, those changed so far part-way through the pushes on a
new stack (log 45), or the incoming task's where the double fault's own task gate fails past the commit point of its
switch (R758; DESIGN CHOICE, log 20). A software interrupt that ends so has not completed, and arms no single-step trap
(R795; DESIGN CHOICE, log 15). The chain has at most four events; `fuel` bounds it. -/
def deliverChain (fuel : Nat) (e : Event) : M Unit := fun s0 =>
  let s := { s0 with cur := { s0.cur with committed := false, partway := false } }
  match fuel with
  | 0 => .ok () { s with activity := .shutdown }
  | fuel + 1 =>
    match deliverOnce e s with
    | .ok () t => .ok () t
    | .error (.refuse r) t => .error (.refuse r) t
    | .error .shutdown t => .ok () { s.rollback t with activity := .shutdown, cur := { s.cur with incomplete := true } }
    | .error (.exc x) t =>
      let (b0, ret) := resumeAt s t (e.refault s e.ret)
      let b := { b0 with cur := { b0.cur with incomplete := true } }
      if e.vec == 8 && e.src == .exc then .ok () { b with activity := .shutdown }
      else if doubleFault e.cls x.cls then
        deliverChain fuel (doubleFaultEvent (Config.freeValue b.free) (Config.freeValue (b.free + 1)))
          { b with free := b.free + 2 }
      else deliverChain fuel (faultEvent x ret (e.src != .soft)) b

/-- `Deliver` (R760): taking an interrupt or an exception. -/
def deliver (e : Event) : M Unit := deliverChain 6 e

/-- `next` (40_data_movement.md R400 point 3): the offset of the next instruction, cut to 16 bits when the code segment's
default size is 16. -/
def State.nextIp (s : State) : Word32 :=
  match s.cur.code with
  | .s16 => s.cur.next &&& 0xFFFF
  | .s32 => s.cur.next

/-- INT n, INT 3 and INTO (44_control_transfer.md R550 to R552): the saved EIP is that of the next instruction. -/
def softInterrupt (n : Byte) : M Unit := do
  let s ← get
  deliver { vec := n, src := .soft, ret := s.nextIp, code := .none, rf := false }

/-! ## Returning from one -/

/-- `LoadFlags(fl, size, cpl)` (44_control_transfer.md R545); `cpl` is the level before the instruction. -/
def Flags.load (f : Flags) (v : Word32) (sz : Size) (cpl : BitVec 2) : Flags :=
  let n := Flags.ofImage v
  { cf := n.cf, pf := n.pf, af := n.af, zf := n.zf, sf := n.sf, tf := n.tf, df := n.df, ov := n.ov, nt := n.nt
    ie := if cpl ≤ f.iopl then n.ie else f.ie
    iopl := if cpl = 0 then n.iopl else f.iopl
    rf := if sz = .s32 then n.rf else f.rf
    vm := f.vm }

/-- The checks of a return's code selector (44_control_transfer.md R536). -/
def checkReturnCode (csel : Word16) : M Desc := do
  let s ← get
  require (!selNull csel) gp0
  require (decide (s.cpl ≤ rpl csel)) (gpFault csel)
  let c ← readDesc csel (gpFault csel)
  require c.attr.code (gpFault csel)
  require (c.codeMatches (rpl csel)) (gpFault csel)
  require c.present (npFault csel)
  return c

/-- The checks of an outer stack selector (21_translation_protection.md R199). -/
def checkReturnStack (nss : Word16) (level : BitVec 2) : M Desc := do
  require (!selNull nss) gp0
  let d ← readDesc nss (gpFault nss)
  require (d.writableData && d.dpl == level && rpl nss == level) (gpFault nss)
  require d.present (ssFault nss)
  return d

/-- Load SS and (E)SP of an outer level, and null the data segments it may not keep (44_control_transfer.md R537). -/
def leaveInner (nss : Word16) (d : Desc) (esp : Word32) : M Unit := do
  installSeg .ss nss d
  modify fun s => { s with regs := s.regs.setSP s.stackSize esp }
  modify State.nullOuter

/-- The operand width an OpSize selects. -/
abbrev vw (sz : Size) : Width := sz.width

/-- IRET in real-address mode (R545). -/
def iretReal (w : Width) (sz : Size) : M Unit := do
  let ip ← pop w
  let sel ← pop w
  let fl ← pop w
  let s ← get
  let off := ip.setWidth 32
  require (decide (off.toNat ≤ s.cs.limit.toNat)) gp0
  enterRealCode (sel.setWidth 16) off
  setFlags fun f => f.load (fl.setWidth 32) sz 0

/-- IRET with NT = 1: back to the task the back link names (R272, R545). -/
def iretTask : M Unit := do
  let s ← get
  let link ← linRead .b16 s.tr.base false
  let t ← taskSwitch link .iret s.nextIp
  finishTask t

/-- IRET in protected mode with NT = 0 (R545, R546). -/
def iretFrame (w : Width) (sz : Size) : M Unit := do
  let s ← get
  let n := distOf w
  require (stackHolds s 0 w 3) ss0
  let ip ← stackRead w 0
  let csel ← stackRead .b16 n
  let fl ← stackRead w (2 * n)
  let off : Word32 := ip.setWidth 32
  let image : Word32 := fl.setWidth 32
  if sz = .s32 && image.getLsbD 17 && s.cpl == 0 then refuse .virtual8086
  let c ← checkReturnCode csel
  if s.cpl < rpl csel then do
    require (stackHolds s 0 w 5) ss0
    let nesp ← stackRead w (3 * n)
    let nss ← stackRead .b16 (4 * n)
    let d ← checkReturnStack nss (rpl csel)
    require (decide (off.toNat ≤ c.limit.toNat)) gp0
    returnCode csel c off
    setFlags fun f => f.load image sz s.cpl
    leaveInner nss d (nesp.setWidth 32)
  else do
    require (decide (off.toNat ≤ c.limit.toNat)) gp0
    returnCode csel c off
    modify fun t => t.moveSP (3 * n)
    setFlags fun f => f.load image sz s.cpl

/-- IRET and IRETD (R545): the NMI latch is cleared (60_exceptions.md R783). -/
def interruptReturn (sz : Size) : M Unit := do
  let s ← get
  if !s.cr0.pe then iretReal sz.width sz
  else if s.flags.nt then iretTask
  else iretFrame sz.width sz
  modify fun t => { t with nmiLatch := false, cur := { t.cur with keepRf := true } }

/-! ## Running an instruction -/

/-- Take a fault of an instruction (R745): its register changes are discarded and the saved EIP is that of its first
byte; one found after the commit point of a task switch belongs to the new task. -/
def takeFault (base s : State) (x : Exn) : Host.Outcome State Fault Refusal :=
  let (b, ret) := resumeAt base s base.cur.start
  match deliver (faultEvent x ret false) { b with cur := { b.cur with incomplete := true } } with
  | .ok () t => .next t
  | .error (.refuse r) _ => .refused r
  | .error (.exc _) t => .next { t with activity := .shutdown }
  | .error .shutdown t => .next { t with activity := .shutdown }

/-- The outcome of an action that began in `base`. -/
def settle (base : State) (r : EStateM.Result Stop State Unit) : Host.Outcome State Fault Refusal :=
  match r with
  | .ok () t => .next t
  | .error (.refuse r) _ => .refused r
  | .error (.exc x) t => takeFault base t x
  | .error .shutdown t => .next { base.rollback t with activity := .shutdown }

/-- An instruction's meaning with what every instruction does (10_state.md R47, 40_data_movement.md R400 point 3): EIP is
that of the next instruction unless the meaning loads another. A LOCK prefix raises #UD unless `lockable` says that the
form modifies memory and is in the list of 20_memory.md R127. -/
def begin (lockable : Bool) (m : M Unit) : M Unit := do
  let s ← get
  require (!s.cur.lock || lockable) ud
  modify fun t => { t with eip := t.cur.next }
  m

/-- Run an instruction's meaning. -/
def run (lockable : Bool) (m : M Unit) (s : State) : Host.Outcome State Fault Refusal :=
  settle s (begin lockable m s)

end Sys2Proof.Machine
end

