-- ==== Sys2Proof/Machine/Arith.lean ====
section
/-! DEFINITION. Arith.lean: binary arithmetic, and the ALU block that AND, OR and XOR share with it
(41_binary_arithmetic.md R430 to R444; 43_logical.md R472 to R474). -/

namespace Sys2Proof.Machine

/-- The operation writes its destination: all but CMP (R437). -/
def AluOp.writes : AluOp → Bool
  | .cmp => false
  | .add | .or | .adc | .sbb | .and | .sub | .xor => true

/-- A two-operand operation on an r/m destination (R444): write permission before the read; under LOCK the read and the
write are one locked sequence (20_memory.md R127). -/
def aluTo (op : AluOp) (w : Width) (rm : RM) (src : M (Val w)) : M Unit := do
  let l ← locate w rm op.writes true
  let b ← src
  let s ← get
  lockedIf s.cur.lock do
    let a ← readLoc w l
    setEffect (op.flags a b s.flags.cf)
    if op.writes then writeLoc w l (op.result a b s.flags.cf) else pure ()

/-- op r/m, r (R444). -/
def aluRmReg (op : AluOp) (w : Width) (rm : RM) (r : Reg) : M Unit := aluTo op w rm (getReg w r)

/-- op r, r/m (R444). -/
def aluRegRm (op : AluOp) (w : Width) (r : Reg) (rm : RM) : M Unit := aluTo op w (.reg r) (readRM w rm)

/-- op r/m, immediate (R444). -/
def aluRmImm (op : AluOp) (w : Width) (rm : RM) (v : Val w) : M Unit := aluTo op w rm (pure v)

/-- op accumulator, immediate (R444). -/
def aluAccImm (op : AluOp) (w : Width) (v : Val w) : M Unit := aluTo op w (.reg .eax) (pure v)

/-- A one-operand operation on an r/m operand (R430): write permission before the read; under LOCK the read and the write
are one locked sequence (20_memory.md R127). -/
def modifyRM (w : Width) (rm : RM) (result : Val w → Val w) (flags : Val w → M Unit) : M Unit := do
  let l ← locate w rm true true
  let s ← get
  lockedIf s.cur.lock do
    let a ← readLoc w l
    flags a
    writeLoc w l (result a)

/-- INC (R433): CF is kept. -/
def increment (w : Width) (rm : RM) : M Unit :=
  modifyRM w rm (fun a => addResult a 1 false) fun a => setEffect (addFlags a 1 false).keepCf

/-- DEC (R436): CF is kept. -/
def decrement (w : Width) (rm : RM) : M Unit :=
  modifyRM w rm (fun a => subResult a 1 false) fun a => setEffect (subFlags a 1 false).keepCf

/-- NEG (R438). -/
def negate (w : Width) (rm : RM) : M Unit :=
  modifyRM w rm (fun a => subResult 0 a false) fun a => setEffect (subFlags 0 a false)

/-- The register that holds the high half of a double-width value: AH, DX or EDX (R439, R442). -/
def highReg : Width → Reg
  | .b8 => .esp
  | .b16 => .edx
  | .b32 => .edx

/-- Write a double-width value to the register pair (R439). -/
def setPair (w : Width) (p : BitVec (w.bits + w.bits)) : M Unit := do
  setReg w .eax (p.extractLsb' 0 w.bits)
  setReg w (highReg w) (p.extractLsb' w.bits w.bits)

/-- MUL (R439). -/
def multiply (w : Width) (rm : RM) : M Unit := do
  let b ← readRM w rm
  let a ← getReg w .eax
  let p : BitVec (w.bits + w.bits) := a.setWidth (w.bits + w.bits) * b.setWidth (w.bits + w.bits)
  setPair w p
  setEffect (mulFlags (p.extractLsb' w.bits w.bits != 0))

/-- IMUL with one operand (R440). -/
def multiplySigned (w : Width) (rm : RM) : M Unit := do
  let b ← readRM w rm
  let a ← getReg w .eax
  let p : BitVec (w.bits + w.bits) := a.signExtend (w.bits + w.bits) * b.signExtend (w.bits + w.bits)
  setPair w p
  setEffect (mulFlags (p != (p.extractLsb' 0 w.bits).signExtend (w.bits + w.bits)))

/-- The product of IMUL with two or three operands, and whether it does not fit (R441). -/
def signedProduct {n : Nat} (a b : BitVec n) : BitVec n × Bool :=
  let p := a.toInt * b.toInt
  (BitVec.ofInt n p, p != (BitVec.ofInt n p).toInt)

/-- IMUL r, r/m (R441). -/
def multiplyReg (w : Width) (r : Reg) (rm : RM) : M Unit := do
  let a ← getReg w r
  let b ← readRM w rm
  setReg w r (signedProduct a b).1
  setEffect (mulFlags (signedProduct a b).2)

/-- IMUL r, r/m, immediate (R441). -/
def multiplyImm (w : Width) (r : Reg) (rm : RM) (v : Val w) : M Unit := do
  let a ← readRM w rm
  setReg w r (signedProduct a v).1
  setEffect (mulFlags (signedProduct a v).2)

/-- Write a quotient and a remainder to the register pair; all flags are UNDEF (R442, R443). -/
def setQuotient (w : Width) (q r : Val w) : M Unit := do
  setReg w .eax q
  setReg w (highReg w) r
  setEffect allUndef

/-- DIV (R442): a zero divisor and a quotient that does not fit raise #DE. -/
def divide (w : Width) (rm : RM) : M Unit := do
  let d ← readRM w rm
  let lo ← getReg w .eax
  let hi ← getReg w (highReg w)
  let n := (hi ++ lo).toNat
  require (d.toNat != 0) de
  require (decide (n / d.toNat < 2 ^ w.bits)) de
  setQuotient w (BitVec.ofNat w.bits (n / d.toNat)) (BitVec.ofNat w.bits (n % d.toNat))

/-- IDIV (R443): the quotient is cut toward zero, and the remainder has the dividend's sign. -/
def divideSigned (w : Width) (rm : RM) : M Unit := do
  let d ← readRM w rm
  let lo ← getReg w .eax
  let hi ← getReg w (highReg w)
  let n := (hi ++ lo).toInt
  require (d.toNat != 0) de
  let q := n.tdiv d.toInt
  require (decide (-(2 ^ (w.bits - 1) : Int) ≤ q) && decide (q ≤ 2 ^ (w.bits - 1) - 1)) de
  setQuotient w (BitVec.ofInt w.bits q) (BitVec.ofInt w.bits (n.tmod d.toInt))

/-! ## The instructions -/

/-- ADD Eb,Gb (R431). -/
def execAddEbGb (rm : RM) (r : Reg) (s : State) : Host.Outcome State Fault Refusal :=
  run (isMem rm) (aluRmReg .add .b8 rm r) s

/-- ADD Ev,Gv (R431). -/
def execAddEvGv (rm : RM) (r : Reg) (s : State) : Host.Outcome State Fault Refusal :=
  run (isMem rm) (aluRmReg .add s.opw rm r) s

/-- ADD Gb,Eb (R431). -/
def execAddGbEb (r : Reg) (rm : RM) (s : State) : Host.Outcome State Fault Refusal :=
  run false (aluRegRm .add .b8 r rm) s

/-- ADD Gv,Ev (R431). -/
def execAddGvEv (r : Reg) (rm : RM) (s : State) : Host.Outcome State Fault Refusal :=
  run false (aluRegRm .add s.opw r rm) s

/-- ADD AL,Ib (R431). -/
def execAddAlIb (imm : Byte) (s : State) : Host.Outcome State Fault Refusal := run false (aluAccImm .add .b8 imm) s

/-- ADD eAX,Iv (R431). -/
def execAddEaxIv (imm : Word32) (s : State) : Host.Outcome State Fault Refusal :=
  run false (aluAccImm .add s.opw (imm.setWidth _)) s

/-- ADD Eb,Ib (R431). -/
def execAddEbIb (rm : RM) (imm : Byte) (s : State) : Host.Outcome State Fault Refusal :=
  run (isMem rm) (aluRmImm .add .b8 rm imm) s

/-- ADD Ev,Iv (R431). -/
def execAddEvIv (rm : RM) (imm : Word32) (s : State) : Host.Outcome State Fault Refusal :=
  run (isMem rm) (aluRmImm .add s.opw rm (imm.setWidth _)) s

/-- ADD Ev,Ib (R431). -/
def execAddEvIb (rm : RM) (imm : Byte) (s : State) : Host.Outcome State Fault Refusal :=
  run (isMem rm) (aluRmImm .add s.opw rm (imm.signExtend _)) s

/-- OR Eb,Gb (43_logical.md R473). -/
def execOrEbGb (rm : RM) (r : Reg) (s : State) : Host.Outcome State Fault Refusal :=
  run (isMem rm) (aluRmReg .or .b8 rm r) s

/-- OR Ev,Gv (43_logical.md R473). -/
def execOrEvGv (rm : RM) (r : Reg) (s : State) : Host.Outcome State Fault Refusal :=
  run (isMem rm) (aluRmReg .or s.opw rm r) s

/-- OR Gb,Eb (43_logical.md R473). -/
def execOrGbEb (r : Reg) (rm : RM) (s : State) : Host.Outcome State Fault Refusal :=
  run false (aluRegRm .or .b8 r rm) s

/-- OR Gv,Ev (43_logical.md R473). -/
def execOrGvEv (r : Reg) (rm : RM) (s : State) : Host.Outcome State Fault Refusal :=
  run false (aluRegRm .or s.opw r rm) s

/-- OR AL,Ib (43_logical.md R473). -/
def execOrAlIb (imm : Byte) (s : State) : Host.Outcome State Fault Refusal := run false (aluAccImm .or .b8 imm) s

/-- OR eAX,Iv (43_logical.md R473). -/
def execOrEaxIv (imm : Word32) (s : State) : Host.Outcome State Fault Refusal :=
  run false (aluAccImm .or s.opw (imm.setWidth _)) s

/-- OR Eb,Ib (43_logical.md R473). -/
def execOrEbIb (rm : RM) (imm : Byte) (s : State) : Host.Outcome State Fault Refusal :=
  run (isMem rm) (aluRmImm .or .b8 rm imm) s

/-- OR Ev,Iv (43_logical.md R473). -/
def execOrEvIv (rm : RM) (imm : Word32) (s : State) : Host.Outcome State Fault Refusal :=
  run (isMem rm) (aluRmImm .or s.opw rm (imm.setWidth _)) s

/-- OR Ev,Ib (43_logical.md R473). -/
def execOrEvIb (rm : RM) (imm : Byte) (s : State) : Host.Outcome State Fault Refusal :=
  run (isMem rm) (aluRmImm .or s.opw rm (imm.signExtend _)) s

/-- ADC Eb,Gb (R432). -/
def execAdcEbGb (rm : RM) (r : Reg) (s : State) : Host.Outcome State Fault Refusal :=
  run (isMem rm) (aluRmReg .adc .b8 rm r) s

/-- ADC Ev,Gv (R432). -/
def execAdcEvGv (rm : RM) (r : Reg) (s : State) : Host.Outcome State Fault Refusal :=
  run (isMem rm) (aluRmReg .adc s.opw rm r) s

/-- ADC Gb,Eb (R432). -/
def execAdcGbEb (r : Reg) (rm : RM) (s : State) : Host.Outcome State Fault Refusal :=
  run false (aluRegRm .adc .b8 r rm) s

/-- ADC Gv,Ev (R432). -/
def execAdcGvEv (r : Reg) (rm : RM) (s : State) : Host.Outcome State Fault Refusal :=
  run false (aluRegRm .adc s.opw r rm) s

/-- ADC AL,Ib (R432). -/
def execAdcAlIb (imm : Byte) (s : State) : Host.Outcome State Fault Refusal := run false (aluAccImm .adc .b8 imm) s

/-- ADC eAX,Iv (R432). -/
def execAdcEaxIv (imm : Word32) (s : State) : Host.Outcome State Fault Refusal :=
  run false (aluAccImm .adc s.opw (imm.setWidth _)) s

/-- ADC Eb,Ib (R432). -/
def execAdcEbIb (rm : RM) (imm : Byte) (s : State) : Host.Outcome State Fault Refusal :=
  run (isMem rm) (aluRmImm .adc .b8 rm imm) s

/-- ADC Ev,Iv (R432). -/
def execAdcEvIv (rm : RM) (imm : Word32) (s : State) : Host.Outcome State Fault Refusal :=
  run (isMem rm) (aluRmImm .adc s.opw rm (imm.setWidth _)) s

/-- ADC Ev,Ib (R432). -/
def execAdcEvIb (rm : RM) (imm : Byte) (s : State) : Host.Outcome State Fault Refusal :=
  run (isMem rm) (aluRmImm .adc s.opw rm (imm.signExtend _)) s

/-- SBB Eb,Gb (R435). -/
def execSbbEbGb (rm : RM) (r : Reg) (s : State) : Host.Outcome State Fault Refusal :=
  run (isMem rm) (aluRmReg .sbb .b8 rm r) s

/-- SBB Ev,Gv (R435). -/
def execSbbEvGv (rm : RM) (r : Reg) (s : State) : Host.Outcome State Fault Refusal :=
  run (isMem rm) (aluRmReg .sbb s.opw rm r) s

/-- SBB Gb,Eb (R435). -/
def execSbbGbEb (r : Reg) (rm : RM) (s : State) : Host.Outcome State Fault Refusal :=
  run false (aluRegRm .sbb .b8 r rm) s

/-- SBB Gv,Ev (R435). -/
def execSbbGvEv (r : Reg) (rm : RM) (s : State) : Host.Outcome State Fault Refusal :=
  run false (aluRegRm .sbb s.opw r rm) s

/-- SBB AL,Ib (R435). -/
def execSbbAlIb (imm : Byte) (s : State) : Host.Outcome State Fault Refusal := run false (aluAccImm .sbb .b8 imm) s

/-- SBB eAX,Iv (R435). -/
def execSbbEaxIv (imm : Word32) (s : State) : Host.Outcome State Fault Refusal :=
  run false (aluAccImm .sbb s.opw (imm.setWidth _)) s

/-- SBB Eb,Ib (R435). -/
def execSbbEbIb (rm : RM) (imm : Byte) (s : State) : Host.Outcome State Fault Refusal :=
  run (isMem rm) (aluRmImm .sbb .b8 rm imm) s

/-- SBB Ev,Iv (R435). -/
def execSbbEvIv (rm : RM) (imm : Word32) (s : State) : Host.Outcome State Fault Refusal :=
  run (isMem rm) (aluRmImm .sbb s.opw rm (imm.setWidth _)) s

/-- SBB Ev,Ib (R435). -/
def execSbbEvIb (rm : RM) (imm : Byte) (s : State) : Host.Outcome State Fault Refusal :=
  run (isMem rm) (aluRmImm .sbb s.opw rm (imm.signExtend _)) s

/-- AND Eb,Gb (43_logical.md R472). -/
def execAndEbGb (rm : RM) (r : Reg) (s : State) : Host.Outcome State Fault Refusal :=
  run (isMem rm) (aluRmReg .and .b8 rm r) s

/-- AND Ev,Gv (43_logical.md R472). -/
def execAndEvGv (rm : RM) (r : Reg) (s : State) : Host.Outcome State Fault Refusal :=
  run (isMem rm) (aluRmReg .and s.opw rm r) s

/-- AND Gb,Eb (43_logical.md R472). -/
def execAndGbEb (r : Reg) (rm : RM) (s : State) : Host.Outcome State Fault Refusal :=
  run false (aluRegRm .and .b8 r rm) s

/-- AND Gv,Ev (43_logical.md R472). -/
def execAndGvEv (r : Reg) (rm : RM) (s : State) : Host.Outcome State Fault Refusal :=
  run false (aluRegRm .and s.opw r rm) s

/-- AND AL,Ib (43_logical.md R472). -/
def execAndAlIb (imm : Byte) (s : State) : Host.Outcome State Fault Refusal := run false (aluAccImm .and .b8 imm) s

/-- AND eAX,Iv (43_logical.md R472). -/
def execAndEaxIv (imm : Word32) (s : State) : Host.Outcome State Fault Refusal :=
  run false (aluAccImm .and s.opw (imm.setWidth _)) s

/-- AND Eb,Ib (43_logical.md R472). -/
def execAndEbIb (rm : RM) (imm : Byte) (s : State) : Host.Outcome State Fault Refusal :=
  run (isMem rm) (aluRmImm .and .b8 rm imm) s

/-- AND Ev,Iv (43_logical.md R472). -/
def execAndEvIv (rm : RM) (imm : Word32) (s : State) : Host.Outcome State Fault Refusal :=
  run (isMem rm) (aluRmImm .and s.opw rm (imm.setWidth _)) s

/-- AND Ev,Ib (43_logical.md R472). -/
def execAndEvIb (rm : RM) (imm : Byte) (s : State) : Host.Outcome State Fault Refusal :=
  run (isMem rm) (aluRmImm .and s.opw rm (imm.signExtend _)) s

/-- SUB Eb,Gb (R434). -/
def execSubEbGb (rm : RM) (r : Reg) (s : State) : Host.Outcome State Fault Refusal :=
  run (isMem rm) (aluRmReg .sub .b8 rm r) s

/-- SUB Ev,Gv (R434). -/
def execSubEvGv (rm : RM) (r : Reg) (s : State) : Host.Outcome State Fault Refusal :=
  run (isMem rm) (aluRmReg .sub s.opw rm r) s

/-- SUB Gb,Eb (R434). -/
def execSubGbEb (r : Reg) (rm : RM) (s : State) : Host.Outcome State Fault Refusal :=
  run false (aluRegRm .sub .b8 r rm) s

/-- SUB Gv,Ev (R434). -/
def execSubGvEv (r : Reg) (rm : RM) (s : State) : Host.Outcome State Fault Refusal :=
  run false (aluRegRm .sub s.opw r rm) s

/-- SUB AL,Ib (R434). -/
def execSubAlIb (imm : Byte) (s : State) : Host.Outcome State Fault Refusal := run false (aluAccImm .sub .b8 imm) s

/-- SUB eAX,Iv (R434). -/
def execSubEaxIv (imm : Word32) (s : State) : Host.Outcome State Fault Refusal :=
  run false (aluAccImm .sub s.opw (imm.setWidth _)) s

/-- SUB Eb,Ib (R434). -/
def execSubEbIb (rm : RM) (imm : Byte) (s : State) : Host.Outcome State Fault Refusal :=
  run (isMem rm) (aluRmImm .sub .b8 rm imm) s

/-- SUB Ev,Iv (R434). -/
def execSubEvIv (rm : RM) (imm : Word32) (s : State) : Host.Outcome State Fault Refusal :=
  run (isMem rm) (aluRmImm .sub s.opw rm (imm.setWidth _)) s

/-- SUB Ev,Ib (R434). -/
def execSubEvIb (rm : RM) (imm : Byte) (s : State) : Host.Outcome State Fault Refusal :=
  run (isMem rm) (aluRmImm .sub s.opw rm (imm.signExtend _)) s

/-- XOR Eb,Gb (43_logical.md R474). -/
def execXorEbGb (rm : RM) (r : Reg) (s : State) : Host.Outcome State Fault Refusal :=
  run (isMem rm) (aluRmReg .xor .b8 rm r) s

/-- XOR Ev,Gv (43_logical.md R474). -/
def execXorEvGv (rm : RM) (r : Reg) (s : State) : Host.Outcome State Fault Refusal :=
  run (isMem rm) (aluRmReg .xor s.opw rm r) s

/-- XOR Gb,Eb (43_logical.md R474). -/
def execXorGbEb (r : Reg) (rm : RM) (s : State) : Host.Outcome State Fault Refusal :=
  run false (aluRegRm .xor .b8 r rm) s

/-- XOR Gv,Ev (43_logical.md R474). -/
def execXorGvEv (r : Reg) (rm : RM) (s : State) : Host.Outcome State Fault Refusal :=
  run false (aluRegRm .xor s.opw r rm) s

/-- XOR AL,Ib (43_logical.md R474). -/
def execXorAlIb (imm : Byte) (s : State) : Host.Outcome State Fault Refusal := run false (aluAccImm .xor .b8 imm) s

/-- XOR eAX,Iv (43_logical.md R474). -/
def execXorEaxIv (imm : Word32) (s : State) : Host.Outcome State Fault Refusal :=
  run false (aluAccImm .xor s.opw (imm.setWidth _)) s

/-- XOR Eb,Ib (43_logical.md R474). -/
def execXorEbIb (rm : RM) (imm : Byte) (s : State) : Host.Outcome State Fault Refusal :=
  run (isMem rm) (aluRmImm .xor .b8 rm imm) s

/-- XOR Ev,Iv (43_logical.md R474). -/
def execXorEvIv (rm : RM) (imm : Word32) (s : State) : Host.Outcome State Fault Refusal :=
  run (isMem rm) (aluRmImm .xor s.opw rm (imm.setWidth _)) s

/-- XOR Ev,Ib (43_logical.md R474). -/
def execXorEvIb (rm : RM) (imm : Byte) (s : State) : Host.Outcome State Fault Refusal :=
  run (isMem rm) (aluRmImm .xor s.opw rm (imm.signExtend _)) s

/-- CMP Eb,Gb (R437). -/
def execCmpEbGb (rm : RM) (r : Reg) (s : State) : Host.Outcome State Fault Refusal :=
  run false (aluRmReg .cmp .b8 rm r) s

/-- CMP Ev,Gv (R437). -/
def execCmpEvGv (rm : RM) (r : Reg) (s : State) : Host.Outcome State Fault Refusal :=
  run false (aluRmReg .cmp s.opw rm r) s

/-- CMP Gb,Eb (R437). -/
def execCmpGbEb (r : Reg) (rm : RM) (s : State) : Host.Outcome State Fault Refusal :=
  run false (aluRegRm .cmp .b8 r rm) s

/-- CMP Gv,Ev (R437). -/
def execCmpGvEv (r : Reg) (rm : RM) (s : State) : Host.Outcome State Fault Refusal :=
  run false (aluRegRm .cmp s.opw r rm) s

/-- CMP AL,Ib (R437). -/
def execCmpAlIb (imm : Byte) (s : State) : Host.Outcome State Fault Refusal := run false (aluAccImm .cmp .b8 imm) s

/-- CMP eAX,Iv (R437). -/
def execCmpEaxIv (imm : Word32) (s : State) : Host.Outcome State Fault Refusal :=
  run false (aluAccImm .cmp s.opw (imm.setWidth _)) s

/-- CMP Eb,Ib (R437). -/
def execCmpEbIb (rm : RM) (imm : Byte) (s : State) : Host.Outcome State Fault Refusal :=
  run false (aluRmImm .cmp .b8 rm imm) s

/-- CMP Ev,Iv (R437). -/
def execCmpEvIv (rm : RM) (imm : Word32) (s : State) : Host.Outcome State Fault Refusal :=
  run false (aluRmImm .cmp s.opw rm (imm.setWidth _)) s

/-- CMP Ev,Ib (R437). -/
def execCmpEvIb (rm : RM) (imm : Byte) (s : State) : Host.Outcome State Fault Refusal :=
  run false (aluRmImm .cmp s.opw rm (imm.signExtend _)) s

/-- INC rv (R433). -/
def execIncRv (r : Reg) (s : State) : Host.Outcome State Fault Refusal := run false (increment s.opw (.reg r)) s

/-- DEC rv (R436). -/
def execDecRv (r : Reg) (s : State) : Host.Outcome State Fault Refusal := run false (decrement s.opw (.reg r)) s

/-- IMUL Gv,Ev,Iv (R441). -/
def execImulGvEvIv (r : Reg) (rm : RM) (imm : Word32) (s : State) : Host.Outcome State Fault Refusal :=
  run false (multiplyImm s.opw r rm (imm.setWidth _)) s

/-- IMUL Gv,Ev,Ib (R441). -/
def execImulGvEvIb (r : Reg) (rm : RM) (imm : Byte) (s : State) : Host.Outcome State Fault Refusal :=
  run false (multiplyImm s.opw r rm (imm.signExtend _)) s

/-- NEG Eb (R438). -/
def execNegEb (rm : RM) (s : State) : Host.Outcome State Fault Refusal := run (isMem rm) (negate .b8 rm) s

/-- NEG Ev (R438). -/
def execNegEv (rm : RM) (s : State) : Host.Outcome State Fault Refusal := run (isMem rm) (negate s.opw rm) s

/-- MUL Eb (R439). -/
def execMulEb (rm : RM) (s : State) : Host.Outcome State Fault Refusal := run false (multiply .b8 rm) s

/-- MUL Ev (R439). -/
def execMulEv (rm : RM) (s : State) : Host.Outcome State Fault Refusal := run false (multiply s.opw rm) s

/-- IMUL Eb (R440). -/
def execImulEb (rm : RM) (s : State) : Host.Outcome State Fault Refusal := run false (multiplySigned .b8 rm) s

/-- IMUL Ev (R440). -/
def execImulEv (rm : RM) (s : State) : Host.Outcome State Fault Refusal := run false (multiplySigned s.opw rm) s

/-- DIV Eb (R442). -/
def execDivEb (rm : RM) (s : State) : Host.Outcome State Fault Refusal := run false (divide .b8 rm) s

/-- DIV Ev (R442). -/
def execDivEv (rm : RM) (s : State) : Host.Outcome State Fault Refusal := run false (divide s.opw rm) s

/-- IDIV Eb (R443). -/
def execIdivEb (rm : RM) (s : State) : Host.Outcome State Fault Refusal := run false (divideSigned .b8 rm) s

/-- IDIV Ev (R443). -/
def execIdivEv (rm : RM) (s : State) : Host.Outcome State Fault Refusal := run false (divideSigned s.opw rm) s

/-- INC Eb (R433). -/
def execIncEb (rm : RM) (s : State) : Host.Outcome State Fault Refusal := run (isMem rm) (increment .b8 rm) s

/-- DEC Eb (R436). -/
def execDecEb (rm : RM) (s : State) : Host.Outcome State Fault Refusal := run (isMem rm) (decrement .b8 rm) s

/-- INC Ev (R433). -/
def execIncEv (rm : RM) (s : State) : Host.Outcome State Fault Refusal := run (isMem rm) (increment s.opw rm) s

/-- DEC Ev (R436). -/
def execDecEv (rm : RM) (s : State) : Host.Outcome State Fault Refusal := run (isMem rm) (decrement s.opw rm) s

/-- IMUL Gv,Ev (R441). -/
def execImulGvEv (r : Reg) (rm : RM) (s : State) : Host.Outcome State Fault Refusal :=
  run false (multiplyReg s.opw r rm) s

end Sys2Proof.Machine
end

