-- ==== Sys2Proof/Machine/BlockFlag.lean ====
section
/-! DEFINITION. BlockFlag.lean: ENTER, LEAVE and the flag instructions (46_block_flag.md R590 to R608). -/

namespace Sys2Proof.Machine

/-- Copy `k` pointers of the previous display (R590): (E)BP goes down, and what it points at is pushed. -/
def copyDisplay (w : Width) (k : Nat) : M Unit :=
  match k with
  | 0 => pure ()
  | k + 1 => do
    modify fun s =>
      { s with regs := { s.regs with ebp := match s.stackSize with
                                            | .s16 => setLow16 s.regs.ebp ((s.regs.ebp - distOf w).extractLsb' 0 16)
                                            | .s32 => s.regs.ebp - distOf w } }
    let s ← get
    let v ← segRead w .ss (stackOff s.stackSize s.regs.ebp)
    push w v
    copyDisplay w k

/-- ENTER (R590); the level counts modulo 32. A fault part-way keeps (E)SP and (E)BP as changed so far
(93_implementation_defined.md U10; log 45). Where OpSize is 32 and the stack pointer SP, the upper half of the frame
pointer is zero (DESIGN CHOICE, log 46). -/
def enterFrame (w : Width) (size : Word16) (level : Byte) : M Unit := partway do
  let bp ← getReg w .ebp
  push w bp
  let s ← get
  let frame := s.stackAt 0
  let k := level.toNat % 32
  if k = 0 then pure ()
  else do
    copyDisplay w (k - 1)
    push w (frame.setWidth w.bits)
  setReg w .ebp (frame.setWidth w.bits)
  modify fun t => t.moveSP (-size.setWidth 32)

/-- LEAVE (R591). -/
def leaveFrame (w : Width) : M Unit := do
  modify fun s => { s with regs := s.regs.setSP s.stackSize s.regs.ebp }
  let v ← pop w
  setReg w .ebp v

/-- PUSHF and PUSHFD (R607): RF and VM are pushed as 0. -/
def pushFlags (w : Width) : M Unit := do
  let s ← get
  push w ((s.flags.image &&& 0xFFFCFFFF).setWidth w.bits)

/-- POPF and POPFD (R608): RF and VM stay. -/
def popFlags (w : Width) : M Unit := do
  let v ← pop w
  modify fun s => { s with flags := s.flags.load (v.setWidth 32) .s16 s.cpl, cur := { s.cur with keepRf := true } }

/-- LAHF (R605). -/
def flagsToAh : M Unit := do
  let s ← get
  setReg .b8 .esp (s.flags.image.extractLsb' 0 8)

/-- SAHF (R606). -/
def ahToFlags : M Unit := do
  let v ← getReg .b8 .esp
  setFlags fun f => { f with sf := v.getLsbD 7, zf := v.getLsbD 6, af := v.getLsbD 4, pf := v.getLsbD 2, cf := v.getLsbD 0 }

/-! ## The instructions -/

/-- PUSHF (R607). -/
def execPushf (s : State) : Host.Outcome State Fault Refusal := run false (pushFlags .b16) s

/-- PUSHFD (R607). -/
def execPushfd (s : State) : Host.Outcome State Fault Refusal := run false (pushFlags .b32) s

/-- POPF (R608). -/
def execPopf (s : State) : Host.Outcome State Fault Refusal := run false (popFlags .b16) s

/-- POPFD (R608). -/
def execPopfd (s : State) : Host.Outcome State Fault Refusal := run false (popFlags .b32) s

/-- SAHF (R606). -/
def execSahf (s : State) : Host.Outcome State Fault Refusal := run false ahToFlags s

/-- LAHF (R605). -/
def execLahf (s : State) : Host.Outcome State Fault Refusal := run false flagsToAh s

/-- ENTER Iw,Ib (R590). -/
def execEnterIwIb (size : Word16) (level : Byte) (s : State) : Host.Outcome State Fault Refusal :=
  run false (enterFrame s.opw size level) s

/-- LEAVE (R591). -/
def execLeave (s : State) : Host.Outcome State Fault Refusal := run false (leaveFrame s.opw) s

/-- CMC (R602). -/
def execCmc (s : State) : Host.Outcome State Fault Refusal := run false (setFlags fun f => { f with cf := !f.cf }) s

/-- CLC (R601). -/
def execClc (s : State) : Host.Outcome State Fault Refusal := run false (setFlags fun f => { f with cf := false }) s

/-- STC (R600). -/
def execStc (s : State) : Host.Outcome State Fault Refusal := run false (setFlags fun f => { f with cf := true }) s

/-- CLD (R603). -/
def execCld (s : State) : Host.Outcome State Fault Refusal := run false (setFlags fun f => { f with df := false }) s

/-- STD (R604). -/
def execStd (s : State) : Host.Outcome State Fault Refusal := run false (setFlags fun f => { f with df := true }) s

end Sys2Proof.Machine
end

