-- ==== Sys2Proof/Machine/DataMove.lean ====
section
/-! DEFINITION. DataMove.lean: data movement, stack and conversion instructions (40_data_movement.md R400 to R414). -/

namespace Sys2Proof.Machine

/-- MOV r/m, r (R401). -/
def movStore (w : Width) (rm : RM) (r : Reg) : M Unit := do
  let v ← getReg w r
  writeRM w rm v

/-- MOV r, r/m (R401). -/
def movLoad (w : Width) (r : Reg) (rm : RM) : M Unit := do
  let v ← readRM w rm
  setReg w r v

/-- MOV accumulator, moffs (R401; 30_encoding.md R328). -/
def movFromOffset (w : Width) (off : Word32) : M Unit := do
  let s ← get
  let v ← segRead w (s.segOr .ds) off
  setReg w .eax v

/-- MOV moffs, accumulator (R401; 30_encoding.md R328). -/
def movToOffset (w : Width) (off : Word32) : M Unit := do
  let s ← get
  let v ← getReg w .eax
  segWrite w (s.segOr .ds) off v

/-- XCHG r/m, r (R402): write permission is checked before the read; with memory LOCK# is asserted, prefix or not
(20_memory.md R128). -/
def exchange (w : Width) (rm : RM) (r : Reg) : M Unit := do
  let l ← locate w rm true true
  let v ← getReg w r
  let t ← lockedIf (isMem rm) do
    let t ← readLoc w l
    writeLoc w l v
    return t
  setReg w r t

/-- PUSH of a general register, read before ESP changes (R403). -/
def pushReg (w : Width) (r : Reg) : M Unit := do
  let v ← getReg w r
  push w v

/-- PUSH r/m (R403). -/
def pushRM (w : Width) (rm : RM) : M Unit := do
  let v ← readRM w rm
  push w v

/-- PUSH Sreg (R404): a 32-bit slot has a zero upper half. -/
def pushSeg (w : Width) (r : SReg) : M Unit := do
  let s ← get
  push w ((s.seg r).sel.setWidth w.bits)

/-- Push values in order. -/
def pushAll (w : Width) (vs : List (Val w)) : M Unit :=
  match vs with
  | [] => pure ()
  | v :: rest => do
    push w v
    pushAll w rest

/-- PUSHA and PUSHAD (R405): a fault part-way keeps what was pushed (93_implementation_defined.md U10; log 45). -/
def pushAllRegs (w : Width) : M Unit := do
  let s ← get
  let g := s.regs
  probePushes w 8
  partway <| pushAll w [g.read w .eax, g.read w .ecx, g.read w .edx, g.read w .ebx, g.read w .esp, g.read w .ebp, g.read w .esi,
    g.read w .edi]

/-- POP r (R406): the value is written after the increment. -/
def popReg (w : Width) (r : Reg) : M Unit := do
  let v ← pop w
  setReg w r v

/-- POP r/m (R406): the address is computed after the increment. -/
def popRM (w : Width) (rm : RM) : M Unit := do
  let v ← pop w
  writeRM w rm v

/-- POPA and POPAD (R408): the saved ESP is skipped, and all eight slots are read before a register changes. -/
def popAllRegs (w : Width) : M Unit := do
  let di ← pop w
  let si ← pop w
  let bp ← pop w
  let _ ← pop w
  let bx ← pop w
  let dx ← pop w
  let cx ← pop w
  let ax ← pop w
  setReg w .edi di
  setReg w .esi si
  setReg w .ebp bp
  setReg w .ebx bx
  setReg w .edx dx
  setReg w .ecx cx
  setReg w .eax ax

/-- CBW (R409). -/
def convertByte : M Unit := do
  let v ← getReg .b8 .eax
  setReg .b16 .eax (v.signExtend 16)

/-- CWDE (R410). -/
def convertWord : M Unit := do
  let v ← getReg .b16 .eax
  setReg .b32 .eax (v.signExtend 32)

/-- CWD and CDQ (R411, R412): the sign of the accumulator throughout (E)DX. -/
def spreadSign (w : Width) : M Unit := do
  let v ← getReg w .eax
  setReg w .edx (if v.msb then BitVec.allOnes w.bits else 0)

/-- MOVSX (R413): a source of width `v`, sign-extended to `w`. -/
def moveSigned (w v : Width) (r : Reg) (rm : RM) : M Unit := do
  let x ← readRM v rm
  setReg w r (x.signExtend w.bits)

/-- MOVZX (R414): a source of width `v`, zero-extended to `w`. -/
def moveZero (w v : Width) (r : Reg) (rm : RM) : M Unit := do
  let x ← readRM v rm
  setReg w r (x.setWidth w.bits)

/-! ## The instructions -/

/-- PUSH_ES Sreg (R404). -/
def execPushEs (s : State) : Host.Outcome State Fault Refusal := run false (pushSeg s.opw .es) s

/-- PUSH_CS Sreg (R404). -/
def execPushCs (s : State) : Host.Outcome State Fault Refusal := run false (pushSeg s.opw .cs) s

/-- PUSH_SS Sreg (R404). -/
def execPushSs (s : State) : Host.Outcome State Fault Refusal := run false (pushSeg s.opw .ss) s

/-- PUSH_DS Sreg (R404). -/
def execPushDs (s : State) : Host.Outcome State Fault Refusal := run false (pushSeg s.opw .ds) s

/-- PUSH_FS Sreg (R404). -/
def execPushFs (s : State) : Host.Outcome State Fault Refusal := run false (pushSeg s.opw .fs) s

/-- PUSH_GS Sreg (R404). -/
def execPushGs (s : State) : Host.Outcome State Fault Refusal := run false (pushSeg s.opw .gs) s

/-- PUSH rv (R403). -/
def execPushRv (r : Reg) (s : State) : Host.Outcome State Fault Refusal := run false (pushReg s.opw r) s

/-- POP rv (R406). -/
def execPopRv (r : Reg) (s : State) : Host.Outcome State Fault Refusal := run false (popReg s.opw r) s

/-- PUSHA (R405). -/
def execPusha (s : State) : Host.Outcome State Fault Refusal := run false (pushAllRegs .b16) s

/-- PUSHAD (R405). -/
def execPushad (s : State) : Host.Outcome State Fault Refusal := run false (pushAllRegs .b32) s

/-- POPA (R408). -/
def execPopa (s : State) : Host.Outcome State Fault Refusal := run false (popAllRegs .b16) s

/-- POPAD (R408). -/
def execPopad (s : State) : Host.Outcome State Fault Refusal := run false (popAllRegs .b32) s

/-- PUSH Iv (R403). -/
def execPushIv (imm : Word32) (s : State) : Host.Outcome State Fault Refusal :=
  run false (push s.opw (imm.setWidth _)) s

/-- PUSH Ib (R403). -/
def execPushIb (imm : Byte) (s : State) : Host.Outcome State Fault Refusal :=
  run false (push s.opw (imm.signExtend _)) s

/-- XCHG Eb,Gb (R402). -/
def execXchgEbGb (rm : RM) (r : Reg) (s : State) : Host.Outcome State Fault Refusal :=
  run (isMem rm) (exchange .b8 rm r) s

/-- XCHG Ev,Gv (R402). -/
def execXchgEvGv (rm : RM) (r : Reg) (s : State) : Host.Outcome State Fault Refusal :=
  run (isMem rm) (exchange s.opw rm r) s

/-- MOV Eb,Gb (R401). -/
def execMovEbGb (rm : RM) (r : Reg) (s : State) : Host.Outcome State Fault Refusal := run false (movStore .b8 rm r) s

/-- MOV Ev,Gv (R401). -/
def execMovEvGv (rm : RM) (r : Reg) (s : State) : Host.Outcome State Fault Refusal :=
  run false (movStore s.opw rm r) s

/-- MOV Gb,Eb (R401). -/
def execMovGbEb (r : Reg) (rm : RM) (s : State) : Host.Outcome State Fault Refusal := run false (movLoad .b8 r rm) s

/-- MOV Gv,Ev (R401). -/
def execMovGvEv (r : Reg) (rm : RM) (s : State) : Host.Outcome State Fault Refusal := run false (movLoad s.opw r rm) s

/-- POP Ev (R406). -/
def execPopEv (rm : RM) (s : State) : Host.Outcome State Fault Refusal := run false (popRM s.opw rm) s

/-- XCHG eAX,rv (R402). -/
def execXchgEaxEcx (s : State) : Host.Outcome State Fault Refusal := run false (exchange s.opw (.reg .ecx) .eax) s

/-- XCHG eAX,rv (R402). -/
def execXchgEaxEdx (s : State) : Host.Outcome State Fault Refusal := run false (exchange s.opw (.reg .edx) .eax) s

/-- XCHG eAX,rv (R402). -/
def execXchgEaxEbx (s : State) : Host.Outcome State Fault Refusal := run false (exchange s.opw (.reg .ebx) .eax) s

/-- XCHG eAX,rv (R402). -/
def execXchgEaxEsp (s : State) : Host.Outcome State Fault Refusal := run false (exchange s.opw (.reg .esp) .eax) s

/-- XCHG eAX,rv (R402). -/
def execXchgEaxEbp (s : State) : Host.Outcome State Fault Refusal := run false (exchange s.opw (.reg .ebp) .eax) s

/-- XCHG eAX,rv (R402). -/
def execXchgEaxEsi (s : State) : Host.Outcome State Fault Refusal := run false (exchange s.opw (.reg .esi) .eax) s

/-- XCHG eAX,rv (R402). -/
def execXchgEaxEdi (s : State) : Host.Outcome State Fault Refusal := run false (exchange s.opw (.reg .edi) .eax) s

/-- CBW (R409). -/
def execCbw (s : State) : Host.Outcome State Fault Refusal := run false convertByte s

/-- CWDE (R410). -/
def execCwde (s : State) : Host.Outcome State Fault Refusal := run false convertWord s

/-- CWD (R411). -/
def execCwd (s : State) : Host.Outcome State Fault Refusal := run false (spreadSign .b16) s

/-- CDQ (R412). -/
def execCdq (s : State) : Host.Outcome State Fault Refusal := run false (spreadSign .b32) s

/-- MOV AL,Ob (R401). -/
def execMovAlOb (off : Word32) (s : State) : Host.Outcome State Fault Refusal := run false (movFromOffset .b8 off) s

/-- MOV eAX,Ov (R401). -/
def execMovEaxOv (off : Word32) (s : State) : Host.Outcome State Fault Refusal :=
  run false (movFromOffset s.opw off) s

/-- MOV Ob,AL (R401). -/
def execMovObAl (off : Word32) (s : State) : Host.Outcome State Fault Refusal := run false (movToOffset .b8 off) s

/-- MOV Ov,eAX (R401). -/
def execMovOvEax (off : Word32) (s : State) : Host.Outcome State Fault Refusal := run false (movToOffset s.opw off) s

/-- MOV r8,Ib (R401). -/
def execMovR8Ib (r : Reg) (imm : Byte) (s : State) : Host.Outcome State Fault Refusal :=
  run false (setReg .b8 r imm) s

/-- MOV rv,Iv (R401). -/
def execMovRvIv (r : Reg) (imm : Word32) (s : State) : Host.Outcome State Fault Refusal :=
  run false (setReg s.opw r (imm.setWidth _)) s

/-- MOV Eb,Ib (R401). -/
def execMovEbIb (rm : RM) (imm : Byte) (s : State) : Host.Outcome State Fault Refusal :=
  run false (writeRM .b8 rm imm) s

/-- MOV Ev,Iv (R401). -/
def execMovEvIv (rm : RM) (imm : Word32) (s : State) : Host.Outcome State Fault Refusal :=
  run false (writeRM s.opw rm (imm.setWidth _)) s

/-- PUSH Ev (R403). -/
def execPushEv (rm : RM) (s : State) : Host.Outcome State Fault Refusal := run false (pushRM s.opw rm) s

/-- MOVZX Gv,Eb (R414). -/
def execMovzxGvEb (r : Reg) (rm : RM) (s : State) : Host.Outcome State Fault Refusal :=
  run false (moveZero s.opw .b8 r rm) s

/-- MOVZX Gv,Ew (R414). -/
def execMovzxGvEw (r : Reg) (rm : RM) (s : State) : Host.Outcome State Fault Refusal :=
  run false (moveZero s.opw .b16 r rm) s

/-- MOVSX Gv,Eb (R413). -/
def execMovsxGvEb (r : Reg) (rm : RM) (s : State) : Host.Outcome State Fault Refusal :=
  run false (moveSigned s.opw .b8 r rm) s

/-- MOVSX Gv,Ew (R413). -/
def execMovsxGvEw (r : Reg) (rm : RM) (s : State) : Host.Outcome State Fault Refusal :=
  run false (moveSigned s.opw .b16 r rm) s

end Sys2Proof.Machine
end

