-- ==== Sys2Proof/Machine/Control.lean ====
section
/-! DEFINITION. Control.lean: jumps, calls, returns, conditional transfers, loops and software interrupts
(44_control_transfer.md R520 to R553). -/

namespace Sys2Proof.Machine

/-! ## Near transfers -/

/-- A target cut to 16 bits when OpSize is 16 (R521). -/
def cutTarget (sz : Size) (t : Word32) : Word32 :=
  match sz with
  | .s16 => t &&& 0xFFFF
  | .s32 => t

/-- The target is inside the code segment (R521; 21_translation_protection.md R190). -/
def State.targetOk (s : State) (t : Word32) : Bool := decide (t.toNat ≤ s.cs.limit.toNat)

/-- Transfer to a target in the current code segment (R521, R522). -/
def jumpNear (t : Word32) : M Unit := do
  let s ← get
  require (s.targetOk (cutTarget s.cur.opSize t)) gp0
  jump (cutTarget s.cur.opSize t)

/-- The target of a relative transfer (R520). -/
def State.relTarget (s : State) (rel : Word32) : Word32 := s.nextIp + rel

/-- A displacement of OpSize bits held in 32, sign-extended (30_encoding.md R329). -/
def relWord (sz : Size) (v : Word32) : Word32 :=
  match sz with
  | .s16 => (v.setWidth 16).signExtend 32
  | .s32 => v

/-- JMP rel (R522). -/
def jumpRel (rel : Word32) : M Unit := do
  let s ← get
  jumpNear (s.relTarget rel)

/-- JMP r/m (R522). -/
def jumpIndirect (w : Width) (rm : RM) : M Unit := do
  let t ← readRM w rm
  jumpNear (t.setWidth 32)

/-- Push the return offset and transfer (R524): the target is checked before the push. -/
def callNear (w : Width) (t : Word32) : M Unit := do
  let s ← get
  let target := cutTarget s.cur.opSize t
  require (s.targetOk target) gp0
  push w (s.nextIp.setWidth w.bits)
  jump target

/-- CALL rel (R524). -/
def callRel (w : Width) (rel : Word32) : M Unit := do
  let s ← get
  callNear w (s.relTarget rel)

/-- CALL r/m (R524). -/
def callIndirect (w : Width) (rm : RM) : M Unit := do
  let t ← readRM w rm
  callNear w (t.setWidth 32)

/-- RET near (R535). -/
def returnNear (w : Width) (extra : Word16) : M Unit := do
  let v ← stackRead w 0
  let s ← get
  let t : Word32 := v.setWidth 32
  require (s.targetOk t) gp0
  modify fun u => u.moveSP (distOf w + extra.setWidth 32)
  jump t

/-! ## Far transfers -/

/-- JMP or CALL (R526). -/
inductive FarKind where
  | jmp | call
  deriving DecidableEq, Repr

/-- The kind of task switch a far transfer makes (22_multitasking.md R262). -/
def FarKind.task : FarKind → TaskKind
  | .jmp => .jmp
  | .call => .call

/-- The privilege condition of a direct far transfer (R527; 21_translation_protection.md R191). -/
def Desc.directOk (d : Desc) (cpl : BitVec 2) (sel : Word16) : Bool :=
  if d.attr.conforming then decide (d.dpl ≤ cpl) else d.dpl == cpl && decide (rpl sel ≤ cpl)

/-- Push CS and the return offset on the current stack (R527). -/
def pushReturn (w : Width) : M Unit := do
  let s ← get
  probePushes w 2
  push w (s.cs.sel.setWidth w.bits)
  push w (s.nextIp.setWidth w.bits)

/-- A far transfer to a checked code segment at the same privilege level (R527, from the room check on). -/
def farSame (k : FarKind) (w : Width) (sel : Word16) (d : Desc) (off : Word32) : M Unit := do
  let s ← get
  if k = .call then require (stackRoom true s.ss s.regs.esp w 2) ss0
  require (decide (off.toNat ≤ d.limit.toNat)) gp0
  if k = .call then pushReturn w
  enterCode sel d off

/-- A direct far transfer to a code segment (R527). -/
def farCode (k : FarKind) (w : Width) (sel : Word16) (d : Desc) (off : Word32) : M Unit := do
  let s ← get
  require (d.directOk s.cpl sel) (gpFault sel)
  require d.present (npFault sel)
  farSame k w sel d (cutTarget s.cur.opSize off)

/-- Access to a gate or TSS descriptor: CPL and RPL at most its DPL (R528, R530). -/
def Desc.gateOk (d : Desc) (cpl : BitVec 2) (sel : Word16) : Bool := decide (cpl ≤ d.dpl) && decide (rpl sel ≤ d.dpl)

/-- The target of a call gate, checked up to its type (R528, R529). -/
def gateTarget (sel : Word16) (g : Desc) : M Desc := do
  let s ← get
  require (g.gateOk s.cpl sel) (gpFault sel)
  require g.present (npFault sel)
  require (!selNull g.gateSel) gp0
  let c ← readDesc g.gateSel (gpFault g.gateSel)
  require c.attr.code (gpFault g.gateSel)
  return c

/-- JMP through a call gate (R528): EIP takes the whole offset of the gate, whatever OpSize is (DESIGN CHOICE, log 23).
-/
def jumpGate (sel : Word16) (g : Desc) : M Unit := do
  let c ← gateTarget sel g
  let s ← get
  require (if c.attr.conforming then decide (c.dpl ≤ s.cpl) else c.dpl == s.cpl) (gpFault g.gateSel)
  require c.present (npFault g.gateSel)
  require (decide (g.gateOff.toNat ≤ c.limit.toNat)) gp0
  enterCode g.gateSel c g.gateOff

/-- The `n` doublewords at the top of the stack, the lowest first (R529; 21_translation_protection.md R197). Where the
stack pointer is SP, the offset of each is cut to 16 bits, so that parameters that run past FFFFH go on at offset 0
(DESIGN CHOICE, log 42). -/
def readParams (n : Nat) (at' : Word32) : M (List Word32) :=
  match n with
  | 0 => return []
  | n + 1 => do
    let v ← stackRead .b32 at'
    let rest ← readParams n (at' + 4)
    return v :: rest

/-- Push doublewords in order, at supervisor level. -/
def pushAllSystem (vs : List Word32) : M Unit :=
  match vs with
  | [] => pure ()
  | v :: rest => do
    pushSystem .b32 v
    pushAllSystem rest

/-- CALL through a call gate to an inner level (R529): the pushes on the new stack are at supervisor level (20_memory.md
R132), and a fault among them keeps that stack (93_implementation_defined.md U10). -/
def callInner (g c : Desc) : M Unit := do
  let s ← get
  let (nss, nesp, d) ← innerStack c.dpl
  require (stackRoom true (d.seg nss) nesp .b32 (4 + g.gateCount)) ss0
  require (decide (g.gateOff.toNat ≤ c.limit.toNat)) gp0
  let params ← readParams g.gateCount 0
  enterInner c.dpl nss nesp d
  partway do
    pushSystem .b32 (s.ss.sel.setWidth 32)
    pushSystem .b32 s.regs.esp
    pushAllSystem params.reverse
    pushSystem .b32 (s.cs.sel.setWidth 32)
    pushSystem .b32 s.nextIp
    enterCode g.gateSel c g.gateOff

/-- CALL through a call gate (R529): at the same level it is a CALL of R527, else it goes to an inner level; an 80386 gate
makes every push 32 bits wide, and EIP takes its whole offset, whatever OpSize is (DESIGN CHOICE, log 23). -/
def callGate (sel : Word16) (g : Desc) : M Unit := do
  let c ← gateTarget sel g
  let s ← get
  require (decide (c.dpl ≤ s.cpl)) (gpFault g.gateSel)
  require c.present (npFault g.gateSel)
  if c.attr.conforming || c.dpl == s.cpl then farSame .call .b32 g.gateSel c g.gateOff
  else callInner g c

/-- A far transfer to a task (R530). -/
def farTask (k : FarKind) (sel : Word16) : M Unit := do
  let s ← get
  let t ← taskSwitch sel k.task s.nextIp
  finishTask t

/-- `FarTransfer(kind, sel, off)` in protected mode (R526). -/
def farProtected (k : FarKind) (w : Width) (sel : Word16) (off : Word32) : M Unit := do
  let s ← get
  require (!selNull sel) gp0
  let d ← readDesc sel (gpFault sel)
  if d.attr.code then farCode k w sel d off
  else if d.isSys 0xC then
    match k with
    | .jmp => jumpGate sel d
    | .call => callGate sel d
  else if d.isSys 9 then do
    require (d.gateOk s.cpl sel) (gpFault sel)
    farTask k sel
  else if d.isSys 5 then do
    require (d.gateOk s.cpl sel) (gpFault sel)
    require d.present (npFault sel)
    farTask k d.gateSel
  else if d.isSys 4 || d.tss286 then refuse .desc286
  else raise (gpFault sel)

/-- Far JMP and CALL in real-address mode (R531). -/
def farReal (k : FarKind) (w : Width) (sel : Word16) (off : Word32) : M Unit := do
  let s ← get
  let t := cutTarget s.cur.opSize off
  require (s.targetOk t) gp0
  if k = .call then pushReturn w
  enterRealCode sel t

/-- Far JMP and CALL (R523, R525). -/
def farTransfer (k : FarKind) (w : Width) (sel : Word16) (off : Word32) : M Unit := do
  let s ← get
  if s.cr0.pe then farProtected k w sel off else farReal k w sel off

/-- Far JMP and CALL through memory: the selector is above the offset, at `partOff` (R523, R525; log 54). The offset is
read before the selector (DESIGN CHOICE, log 57: the rules give no order). -/
def farIndirect (k : FarKind) (w : Width) (m : Mem) : M Unit := do
  let s ← get
  let r := s.segOr (defaultSeg m)
  let ea := effAddr s.regs m
  let off ← segRead w r ea
  let sel ← segRead .b16 r (partOff ea (distOf w))
  farTransfer k w sel (off.setWidth 32)

/-- RET far in real-address mode (R536). -/
def returnFarReal (w : Width) (extra : Word16) : M Unit := do
  let ip ← pop w
  let sel ← pop w
  let s ← get
  let t : Word32 := ip.setWidth 32
  require (s.targetOk t) gp0
  enterRealCode (sel.setWidth 16) t
  modify fun u => u.moveSP (extra.setWidth 32)

/-- RET far in protected mode (R536, R537). -/
def returnFarProtected (w : Width) (extra : Word16) : M Unit := do
  let s ← get
  let n := distOf w
  let x : Word32 := extra.setWidth 32
  require (stackHolds s 0 w 2) ss0
  let ip ← stackRead w 0
  let csel ← stackRead .b16 n
  let off : Word32 := ip.setWidth 32
  let c ← checkReturnCode csel
  if s.cpl < rpl csel then do
    require (stackHolds s (2 * n + x) w 2) ss0
    let nesp ← stackRead w (2 * n + x)
    let nss ← stackRead .b16 (3 * n + x)
    let d ← checkReturnStack nss (rpl csel)
    require (decide (off.toNat ≤ c.limit.toNat)) gp0
    returnCode csel c off
    leaveInner nss d (nesp.setWidth 32 + x)
  else do
    require (decide (off.toNat ≤ c.limit.toNat)) gp0
    returnCode csel c off
    modify fun u => u.moveSP (2 * n + x)

/-- RET far (R536). -/
def returnFar (w : Width) (extra : Word16) : M Unit := do
  let s ← get
  if s.cr0.pe then returnFarProtected w extra else returnFarReal w extra

/-! ## Conditional transfers -/

/-- The displacement of a conditional jump (30_encoding.md R329). -/
def relOf (sz : Size) (d : RelDisp) : Word32 :=
  match d with
  | .short v => v.signExtend 32
  | .near v => relWord sz v

/-- Jcc (R540). -/
def jumpIf (c : Cond) (d : RelDisp) : M Unit := do
  let s ← get
  if c.holds s.flags then jumpRel (relOf s.cur.opSize d) else pure ()

/-- LOOP, LOOPE and LOOPNE (R541 to R543): the count of AddrSize bits is decremented, and the jump is taken when it is
not zero and the condition on ZF holds. -/
def loopWhile (ok : Bool → Bool) (imm : Byte) : M Unit := do
  let s ← get
  let w := s.cur.addrSize.width
  let n := s.regs.read w .ecx - 1
  setReg w .ecx n
  if n ≠ 0 ∧ ok s.flags.zf = true then jumpRel (imm.signExtend 32) else pure ()

/-- JCXZ and JECXZ (R544). -/
def jumpIfZero (w : Width) (imm : Byte) : M Unit := do
  let n ← getReg w .ecx
  if n = 0 then jumpRel (imm.signExtend 32) else pure ()

/-! ## Software interrupts -/

/-- INTO (R552). -/
def interruptOnOverflow : M Unit := do
  let s ← get
  if s.flags.ov then softInterrupt 4 else pure ()

/-- BOUND (R553); the upper bound is at `partOff` (log 54). -/
def checkBounds (w : Width) (r : Reg) (m : Mem) : M Unit := do
  let s ← get
  let sr := s.segOr (defaultSeg m)
  let ea := effAddr s.regs m
  let lo ← segRead w sr ea
  let hi ← segRead w sr (partOff ea (distOf w))
  let v ← getReg w r
  require (decide (lo.toInt ≤ v.toInt) && decide (v.toInt ≤ hi.toInt)) br

/-! ## The instructions -/

/-- BOUND Gv,Ma (R553). -/
def execBoundGvMa (r : Reg) (m : Mem) (s : State) : Host.Outcome State Fault Refusal :=
  run false (checkBounds s.opw r m) s

/-- JO Jb / JO Jv (R540). -/
def execJo (disp : RelDisp) (s : State) : Host.Outcome State Fault Refusal := run false (jumpIf .o disp) s

/-- JNO Jb / JNO Jv (R540). -/
def execJno (disp : RelDisp) (s : State) : Host.Outcome State Fault Refusal := run false (jumpIf .no disp) s

/-- JB Jb / JB Jv (R540). -/
def execJb (disp : RelDisp) (s : State) : Host.Outcome State Fault Refusal := run false (jumpIf .b disp) s

/-- JAE Jb / JAE Jv (R540). -/
def execJae (disp : RelDisp) (s : State) : Host.Outcome State Fault Refusal := run false (jumpIf .ae disp) s

/-- JE Jb / JE Jv (R540). -/
def execJe (disp : RelDisp) (s : State) : Host.Outcome State Fault Refusal := run false (jumpIf .e disp) s

/-- JNE Jb / JNE Jv (R540). -/
def execJne (disp : RelDisp) (s : State) : Host.Outcome State Fault Refusal := run false (jumpIf .ne disp) s

/-- JBE Jb / JBE Jv (R540). -/
def execJbe (disp : RelDisp) (s : State) : Host.Outcome State Fault Refusal := run false (jumpIf .be disp) s

/-- JA Jb / JA Jv (R540). -/
def execJa (disp : RelDisp) (s : State) : Host.Outcome State Fault Refusal := run false (jumpIf .a disp) s

/-- JS Jb / JS Jv (R540). -/
def execJs (disp : RelDisp) (s : State) : Host.Outcome State Fault Refusal := run false (jumpIf .s disp) s

/-- JNS Jb / JNS Jv (R540). -/
def execJns (disp : RelDisp) (s : State) : Host.Outcome State Fault Refusal := run false (jumpIf .ns disp) s

/-- JP Jb / JP Jv (R540). -/
def execJp (disp : RelDisp) (s : State) : Host.Outcome State Fault Refusal := run false (jumpIf .p disp) s

/-- JNP Jb / JNP Jv (R540). -/
def execJnp (disp : RelDisp) (s : State) : Host.Outcome State Fault Refusal := run false (jumpIf .np disp) s

/-- JL Jb / JL Jv (R540). -/
def execJl (disp : RelDisp) (s : State) : Host.Outcome State Fault Refusal := run false (jumpIf .l disp) s

/-- JGE Jb / JGE Jv (R540). -/
def execJge (disp : RelDisp) (s : State) : Host.Outcome State Fault Refusal := run false (jumpIf .ge disp) s

/-- JLE Jb / JLE Jv (R540). -/
def execJle (disp : RelDisp) (s : State) : Host.Outcome State Fault Refusal := run false (jumpIf .le disp) s

/-- JG Jb / JG Jv (R540). -/
def execJg (disp : RelDisp) (s : State) : Host.Outcome State Fault Refusal := run false (jumpIf .g disp) s

/-- CALL Ap (far) (R525). -/
def execCallApFar (off : Word32) (sel : Word16) (s : State) : Host.Outcome State Fault Refusal :=
  run false (farTransfer .call s.opw sel off) s

/-- RET Iw (near) (R535). -/
def execRetIwNear (imm : Word16) (s : State) : Host.Outcome State Fault Refusal := run false (returnNear s.opw imm) s

/-- RET (near) (R535). -/
def execRetNear (s : State) : Host.Outcome State Fault Refusal := run false (returnNear s.opw 0) s

/-- RET Iw (far) (R536). -/
def execRetIwFar (imm : Word16) (s : State) : Host.Outcome State Fault Refusal := run false (returnFar s.opw imm) s

/-- RET (far) (R536). -/
def execRetFar (s : State) : Host.Outcome State Fault Refusal := run false (returnFar s.opw 0) s

/-- INT_3 (R551). -/
def execInt3 (s : State) : Host.Outcome State Fault Refusal := run false (softInterrupt 3) s

/-- INT Ib (R550). -/
def execIntIb (imm : Byte) (s : State) : Host.Outcome State Fault Refusal := run false (softInterrupt imm) s

/-- INTO (R552). -/
def execInto (s : State) : Host.Outcome State Fault Refusal := run false interruptOnOverflow s

/-- IRET (R545). -/
def execIret (s : State) : Host.Outcome State Fault Refusal := run false (interruptReturn .s16) s

/-- IRETD (R545). -/
def execIretd (s : State) : Host.Outcome State Fault Refusal := run false (interruptReturn .s32) s

/-- LOOPNE Jb (R543). -/
def execLoopneJb (imm : Byte) (s : State) : Host.Outcome State Fault Refusal :=
  run false (loopWhile (fun zf => !zf) imm) s

/-- LOOPE Jb (R542). -/
def execLoopeJb (imm : Byte) (s : State) : Host.Outcome State Fault Refusal :=
  run false (loopWhile (fun zf => zf) imm) s

/-- LOOP Jb (R541). -/
def execLoopJb (imm : Byte) (s : State) : Host.Outcome State Fault Refusal :=
  run false (loopWhile (fun _ => true) imm) s

/-- JCXZ Jb (R544). -/
def execJcxzJb (imm : Byte) (s : State) : Host.Outcome State Fault Refusal := run false (jumpIfZero .b16 imm) s

/-- JECXZ Jb (R544). -/
def execJecxzJb (imm : Byte) (s : State) : Host.Outcome State Fault Refusal := run false (jumpIfZero .b32 imm) s

/-- CALL Jv (near) (R524). -/
def execCallJvNear (imm : Word32) (s : State) : Host.Outcome State Fault Refusal :=
  run false (callRel s.opw (relWord s.cur.opSize imm)) s

/-- JMP Jv (near) (R522). -/
def execJmpJvNear (imm : Word32) (s : State) : Host.Outcome State Fault Refusal :=
  run false (jumpRel (relWord s.cur.opSize imm)) s

/-- JMP Ap (far) (R523). -/
def execJmpApFar (off : Word32) (sel : Word16) (s : State) : Host.Outcome State Fault Refusal :=
  run false (farTransfer .jmp s.opw sel off) s

/-- JMP Jb (short) (R522). -/
def execJmpJbShort (imm : Byte) (s : State) : Host.Outcome State Fault Refusal :=
  run false (jumpRel (imm.signExtend 32)) s

/-- CALL Ev (near indirect) (R524). -/
def execCallEvNear (rm : RM) (s : State) : Host.Outcome State Fault Refusal := run false (callIndirect s.opw rm) s

/-- CALL Mp (far indirect) (R525). -/
def execCallMpFar (m : Mem) (s : State) : Host.Outcome State Fault Refusal := run false (farIndirect .call s.opw m) s

/-- JMP Ev (near indirect) (R522). -/
def execJmpEvNear (rm : RM) (s : State) : Host.Outcome State Fault Refusal := run false (jumpIndirect s.opw rm) s

/-- JMP Mp (far indirect) (R523). -/
def execJmpMpFar (m : Mem) (s : State) : Host.Outcome State Fault Refusal := run false (farIndirect .jmp s.opw m) s

end Sys2Proof.Machine
end

