-- ==== Sys2Proof/Machine/Decimal.lean ====
section
/-! DEFINITION. Decimal.lean: the decimal adjustment instructions (42_decimal_arithmetic.md R460 to R466). -/

namespace Sys2Proof.Machine

/-- AL. -/
def getAl : M Byte := getReg .b8 .eax
/-- AH. -/
def getAh : M Byte := getReg .b8 .esp
/-- Write AL. -/
def setAl (v : Byte) : M Unit := setReg .b8 .eax v
/-- Write AH. -/
def setAh (v : Byte) : M Unit := setReg .b8 .esp v

/-- DAA (R461) and DAS (R462), which differ in the adjustment of AL. -/
def adjustPacked (result : Byte → Bool → Bool → Byte) : M Unit := do
  let s ← get
  let al ← getAl
  let r := result al s.flags.cf s.flags.af
  setAl r
  setEffect (packedFlags r al s.flags.cf s.flags.af)

/-- AAA (R463). -/
def adjustAsciiAdd : M Unit := do
  let s ← get
  let al ← getAl
  let ah ← getAh
  let adjust := nibbleAdjust al s.flags.af
  setAl ((if adjust then al + 6 else al) &&& 0x0F)
  setAh (if adjust then ah + 1 else ah)
  setEffect (unpackedFlags adjust)

/-- AAS (R464). -/
def adjustAsciiSub : M Unit := do
  let s ← get
  let al ← getAl
  let ah ← getAh
  let adjust := nibbleAdjust al s.flags.af
  setAl ((if adjust then al - 6 else al) &&& 0x0F)
  setAh (if adjust then ah - 1 else ah)
  setEffect (unpackedFlags adjust)

/-- AAM (R465): a zero immediate raises #DE. -/
def adjustAfterMul (imm : Byte) : M Unit := do
  require (imm != 0) de
  let al ← getAl
  setAh (al / imm)
  setAl (al % imm)
  setEffect (aamFlags (al % imm))

/-- AAD (R466). -/
def adjustBeforeDiv (imm : Byte) : M Unit := do
  let al ← getAl
  let ah ← getAh
  let r := ah * imm + al
  setAl r
  setAh 0
  setEffect (aamFlags r)

/-! ## The instructions -/

/-- DAA (R461). -/
def execDaa (s : State) : Host.Outcome State Fault Refusal := run false (adjustPacked daaResult) s

/-- DAS (R462). -/
def execDas (s : State) : Host.Outcome State Fault Refusal := run false (adjustPacked dasResult) s

/-- AAA (R463). -/
def execAaa (s : State) : Host.Outcome State Fault Refusal := run false adjustAsciiAdd s

/-- AAS (R464). -/
def execAas (s : State) : Host.Outcome State Fault Refusal := run false adjustAsciiSub s

/-- AAM Ib (R465). -/
def execAamIb (imm : Byte) (s : State) : Host.Outcome State Fault Refusal := run false (adjustAfterMul imm) s

/-- AAD Ib (R466). -/
def execAadIb (imm : Byte) (s : State) : Host.Outcome State Fault Refusal := run false (adjustBeforeDiv imm) s

end Sys2Proof.Machine
end

