-- ==== Sys2Proof/Machine/Io.lean ====
section
/-! DEFINITION. Io.lean: the I/O address space, IN and OUT, ESC and WAIT (49_io_coprocessor.md R700 to R716;
20_memory.md R115; 21_translation_protection.md R235, R237). -/

namespace Sys2Proof.Machine

/-- The width of a read of the I/O permission map: one byte, or two with `IO_BITMAP_WORD_READ` (R237; 20_memory.md R107;
92_eei_decisions.md D11). -/
def mapWidth (s : State) : Width := if s.plat.ioBitmapWordRead then .b16 else .b8

/-- The bit of the I/O permission map for one port is readable and clear (R237): every byte read lies inside the limit of
the TSS. -/
def portBitClear (s : State) (base : Nat) (port : Nat) : M Bool := do
  let off := base + port / 8
  if s.tr.limit.toNat < off + ((mapWidth s).bytes - 1) then return false
  else do
    let b ← linRead (mapWidth s) (s.tr.base + BitVec.ofNat 32 off) false
    return !b.getLsbD (port % 8)

/-- The bits of `n` ports, in order, up to the first that is set (R237). -/
def portBitsClear (s : State) (base : Nat) (port n : Nat) : M Bool := do
  match n with
  | 0 => return true
  | n + 1 => do
    let ok ← portBitClear s base port
    if ok then portBitsClear s base (port + 1) n else return false

/-- `IoPermitted(port, n)` (R237). -/
def ioPermitted (port : Word16) (n : Nat) : M Bool := do
  let s ← get
  if !(s.tr.type == 9 || s.tr.type == 0xB) then return false
  else do
    let base ← linRead .b16 (s.tr.base + 0x66) false
    if s.tr.limit.toNat ≤ base.toNat then return false
    else portBitsClear s base.toNat port.toNat n

/-- `IoCheck(port, n)` (R700). -/
def ioCheck (port : Word16) (n : Nat) : M Unit := do
  let s ← get
  if s.cr0.pe && decide (s.flags.iopl < s.cpl) then do
    let ok ← ioPermitted port n
    require ok gp0
  if 0x10000 < port.toNat + n then refuse .portPastEnd

/-- How many bytes of a port access its first bus access holds (20_memory.md R115, R700; log 47): all of them where the
port is aligned, else those up to the next even port, or the next port divisible by four. -/
def portPiece (w : Width) (port : Word16) : Nat := w.bytes - port.toNat % w.bytes

/-- One bus access that reads `n` consecutive ports: the device answers with a free value (log 18). -/
def portInPiece (port : Word16) (n : Nat) : M Word32 := do
  busCycle
  let u ← draw
  let v : Word32 := (u.setWidth (8 * n)).setWidth 32
  modify fun s => { s with events := .portIn port n v :: s.events }
  return v

/-- One bus access that writes `n` consecutive ports. -/
def portOutPiece (port : Word16) (n : Nat) (v : Word32) : M Unit := do
  busCycle
  modify fun s => { s with events := .portOut port n ((v.setWidth (8 * n)).setWidth 32) :: s.events }

/-- `PortIn(port, n)` (20_memory.md R115): a misaligned access is two bus accesses, in either order (R700;
92_eei_decisions.md D8). -/
def portIn (w : Width) (port : Word16) : M (Val w) := do
  let k := portPiece w port
  let high := port + BitVec.ofNat 16 k
  if k = w.bytes then do
    let v ← portInPiece port k
    return v.setWidth w.bits
  else if ← drawSplit then do
    let y ← portInPiece high (w.bytes - k)
    let x ← portInPiece port k
    return (x ||| y <<< (8 * k)).setWidth w.bits
  else do
    let x ← portInPiece port k
    let y ← portInPiece high (w.bytes - k)
    return (x ||| y <<< (8 * k)).setWidth w.bits

/-- `PortOut(port, n, v)` (20_memory.md R115): a misaligned access is two bus accesses, in either order (R700;
92_eei_decisions.md D8). -/
def portOut (w : Width) (port : Word16) (v : Val w) : M Unit := do
  let k := portPiece w port
  let high := port + BitVec.ofNat 16 k
  let x : Word32 := v.setWidth 32
  if k = w.bytes then portOutPiece port k x
  else if ← drawSplit then do
    portOutPiece high (w.bytes - k) (x >>> (8 * k))
    portOutPiece port k x
  else do
    portOutPiece port k x
    portOutPiece high (w.bytes - k) (x >>> (8 * k))

/-- DX. -/
def getDx : M Word16 := getReg .b16 .edx

/-- IN (R701). -/
def inputFrom (w : Width) (port : M Word16) : M Unit := do
  let p ← port
  ioCheck p w.bytes
  let v ← portIn w p
  setReg w .eax v

/-- OUT (R702). -/
def outputTo (w : Width) (port : M Word16) : M Unit := do
  let p ← port
  ioCheck p w.bytes
  let v ← getReg w .eax
  portOut w p v

/-- ESC (R711): EM or TS raises #NM, a pending error #MF; with no coprocessor it does nothing, and with one it is
refused (R710). -/
def escape : M Unit := do
  let s ← get
  require (!s.cr0.em) nm
  require (!s.cr0.ts) nm
  if s.plat.coproc = .none then pure ()
  else do
    require (!s.errorLine) mf
    refuse .coprocessor

/-- WAIT (R712): while BUSY# is active EIP stays at the instruction, so that each step is an interruptible boundary. -/
def waitCoprocessor : M Unit := do
  let s ← get
  require (!(s.cr0.mp && s.cr0.ts)) nm
  if s.plat.coproc = .none then pure ()
  else if s.busyLine then modify fun t => { t with eip := t.cur.start, cur := { t.cur with incomplete := true } }
  else require (!s.errorLine) mf

/-! ## The instructions -/

/-- WAIT (R712). -/
def execWait (s : State) : Host.Outcome State Fault Refusal := run false waitCoprocessor s

/-- ESC coprocessor escape, ModR/M (R711). -/
def execEsc (_op : BitVec 3) (_n : BitVec 3) (_rm : RM) (s : State) : Host.Outcome State Fault Refusal :=
  run false escape s

/-- IN AL,Ib (R701). -/
def execInAlIb (imm : Byte) (s : State) : Host.Outcome State Fault Refusal :=
  run false (inputFrom .b8 (pure (imm.setWidth 16))) s

/-- IN eAX,Ib (R701). -/
def execInEaxIb (imm : Byte) (s : State) : Host.Outcome State Fault Refusal :=
  run false (inputFrom s.opw (pure (imm.setWidth 16))) s

/-- OUT Ib,AL (R702). -/
def execOutIbAl (imm : Byte) (s : State) : Host.Outcome State Fault Refusal :=
  run false (outputTo .b8 (pure (imm.setWidth 16))) s

/-- OUT Ib,eAX (R702). -/
def execOutIbEax (imm : Byte) (s : State) : Host.Outcome State Fault Refusal :=
  run false (outputTo s.opw (pure (imm.setWidth 16))) s

/-- IN AL,DX (R701). -/
def execInAlDx (s : State) : Host.Outcome State Fault Refusal := run false (inputFrom .b8 getDx) s

/-- IN eAX,DX (R701). -/
def execInEaxDx (s : State) : Host.Outcome State Fault Refusal := run false (inputFrom s.opw getDx) s

/-- OUT DX,AL (R702). -/
def execOutDxAl (s : State) : Host.Outcome State Fault Refusal := run false (outputTo .b8 getDx) s

/-- OUT DX,eAX (R702). -/
def execOutDxEax (s : State) : Host.Outcome State Fault Refusal := run false (outputTo s.opw getDx) s

end Sys2Proof.Machine
end

