-- ==== Sys2Proof/Machine/Logical.lean ====
section
/-! DEFINITION. Logical.lean: NOT, bit test, bit scan, shift, rotate, TEST and SETcc (43_logical.md R470 to R506). -/

namespace Sys2Proof.Machine

/-- NOT (R471). -/
def invert (w : Width) (rm : RM) : M Unit := modifyRM w rm (fun a => ~~~a) fun _ => pure ()

/-- TEST r/m with a source (R492): nothing is written back. -/
def testWith (w : Width) (rm : RM) (src : M (Val w)) : M Unit := do
  let a ← readRM w rm
  let b ← src
  setEffect (logicFlags (a &&& b))

/-- The bit test and modify operations (R475 to R478). -/
inductive BitOp where
  | bt | bts | btr | btc
  deriving DecidableEq, Repr

/-- The operation writes its unit back (R475 to R478). -/
def BitOp.writes : BitOp → Bool
  | .bt => false
  | .bts | .btr | .btc => true

/-- The unit after the operation on bit `k` (R475 to R478). -/
def BitOp.result (op : BitOp) {n : Nat} (a : BitVec n) (k : Nat) : BitVec n :=
  match op with
  | .bt => a
  | .bts => a ||| BitVec.twoPow n k
  | .btr => a &&& ~~~BitVec.twoPow n k
  | .btc => a ^^^ BitVec.twoPow n k

/-- The flags of a bit test: CF is the bit, the other five are UNDEF (R479). -/
def bitFlags (b : Bool) : FlagEffect :=
  { cf := .set b, ov := .undef, sf := .undef, zf := .undef, af := .undef, pf := .undef }

/-- A bit test on a place (R475 to R478); under LOCK the read and the write are one locked sequence (20_memory.md R127). -/
def bitTestAt (op : BitOp) (w : Width) (l : Loc) (k : Nat) : M Unit := do
  let s ← get
  lockedIf s.cur.lock do
    let a ← readLoc w l
    setEffect (bitFlags (a.getLsbD k))
    if op.writes then writeLoc w l (op.result a k) else pure ()

/-- The offset of the unit that holds a signed bit offset, cut to the address size (R479; log 30). -/
def bitUnit (asz : Size) (w : Width) (ea : Word32) (o : Int) : Word32 :=
  let u := ea + BitVec.ofInt 32 ((w.bytes : Int) * (o / (w.bits : Int)))
  match asz with
  | .s16 => u &&& 0xFFFF
  | .s32 => u

/-- A bit test whose bit offset is in a register (R479). -/
def bitTestReg (op : BitOp) (w : Width) (rm : RM) (r : Reg) : M Unit := do
  let o ← getReg w r
  match rm with
  | .reg d => bitTestAt op w (.reg d) (o.toNat % w.bits)
  | .mem m => do
    let s ← get
    let l ← memLoc w (s.segOr (defaultSeg m)) (bitUnit s.cur.addrSize w (effAddr s.regs m) o.toInt) op.writes true
    bitTestAt op w l (o.toInt % (w.bits : Int)).toNat

/-- A bit test whose bit offset is an immediate (R479). -/
def bitTestImm (op : BitOp) (w : Width) (rm : RM) (imm : Byte) : M Unit := do
  let l ← locate w rm op.writes true
  bitTestAt op w l (imm.toNat % w.bits)

/-- The least index of a one-bit, counting from the end the scan starts at (R480, R481). -/
def scanBit {n : Nat} (forward : Bool) (a : BitVec n) : Option Nat :=
  let idx := List.range n
  (if forward then idx else idx.reverse).find? fun i => a.getLsbD i

/-- The flags of a bit scan: ZF, and the other five UNDEF (R480, R481). -/
def scanFlags (zero : Bool) : FlagEffect :=
  { zf := .set zero, ov := .undef, sf := .undef, af := .undef, pf := .undef, cf := .undef }

/-- BSF and BSR (R480, R481): the destination is unspecified when no bit is set. -/
def bitScan (forward : Bool) (w : Width) (r : Reg) (rm : RM) : M Unit := do
  let a ← readRM w rm
  match scanBit forward a with
  | some i => do
    setEffect (scanFlags false)
    setReg w r (BitVec.ofNat w.bits i)
  | none => do
    setEffect (scanFlags true)
    let u ← draw
    setReg w r (u.setWidth w.bits)

/-- A masked count (R482). -/
def maskCount (v : Byte) : Nat := v.toNat % 32

/-- The raw count of a shift or rotate (R482). -/
def countOf (c : ShiftCount) : M Byte :=
  match c with
  | .one => pure 1
  | .cl => getReg .b8 .ecx
  | .imm v => pure v

/-- A shift or rotate (R482 to R485, R488 to R491): nothing changes for a masked count of 0, which still needs write
permission. -/
def shift (op : ShiftOp) (w : Width) (rm : RM) (c : ShiftCount) : M Unit := do
  let raw ← countOf c
  let k := maskCount raw
  let l ← locate w rm true (k != 0)
  if k = 0 then pure ()
  else do
    let a ← readLoc w l
    let s ← get
    setEffect (op.flags a s.flags.cf k)
    writeLoc w l (op.result a s.flags.cf k)

/-- SHLD and SHRD (R486, R487): destination and flags are unspecified for a count above the width. -/
def doubleShift (left : Bool) (w : Width) (rm : RM) (r : Reg) (c : ShiftCount) : M Unit := do
  let raw ← countOf c
  let k := maskCount raw
  let l ← locate w rm true (k != 0)
  if k = 0 then pure ()
  else do
    let a ← readLoc w l
    let b ← getReg w r
    if k ≤ w.bits then do
      setEffect (shiftDoubleFlags left a b k)
      writeLoc w l (shiftDouble left a b k)
    else do
      setEffect allUndef
      let u ← draw
      writeLoc w l (u.setWidth w.bits)

/-- SETcc (R506). -/
def setOn (c : Cond) (rm : RM) : M Unit := do
  let s ← get
  writeRM .b8 rm (if c.holds s.flags then 1 else 0)

/-! ## The instructions -/

/-- SETO Eb (R506). -/
def execSetoEb (rm : RM) (s : State) : Host.Outcome State Fault Refusal := run false (setOn .o rm) s

/-- SETNO Eb (R506). -/
def execSetnoEb (rm : RM) (s : State) : Host.Outcome State Fault Refusal := run false (setOn .no rm) s

/-- SETB Eb (R506). -/
def execSetbEb (rm : RM) (s : State) : Host.Outcome State Fault Refusal := run false (setOn .b rm) s

/-- SETAE Eb (R506). -/
def execSetaeEb (rm : RM) (s : State) : Host.Outcome State Fault Refusal := run false (setOn .ae rm) s

/-- SETE Eb (R506). -/
def execSeteEb (rm : RM) (s : State) : Host.Outcome State Fault Refusal := run false (setOn .e rm) s

/-- SETNE Eb (R506). -/
def execSetneEb (rm : RM) (s : State) : Host.Outcome State Fault Refusal := run false (setOn .ne rm) s

/-- SETBE Eb (R506). -/
def execSetbeEb (rm : RM) (s : State) : Host.Outcome State Fault Refusal := run false (setOn .be rm) s

/-- SETA Eb (R506). -/
def execSetaEb (rm : RM) (s : State) : Host.Outcome State Fault Refusal := run false (setOn .a rm) s

/-- SETS Eb (R506). -/
def execSetsEb (rm : RM) (s : State) : Host.Outcome State Fault Refusal := run false (setOn .s rm) s

/-- SETNS Eb (R506). -/
def execSetnsEb (rm : RM) (s : State) : Host.Outcome State Fault Refusal := run false (setOn .ns rm) s

/-- SETP Eb (R506). -/
def execSetpEb (rm : RM) (s : State) : Host.Outcome State Fault Refusal := run false (setOn .p rm) s

/-- SETNP Eb (R506). -/
def execSetnpEb (rm : RM) (s : State) : Host.Outcome State Fault Refusal := run false (setOn .np rm) s

/-- SETL Eb (R506). -/
def execSetlEb (rm : RM) (s : State) : Host.Outcome State Fault Refusal := run false (setOn .l rm) s

/-- SETGE Eb (R506). -/
def execSetgeEb (rm : RM) (s : State) : Host.Outcome State Fault Refusal := run false (setOn .ge rm) s

/-- SETLE Eb (R506). -/
def execSetleEb (rm : RM) (s : State) : Host.Outcome State Fault Refusal := run false (setOn .le rm) s

/-- SETG Eb (R506). -/
def execSetgEb (rm : RM) (s : State) : Host.Outcome State Fault Refusal := run false (setOn .g rm) s

/-- TEST Eb,Gb (R492). -/
def execTestEbGb (rm : RM) (r : Reg) (s : State) : Host.Outcome State Fault Refusal :=
  run false (testWith .b8 rm (getReg .b8 r)) s

/-- TEST Ev,Gv (R492). -/
def execTestEvGv (rm : RM) (r : Reg) (s : State) : Host.Outcome State Fault Refusal :=
  run false (testWith s.opw rm (getReg s.opw r)) s

/-- TEST AL,Ib (R492). -/
def execTestAlIb (imm : Byte) (s : State) : Host.Outcome State Fault Refusal :=
  run false (testWith .b8 (.reg .eax) (pure imm)) s

/-- TEST eAX,Iv (R492). -/
def execTestEaxIv (imm : Word32) (s : State) : Host.Outcome State Fault Refusal :=
  run false (testWith s.opw (.reg .eax) (pure (imm.setWidth _))) s

/-- ROL Eb,Ib / ROL Eb,1 / ROL Eb,CL (R488). -/
def execRolEb (rm : RM) (count : ShiftCount) (s : State) : Host.Outcome State Fault Refusal :=
  run false (shift .rol .b8 rm count) s

/-- ROL Ev,Ib / ROL Ev,1 / ROL Ev,CL (R488). -/
def execRolEv (rm : RM) (count : ShiftCount) (s : State) : Host.Outcome State Fault Refusal :=
  run false (shift .rol s.opw rm count) s

/-- ROR Eb,Ib / ROR Eb,1 / ROR Eb,CL (R489). -/
def execRorEb (rm : RM) (count : ShiftCount) (s : State) : Host.Outcome State Fault Refusal :=
  run false (shift .ror .b8 rm count) s

/-- ROR Ev,Ib / ROR Ev,1 / ROR Ev,CL (R489). -/
def execRorEv (rm : RM) (count : ShiftCount) (s : State) : Host.Outcome State Fault Refusal :=
  run false (shift .ror s.opw rm count) s

/-- RCL Eb,Ib / RCL Eb,1 / RCL Eb,CL (R490). -/
def execRclEb (rm : RM) (count : ShiftCount) (s : State) : Host.Outcome State Fault Refusal :=
  run false (shift .rcl .b8 rm count) s

/-- RCL Ev,Ib / RCL Ev,1 / RCL Ev,CL (R490). -/
def execRclEv (rm : RM) (count : ShiftCount) (s : State) : Host.Outcome State Fault Refusal :=
  run false (shift .rcl s.opw rm count) s

/-- RCR Eb,Ib / RCR Eb,1 / RCR Eb,CL (R491). -/
def execRcrEb (rm : RM) (count : ShiftCount) (s : State) : Host.Outcome State Fault Refusal :=
  run false (shift .rcr .b8 rm count) s

/-- RCR Ev,Ib / RCR Ev,1 / RCR Ev,CL (R491). -/
def execRcrEv (rm : RM) (count : ShiftCount) (s : State) : Host.Outcome State Fault Refusal :=
  run false (shift .rcr s.opw rm count) s

/-- SHL Eb,Ib / SHL Eb,1 / SHL Eb,CL (R483). -/
def execShlEb (rm : RM) (count : ShiftCount) (s : State) : Host.Outcome State Fault Refusal :=
  run false (shift .shl .b8 rm count) s

/-- SHL Ev,Ib / SHL Ev,1 / SHL Ev,CL (R483). -/
def execShlEv (rm : RM) (count : ShiftCount) (s : State) : Host.Outcome State Fault Refusal :=
  run false (shift .shl s.opw rm count) s

/-- SHR Eb,Ib / SHR Eb,1 / SHR Eb,CL (R484). -/
def execShrEb (rm : RM) (count : ShiftCount) (s : State) : Host.Outcome State Fault Refusal :=
  run false (shift .shr .b8 rm count) s

/-- SHR Ev,Ib / SHR Ev,1 / SHR Ev,CL (R484). -/
def execShrEv (rm : RM) (count : ShiftCount) (s : State) : Host.Outcome State Fault Refusal :=
  run false (shift .shr s.opw rm count) s

/-- SAR Eb,Ib / SAR Eb,1 / SAR Eb,CL (R485). -/
def execSarEb (rm : RM) (count : ShiftCount) (s : State) : Host.Outcome State Fault Refusal :=
  run false (shift .sar .b8 rm count) s

/-- SAR Ev,Ib / SAR Ev,1 / SAR Ev,CL (R485). -/
def execSarEv (rm : RM) (count : ShiftCount) (s : State) : Host.Outcome State Fault Refusal :=
  run false (shift .sar s.opw rm count) s

/-- TEST Eb,Ib (R492). -/
def execTestEbIb (rm : RM) (imm : Byte) (s : State) : Host.Outcome State Fault Refusal :=
  run false (testWith .b8 rm (pure imm)) s

/-- TEST Ev,Iv (R492). -/
def execTestEvIv (rm : RM) (imm : Word32) (s : State) : Host.Outcome State Fault Refusal :=
  run false (testWith s.opw rm (pure (imm.setWidth _))) s

/-- NOT Eb (R471). -/
def execNotEb (rm : RM) (s : State) : Host.Outcome State Fault Refusal := run (isMem rm) (invert .b8 rm) s

/-- NOT Ev (R471). -/
def execNotEv (rm : RM) (s : State) : Host.Outcome State Fault Refusal := run (isMem rm) (invert s.opw rm) s

/-- BT Ev,Gv (R475). -/
def execBtEvGv (rm : RM) (r : Reg) (s : State) : Host.Outcome State Fault Refusal :=
  run false (bitTestReg .bt s.opw rm r) s

/-- SHLD Ev,Gv,Ib (R486). -/
def execShldEvGvIb (rm : RM) (r : Reg) (imm : Byte) (s : State) : Host.Outcome State Fault Refusal :=
  run false (doubleShift true s.opw rm r (.imm imm)) s

/-- SHLD Ev,Gv,CL (R486). -/
def execShldEvGvCl (rm : RM) (r : Reg) (s : State) : Host.Outcome State Fault Refusal :=
  run false (doubleShift true s.opw rm r .cl) s

/-- BTS Ev,Gv (R476). -/
def execBtsEvGv (rm : RM) (r : Reg) (s : State) : Host.Outcome State Fault Refusal :=
  run (isMem rm) (bitTestReg .bts s.opw rm r) s

/-- SHRD Ev,Gv,Ib (R487). -/
def execShrdEvGvIb (rm : RM) (r : Reg) (imm : Byte) (s : State) : Host.Outcome State Fault Refusal :=
  run false (doubleShift false s.opw rm r (.imm imm)) s

/-- SHRD Ev,Gv,CL (R487). -/
def execShrdEvGvCl (rm : RM) (r : Reg) (s : State) : Host.Outcome State Fault Refusal :=
  run false (doubleShift false s.opw rm r .cl) s

/-- BTR Ev,Gv (R477). -/
def execBtrEvGv (rm : RM) (r : Reg) (s : State) : Host.Outcome State Fault Refusal :=
  run (isMem rm) (bitTestReg .btr s.opw rm r) s

/-- BT Ev,Ib (R475). -/
def execBtEvIb (rm : RM) (imm : Byte) (s : State) : Host.Outcome State Fault Refusal :=
  run false (bitTestImm .bt s.opw rm imm) s

/-- BTS Ev,Ib (R476). -/
def execBtsEvIb (rm : RM) (imm : Byte) (s : State) : Host.Outcome State Fault Refusal :=
  run (isMem rm) (bitTestImm .bts s.opw rm imm) s

/-- BTR Ev,Ib (R477). -/
def execBtrEvIb (rm : RM) (imm : Byte) (s : State) : Host.Outcome State Fault Refusal :=
  run (isMem rm) (bitTestImm .btr s.opw rm imm) s

/-- BTC Ev,Ib (R478). -/
def execBtcEvIb (rm : RM) (imm : Byte) (s : State) : Host.Outcome State Fault Refusal :=
  run (isMem rm) (bitTestImm .btc s.opw rm imm) s

/-- BTC Ev,Gv (R478). -/
def execBtcEvGv (rm : RM) (r : Reg) (s : State) : Host.Outcome State Fault Refusal :=
  run (isMem rm) (bitTestReg .btc s.opw rm r) s

/-- BSF Gv,Ev (R480). -/
def execBsfGvEv (r : Reg) (rm : RM) (s : State) : Host.Outcome State Fault Refusal :=
  run false (bitScan true s.opw r rm) s

/-- BSR Gv,Ev (R481). -/
def execBsrGvEv (r : Reg) (rm : RM) (s : State) : Host.Outcome State Fault Refusal :=
  run false (bitScan false s.opw r rm) s

end Sys2Proof.Machine
end

