-- ==== Sys2Proof/Machine/Prefix.lean ====
section
/-! DEFINITION. Prefix.lean: the prefix bytes, each a step of its own kind that sets an attribute of the instruction in
progress (30_encoding.md R312, R313, R316; log 24), and the three opcodes the table lists as undefined (R353). -/

namespace Sys2Proof.Machine

/-- Set an attribute of the instruction in progress. -/
def setAttribute (f : Cur → Cur) (s : State) : Host.Outcome State Fault Refusal := .next { s with cur := f s.cur }

/-- A segment override: the last one counts (R313). -/
def overrideSeg (r : SReg) (s : State) : Host.Outcome State Fault Refusal := setAttribute (fun c => { c with seg := some r }) s

/-- A repeat prefix: the last one counts (R313, 92_eei_decisions.md D33). -/
def repeatWith (r : Rep) (s : State) : Host.Outcome State Fault Refusal := setAttribute (fun c => { c with rep := some r }) s

/-! ## The instructions -/

/-- ES___prefix prefix (R312). -/
def execPfxEs (s : State) : Host.Outcome State Fault Refusal := overrideSeg .es s

/-- CS___prefix prefix (R312). -/
def execPfxCs (s : State) : Host.Outcome State Fault Refusal := overrideSeg .cs s

/-- SS___prefix prefix (R312). -/
def execPfxSs (s : State) : Host.Outcome State Fault Refusal := overrideSeg .ss s

/-- DS___prefix prefix (R312). -/
def execPfxDs (s : State) : Host.Outcome State Fault Refusal := overrideSeg .ds s

/-- FS___prefix prefix (R312). -/
def execPfxFs (s : State) : Host.Outcome State Fault Refusal := overrideSeg .fs s

/-- GS___prefix prefix (R312). -/
def execPfxGs (s : State) : Host.Outcome State Fault Refusal := overrideSeg .gs s

/-- operand-size__prefix prefix (R312). -/
def execPfxOpSize (s : State) : Host.Outcome State Fault Refusal :=
  setAttribute (fun c => { c with opSize := s.cur.code.other }) s

/-- address-size__prefix prefix (R312). -/
def execPfxAddrSize (s : State) : Host.Outcome State Fault Refusal :=
  setAttribute (fun c => { c with addrSize := s.cur.code.other }) s

/-- LOCK__prefix prefix (R312). -/
def execPfxLock (s : State) : Host.Outcome State Fault Refusal := setAttribute (fun c => { c with lock := true }) s

/-- REPNE__prefix prefix (R312). -/
def execPfxRepne (s : State) : Host.Outcome State Fault Refusal := repeatWith .repne s

/-- REP___REPE__prefix prefix (R312). -/
def execPfxRep (s : State) : Host.Outcome State Fault Refusal := repeatWith .repe s

/-- Opcode 82: undefined (R353). -/
def execUndef82 (s : State) : Host.Outcome State Fault Refusal := run false (raise ud) s

/-- Opcode D6: undefined (R353). -/
def execUndefD6 (s : State) : Host.Outcome State Fault Refusal := run false (raise ud) s

/-- Opcode F1: undefined (R353). -/
def execUndefF1 (s : State) : Host.Outcome State Fault Refusal := run false (raise ud) s

end Sys2Proof.Machine
end

