-- ==== Sys2Proof/Machine/SegMisc.lean ====
section
/-! DEFINITION. SegMisc.lean: segment registers, far pointers, LEA, NOP and XLAT (47_segment_misc.md R620 to R632). -/

namespace Sys2Proof.Machine

/-- Store 16 bits in an r/m operand; a register destination with OpSize 32 takes them zero-extended (R621; 48_system.md
R665; 92_eei_decisions.md D23). -/
def storeSelector (rm : RM) (v : Word16) : M Unit := do
  let s ← get
  match rm with
  | .reg r =>
    match s.cur.opSize with
    | .s16 => setReg .b16 r v
    | .s32 => setReg .b32 r (v.setWidth 32)
  | .mem m => writeRM .b16 (.mem m) v

/-- MOV r/m16, Sreg (R621). -/
def movFromSeg (rm : RM) (n : BitVec 3) : M Unit := do
  let s ← get
  match sregOf n with
  | some r => storeSelector rm (s.seg r).sel
  | none => raise ud

/-- Set the interrupt-inhibit latch after a load of SS (60_exceptions.md R784). -/
def inhibitAfter (r : SReg) : M Unit :=
  if r = .ss then modify fun s => { s with inhibit := true } else pure ()

/-- MOV Sreg, r/m16 (R621): CS and the reserved numbers raise #UD. -/
def movToSeg (n : BitVec 3) (rm : RM) : M Unit := do
  match sregOf n with
  | none => raise ud
  | some r =>
    if r = .cs then raise ud
    else do
      let v ← readRM .b16 rm
      loadSeg r v
      inhibitAfter r

/-- POP Sreg (R623): (E)SP moves by the width of the old stack, after the load. -/
def popSeg (w : Width) (r : SReg) : M Unit := do
  let s ← get
  let v ← stackRead w 0
  loadSeg r (v.setWidth 16)
  modify fun t => { t with regs := t.regs.setSP s.stackSize (t.regs.esp + distOf w) }
  inhibitAfter r

/-- LDS, LES, LFS, LGS and LSS (R624 to R628); the selector is at `partOff` (log 54). -/
def loadFar (w : Width) (sr : SReg) (r : Reg) (m : Mem) : M Unit := do
  let s ← get
  let q := s.segOr (defaultSeg m)
  let ea := effAddr s.regs m
  let off ← segRead w q ea
  let sel ← segRead .b16 q (partOff ea (distOf w))
  loadSeg sr sel
  setReg w r off

/-- LEA (R630). -/
def loadAddress (w : Width) (r : Reg) (m : Mem) : M Unit := do
  let s ← get
  setReg w r ((effAddr s.regs m).setWidth w.bits)

/-- XLAT (R632): the sum is cut to the address size. -/
def translateByte : M Unit := do
  let s ← get
  let al : Byte := s.regs.read .b8 .eax
  let sum := s.regs.ebx + al.setWidth 32
  let off := match s.cur.addrSize with
    | .s16 => sum &&& 0xFFFF
    | .s32 => sum
  let v ← segRead .b8 (s.segOr .ds) off
  setReg .b8 .eax v

/-! ## The instructions -/

/-- POP_ES Sreg (R623). -/
def execPopEs (s : State) : Host.Outcome State Fault Refusal := run false (popSeg s.opw .es) s

/-- POP_SS Sreg (R623). -/
def execPopSs (s : State) : Host.Outcome State Fault Refusal := run false (popSeg s.opw .ss) s

/-- POP_DS Sreg (R623). -/
def execPopDs (s : State) : Host.Outcome State Fault Refusal := run false (popSeg s.opw .ds) s

/-- POP_FS Sreg (R623). -/
def execPopFs (s : State) : Host.Outcome State Fault Refusal := run false (popSeg s.opw .fs) s

/-- POP_GS Sreg (R623). -/
def execPopGs (s : State) : Host.Outcome State Fault Refusal := run false (popSeg s.opw .gs) s

/-- MOV Ew,Sreg (R621). -/
def execMovEwSreg (rm : RM) (n : BitVec 3) (s : State) : Host.Outcome State Fault Refusal :=
  run false (movFromSeg rm n) s

/-- LEA Gv,M (R630). -/
def execLeaGvM (r : Reg) (m : Mem) (s : State) : Host.Outcome State Fault Refusal :=
  run false (loadAddress s.opw r m) s

/-- MOV Sreg,Ew (R621). -/
def execMovSregEw (n : BitVec 3) (rm : RM) (s : State) : Host.Outcome State Fault Refusal :=
  run false (movToSeg n rm) s

/-- NOP (R631). -/
def execNop (s : State) : Host.Outcome State Fault Refusal := run false (pure ()) s

/-- LES Gv,Mp (R625). -/
def execLesGvMp (r : Reg) (m : Mem) (s : State) : Host.Outcome State Fault Refusal :=
  run false (loadFar s.opw .es r m) s

/-- LDS Gv,Mp (R624). -/
def execLdsGvMp (r : Reg) (m : Mem) (s : State) : Host.Outcome State Fault Refusal :=
  run false (loadFar s.opw .ds r m) s

/-- XLAT (R632). -/
def execXlat (s : State) : Host.Outcome State Fault Refusal := run false translateByte s

/-- LSS Gv,Mp (R628). -/
def execLssGvMp (r : Reg) (m : Mem) (s : State) : Host.Outcome State Fault Refusal :=
  run false (loadFar s.opw .ss r m) s

/-- LFS Gv,Mp (R626). -/
def execLfsGvMp (r : Reg) (m : Mem) (s : State) : Host.Outcome State Fault Refusal :=
  run false (loadFar s.opw .fs r m) s

/-- LGS Gv,Mp (R627). -/
def execLgsGvMp (r : Reg) (m : Mem) (s : State) : Host.Outcome State Fault Refusal :=
  run false (loadFar s.opw .gs r m) s

end Sys2Proof.Machine
end

