-- ==== Sys2Proof/Machine/Strings.lean ====
section
/-! DEFINITION. Strings.lean: the string primitives and their repetition (45_string.md R570 to R577;
49_io_coprocessor.md R703, R704). -/

namespace Sys2Proof.Machine

/-- The width AddrSize selects for ESI, EDI and ECX (R570). -/
abbrev State.addrw (s : State) : Width := s.cur.addrSize.width

/-- The offset an index register gives (R570). -/
def State.indexOff (s : State) (r : Reg) : Word32 := (s.regs.read s.addrw r).setWidth 32

/-- `advance(R)` (R570): by the element's size, up or down as DF says. -/
def advance (w : Width) (r : Reg) : M Unit := do
  let s ← get
  let d : Val s.addrw := BitVec.ofNat _ w.bytes
  setReg s.addrw r (if s.flags.df then s.regs.read s.addrw r - d else s.regs.read s.addrw r + d)

/-- The source element, at srcseg:SI (R570). -/
def readSource (w : Width) : M (Val w) := do
  let s ← get
  segRead w (s.segOr .ds) (s.indexOff .esi)

/-- The destination element, at ES:DI (R570). -/
def readDest (w : Width) : M (Val w) := do
  let s ← get
  segRead w .es (s.indexOff .edi)

/-- Store at ES:DI (R570). -/
def writeDest (w : Width) (v : Val w) : M Unit := do
  let s ← get
  segWrite w .es (s.indexOff .edi) v

/-- MOVS, once (R573). -/
def moveString (w : Width) : M Unit := do
  let v ← readSource w
  writeDest w v
  advance w .esi
  advance w .edi

/-- CMPS, once (R574). -/
def compareString (w : Width) : M Unit := do
  let a ← readSource w
  let b ← readDest w
  setEffect (subFlags a b false)
  advance w .esi
  advance w .edi

/-- SCAS, once (R575). -/
def scanString (w : Width) : M Unit := do
  let b ← readDest w
  let a ← getReg w .eax
  setEffect (subFlags a b false)
  advance w .edi

/-- LODS, once (R576). -/
def loadString (w : Width) : M Unit := do
  let v ← readSource w
  setReg w .eax v
  advance w .esi

/-- STOS, once (R577). -/
def storeString (w : Width) : M Unit := do
  let v ← getReg w .eax
  writeDest w v
  advance w .edi

/-- INS, once (49_io_coprocessor.md R703): the destination is checked before the port is read. -/
def inputString (w : Width) : M Unit := do
  let p ← getDx
  ioCheck p w.bytes
  let s ← get
  let l ← memLoc w .es (s.indexOff .edi) true true
  let v ← portIn w p
  writeLoc w l v
  advance w .edi

/-- OUTS, once (49_io_coprocessor.md R704). -/
def outputString (w : Width) : M Unit := do
  let p ← getDx
  ioCheck p w.bytes
  let v ← readSource w
  portOut w p v
  advance w .esi

/-- ZF ends the repetition of CMPS and SCAS (R571, R572). -/
def repEnds (compares : Bool) (p : Rep) (zf : Bool) : Bool :=
  compares && (match p with
    | .repe => !zf
    | .repne => zf)

/-- A string instruction (R572): once without a repeat prefix; with one, one iteration, after which EIP stays at the
instruction while the repetition goes on. -/
def repeatString (compares : Bool) (m : M Unit) : M Unit := do
  let s ← get
  match s.cur.rep with
  | none => m
  | some p =>
    if s.regs.read s.addrw .ecx = 0 then pure ()
    else do
      m
      let t ← get
      let n := t.regs.read s.addrw .ecx - 1
      setReg s.addrw .ecx n
      if n = 0 ∨ repEnds compares p t.flags.zf = true then pure ()
      else modify fun u => { u with eip := u.cur.start }

/-! ## The instructions -/

/-- INSB (49_io_coprocessor.md R703). -/
def execInsb (s : State) : Host.Outcome State Fault Refusal := run false (repeatString false (inputString .b8)) s

/-- INSW (49_io_coprocessor.md R703). -/
def execInsw (s : State) : Host.Outcome State Fault Refusal := run false (repeatString false (inputString .b16)) s

/-- INSD (49_io_coprocessor.md R703). -/
def execInsd (s : State) : Host.Outcome State Fault Refusal := run false (repeatString false (inputString .b32)) s

/-- OUTSB (49_io_coprocessor.md R704). -/
def execOutsb (s : State) : Host.Outcome State Fault Refusal := run false (repeatString false (outputString .b8)) s

/-- OUTSW (49_io_coprocessor.md R704). -/
def execOutsw (s : State) : Host.Outcome State Fault Refusal := run false (repeatString false (outputString .b16)) s

/-- OUTSD (49_io_coprocessor.md R704). -/
def execOutsd (s : State) : Host.Outcome State Fault Refusal := run false (repeatString false (outputString .b32)) s

/-- MOVSB (R573). -/
def execMovsb (s : State) : Host.Outcome State Fault Refusal := run false (repeatString false (moveString .b8)) s

/-- MOVSW (R573). -/
def execMovsw (s : State) : Host.Outcome State Fault Refusal := run false (repeatString false (moveString .b16)) s

/-- MOVSD (R573). -/
def execMovsd (s : State) : Host.Outcome State Fault Refusal := run false (repeatString false (moveString .b32)) s

/-- CMPSB (R574). -/
def execCmpsb (s : State) : Host.Outcome State Fault Refusal := run false (repeatString true (compareString .b8)) s

/-- CMPSW (R574). -/
def execCmpsw (s : State) : Host.Outcome State Fault Refusal := run false (repeatString true (compareString .b16)) s

/-- CMPSD (R574). -/
def execCmpsd (s : State) : Host.Outcome State Fault Refusal := run false (repeatString true (compareString .b32)) s

/-- STOSB (R577). -/
def execStosb (s : State) : Host.Outcome State Fault Refusal := run false (repeatString false (storeString .b8)) s

/-- STOSW (R577). -/
def execStosw (s : State) : Host.Outcome State Fault Refusal := run false (repeatString false (storeString .b16)) s

/-- STOSD (R577). -/
def execStosd (s : State) : Host.Outcome State Fault Refusal := run false (repeatString false (storeString .b32)) s

/-- LODSB (R576). -/
def execLodsb (s : State) : Host.Outcome State Fault Refusal := run false (repeatString false (loadString .b8)) s

/-- LODSW (R576). -/
def execLodsw (s : State) : Host.Outcome State Fault Refusal := run false (repeatString false (loadString .b16)) s

/-- LODSD (R576). -/
def execLodsd (s : State) : Host.Outcome State Fault Refusal := run false (repeatString false (loadString .b32)) s

/-- SCASB (R575). -/
def execScasb (s : State) : Host.Outcome State Fault Refusal := run false (repeatString true (scanString .b8)) s

/-- SCASW (R575). -/
def execScasw (s : State) : Host.Outcome State Fault Refusal := run false (repeatString true (scanString .b16)) s

/-- SCASD (R575). -/
def execScasd (s : State) : Host.Outcome State Fault Refusal := run false (repeatString true (scanString .b32)) s

end Sys2Proof.Machine
end

