-- ==== Sys2Proof/Machine/System.lean ====
section
/-! DEFINITION. System.lean: the system instructions (48_system.md R650 to R692). -/

namespace Sys2Proof.Machine

/-- The instruction is privileged: #GP(0) unless CPL is 0 (R650; 21_translation_protection.md R201). -/
def privileged : M Unit := do
  let s ← get
  require (s.cpl == 0) gp0

/-- The instruction is undefined in real-address mode (23_real_address_mode.md R296). -/
def protectedOnly : M Unit := do
  let s ← get
  require s.cr0.pe ud

/-! ## Descriptor-table registers -/

/-- Read the 6-byte operand of LGDT and LIDT (R660): with OpSize 16 the base has 24 bits. Its second part is at `partOff`
(log 54). -/
def readTable (m : Mem) : M TableReg := do
  let s ← get
  let r := s.segOr (defaultSeg m)
  let ea := effAddr s.regs m
  let lim ← segRead .b16 r ea
  let b ← segRead .b32 r (partOff ea 2)
  return { base := (match s.cur.opSize with
                    | .s16 => b &&& 0x00FFFFFF
                    | .s32 => b), limit := lim }

/-- LGDT (R660). -/
def loadGdt (m : Mem) : M Unit := do
  privileged
  let t ← readTable m
  modify fun s => { s with gdtr := t }

/-- LIDT (R662). -/
def loadIdt (m : Mem) : M Unit := do
  privileged
  let t ← readTable m
  modify fun s => { s with idtr := t }

/-- SGDT and SIDT (R661, R663): with OpSize 16 the top byte of the base is unspecified. Both parts are checked before
either is written (92_eei_decisions.md D19). The second part is at `partOff` (log 54). -/
def storeTable (m : Mem) (t : TableReg) : M Unit := do
  let s ← get
  let r := s.segOr (defaultSeg m)
  let ea := effAddr s.regs m
  let u ← draw
  let base : Word32 := match s.cur.opSize with
    | .s16 => u.extractLsb' 24 8 ++ t.base.extractLsb' 0 24
    | .s32 => t.base
  let l ← memLoc .b16 r ea true true
  let h ← memLoc .b32 r (partOff ea 2) true true
  writeLoc .b16 l t.limit
  writeLoc .b32 h base

/-- SGDT (R661). -/
def storeGdt (m : Mem) : M Unit := do
  let s ← get
  storeTable m s.gdtr

/-- SIDT (R663). -/
def storeIdt (m : Mem) : M Unit := do
  let s ← get
  storeTable m s.idtr

/-- LLDT (R664). -/
def loadLdt (rm : RM) : M Unit := do
  protectedOnly
  privileged
  let sel ← readRM .b16 rm
  if selNull sel then modify fun s => { s with ldtr := { s.ldtr with sel := sel, valid := false } }
  else do
    require (!selTI sel) (gpFault sel)
    let d ← readDesc sel (gpFault sel)
    require (d.isSys 2) (gpFault sel)
    require d.present (npFault sel)
    modify fun s => { s with ldtr := { sel := sel, base := d.base, limit := d.limit, valid := true } }

/-- SLDT (R665). -/
def storeLdt (rm : RM) : M Unit := do
  protectedOnly
  let s ← get
  storeSelector rm s.ldtr.sel

/-- LTR (R666). A TSS of 80286 format is refused, available or busy (21_translation_protection.md R163; 92_eei_decisions.md
D10): R666 names the available one only, and that the busy one is refused too is DEDUCED (log 34). -/
def loadTask (rm : RM) : M Unit := do
  protectedOnly
  privileged
  let sel ← readRM .b16 rm
  require (!selNull sel) gp0
  require (!selTI sel) (gpFault sel)
  let d ← readDesc sel (gpFault sel)
  if d.tss286 then refuse .desc286
  require (d.isSys 9) (gpFault sel)
  require d.present (npFault sel)
  setBusy sel (gpFault sel)
  modify fun s => { s with tr := { sel := sel, base := d.base, limit := d.limit, type := 0xB } }

/-- STR (R667). -/
def storeTask (rm : RM) : M Unit := do
  protectedOnly
  let s ← get
  storeSelector rm s.tr.sel

/-! ## Control, debug and test registers -/

/-- CR0 as 32 bits; bits 30:5 are taken from `u` (R680; 92_eei_decisions.md D20). -/
def Cr0.image (c : Cr0) (u : Word32) : Word32 :=
  bit c.pe 0 ||| bit c.mp 1 ||| bit c.em 2 ||| bit c.ts 3 ||| bit c.et 4 ||| (u &&& 0x7FFFFFE0) ||| bit c.pg 31

/-- The bits of CR0 that a value loads (R680). -/
def Cr0.ofWord (v : Word32) : Cr0 :=
  { pe := v.getLsbD 0, mp := v.getLsbD 1, em := v.getLsbD 2, ts := v.getLsbD 3, et := v.getLsbD 4, pg := v.getLsbD 31 }

/-- LMSW (R668): PE can be set and not cleared. -/
def loadMsw (rm : RM) : M Unit := do
  privileged
  let v ← readRM .b16 rm
  modify fun s => { s with cr0 := { s.cr0 with pe := s.cr0.pe || v.getLsbD 0, mp := v.getLsbD 1, em := v.getLsbD 2,
                                               ts := v.getLsbD 3 },
                           modeStale := s.modeStale || (!s.cr0.pe && v.getLsbD 0) }

/-- SMSW (R669): the upper half of a 32-bit register destination is unspecified. -/
def storeMsw (rm : RM) : M Unit := do
  let s ← get
  let u ← draw
  let v := s.cr0.image u
  match rm with
  | .reg r =>
    match s.cur.opSize with
    | .s16 => setReg .b16 r (low16 v)
    | .s32 => do
      let x ← draw
      setReg .b32 r (x.extractLsb' 16 16 ++ low16 v)
  | .mem m => writeRM .b16 (.mem m) (low16 v)

/-- CLTS (R675). -/
def clearTaskSwitched : M Unit := do
  privileged
  modify fun s => { s with cr0 := { s.cr0 with ts := false } }

/-- MOV r32, CRn (R680): the status flags are UNDEF. -/
def readControl (r : Reg) (n : BitVec 3) : M Unit := do
  privileged
  let s ← get
  let u ← draw
  match n.toNat with
  | 0 => setReg .b32 r (s.cr0.image u)
  | 2 => setReg .b32 r s.cr2
  | 3 => setReg .b32 r s.cr3
  | _ => raise ud
  setEffect allUndef

/-- What the prefetch queue may still hold when a change of PG or of CR3 gives the byte at that offset another place
(20_memory.md R138; 70_reset_and_hazards.md R833, R845; log 11): `s` is the state before the change and `t` the one after.
A byte whose page was not or is not present, or that did not come from RAM or ROM, is fetched again (DESIGN CHOICE,
log 11). -/
def remapByte (s t : State) (off : Word32) : List Stale :=
  match s.peekPhys (s.cs.base + off), t.peekPhys (t.cs.base + off) with
  | some p, some q =>
    if !inArray s.plat.map p || s.mem.get p.toNat = s.mem.get q.toNat then []
    else [{ pa := q, old := s.mem.get p.toNat, start := s.cur.start,
            span := (s.cur.next - s.cur.start).toNat + s.plat.prefetchBytes }]
  | _, _ => []

/-- `t`, a change of `s` that gives linear addresses other places, with what the prefetch queue may still hold. -/
def State.remapped (s t : State) : State :=
  { t with prefetch := (addrs s.cur.next s.plat.prefetchBytes).flatMap (remapByte s t) ++ t.prefetch }

/-- The state with a new CR0 (R680): the mode changes at once, and what was prefetched may be used up to the next
transfer of control (70_reset_and_hazards.md R830, R833, R845). -/
def State.setCr0 (s : State) (c : Cr0) : State :=
  let t := { s with cr0 := c, modeStale := s.modeStale || c.pe != s.cr0.pe }
  if c.pg = s.cr0.pg then t else s.remapped t

/-- The state with a new CR3 (R680): the TLB is flushed (20_memory.md R141), and with paging on what was prefetched by the
old tables may be used up to the next transfer of control (20_memory.md R138). -/
def State.setCr3 (s : State) (v : Word32) : State :=
  let t := { s with cr3 := v &&& 0xFFFFF000, tlb := [] }
  if s.cr0.pg then s.remapped t else t

/-- MOV CR0, v (R680): PG with PE = 0 is refused (10_state.md R54). -/
def writeCr0 (v : Word32) : M Unit := do
  if v.getLsbD 31 && !v.getLsbD 0 then refuse .pagingInRealMode
  modify fun s => s.setCr0 (Cr0.ofWord v)

/-- MOV CRn, r32 (R680): the status flags are UNDEF; a load of CR3 flushes the TLB (20_memory.md R141). -/
def writeControl (n : BitVec 3) (r : Reg) : M Unit := do
  privileged
  let v ← getReg .b32 r
  match n.toNat with
  | 0 => writeCr0 v
  | 2 => modify fun s => { s with cr2 := v }
  | 3 => modify fun s => s.setCr3 v
  | _ => raise ud
  setEffect allUndef

/-- The debug register of a number; 4 and 5 are other names of 6 and 7 (R682). -/
def DebugRegs.get (d : DebugRegs) (n : BitVec 3) : Word32 :=
  match n.toNat with
  | 0 => d.dr0 | 1 => d.dr1 | 2 => d.dr2 | 3 => d.dr3 | 4 => d.dr6 | 5 => d.dr7 | 6 => d.dr6 | _ => d.dr7

/-- The debug registers with one changed (R682). -/
def DebugRegs.set (d : DebugRegs) (n : BitVec 3) (v : Word32) : DebugRegs :=
  match n.toNat with
  | 0 => { d with dr0 := v } | 1 => { d with dr1 := v } | 2 => { d with dr2 := v } | 3 => { d with dr3 := v }
  | 4 => { d with dr6 := v } | 5 => { d with dr7 := v } | 6 => { d with dr6 := v } | _ => { d with dr7 := v }

/-- MOV r32, DRn (R682). -/
def readDebug (r : Reg) (n : BitVec 3) : M Unit := do
  privileged
  let s ← get
  setReg .b32 r (s.dbg.get n)
  setEffect allUndef

/-- MOV DRn, r32 (R682): a value of DR7 that enables a breakpoint is refused. -/
def writeDebug (n : BitVec 3) (r : Reg) : M Unit := do
  privileged
  let v ← getReg .b32 r
  if (n.toNat == 7 || n.toNat == 5) && v.extractLsb' 0 8 != 0 then refuse .breakpoint
  modify fun s => { s with dbg := s.dbg.set n v }
  setEffect allUndef

/-- TR0 to TR5 raise #UD, at every privilege level (R683; 30_encoding.md R315, R354; 60_exceptions.md R747). -/
def testNumber (n : BitVec 3) : M Unit := require (decide (6 ≤ n.toNat)) ud

/-- MOV r32, TRn (R683). -/
def readTest (r : Reg) (n : BitVec 3) : M Unit := do
  testNumber n
  privileged
  let s ← get
  match n.toNat with
  | 6 => setReg .b32 r s.test.tr6
  | 7 => setReg .b32 r s.test.tr7
  | _ => raise ud
  setEffect allUndef

/-- MOV TRn, r32 (R683): TR7 is storage, and a write of TR6 is refused. -/
def writeTest (n : BitVec 3) (r : Reg) : M Unit := do
  testNumber n
  privileged
  let v ← getReg .b32 r
  match n.toNat with
  | 6 => refuse .tlbTest
  | 7 => modify fun s => { s with test := { s.test with tr7 := v } }
  | _ => raise ud
  setEffect allUndef

/-! ## Pointer validation -/

/-- ZF alone (R670 to R674). -/
def setZero (b : Bool) : M Unit := setFlags fun f => { f with zf := b }

/-- ARPL (R670): a memory destination needs write permission in either case, checked before the read. -/
def adjustRpl (rm : RM) (r : Reg) : M Unit := do
  protectedOnly
  let src ← getReg .b16 r
  let _ ← locate .b16 rm true false
  let d ← readRM .b16 rm
  if rpl d < rpl src then do
    let l ← locate .b16 rm true true
    writeLoc .b16 l (withRpl d (rpl src))
    setZero true
  else setZero false

/-- The descriptor a selector names, without a fault for a bad selector (R671). A page fault in reading it is raised (DESIGN
CHOICE, log 52: R671 lists memory faults of the operand only). -/
def inspectDesc (sel : Word16) : M (Option Desc) :=
  if selNull sel then pure none else findDesc sel

/-- The types LAR accepts (R671). -/
def Desc.larType (d : Desc) : Bool :=
  d.s || d.isSys 1 || d.isSys 2 || d.isSys 3 || d.isSys 4 || d.isSys 5 || d.isSys 9 || d.isSys 0xB || d.isSys 0xC

/-- The types LSL accepts (R672). -/
def Desc.lslType (d : Desc) : Bool :=
  d.s || d.isSys 1 || d.isSys 2 || d.isSys 3 || d.isSys 9 || d.isSys 0xB

/-- LAR and LSL (R671, R672): the destination is written, and ZF set, when the descriptor is visible. -/
def inspectInto (w : Width) (ok : Desc → Bool) (value : Desc → Word32) (r : Reg) (rm : RM) : M Unit := do
  protectedOnly
  let sel ← readRM .b16 rm
  let s ← get
  let found ← inspectDesc sel
  match found with
  | some d =>
    if ok d && d.dataPrivilege s.cpl sel then do
      setReg w r ((value d).setWidth w.bits)
      setZero true
    else setZero false
  | none => setZero false

/-- The access rights LAR loads (R671). -/
def Desc.rights (w : Width) (d : Desc) : Word32 :=
  match w with
  | .b8 => d.hi &&& 0xFF00
  | .b16 => d.hi &&& 0xFF00
  | .b32 => d.hi &&& 0x00F0FF00

/-- VERR and VERW (R673, R674). -/
def verify (ok : Desc → Bool) (rm : RM) : M Unit := do
  protectedOnly
  let sel ← readRM .b16 rm
  let s ← get
  let found ← inspectDesc sel
  match found with
  | some d => setZero (ok d && d.dataPrivilege s.cpl sel)
  | none => setZero false

/-! ## Halt and the interrupt flag -/

/-- HLT (R690). -/
def halt : M Unit := do
  privileged
  modify fun s => { s with activity := .halted }

/-- The instruction needs CPL at most IOPL (R691; 21_translation_protection.md R235). -/
def sensitive : M Unit := do
  let s ← get
  require (decide (s.cpl ≤ s.flags.iopl)) gp0

/-- CLI (R691). -/
def clearInterrupts : M Unit := do
  sensitive
  setFlags fun f => { f with ie := false }

/-- STI (R692): INTR waits one instruction if IF was 0. -/
def setInterrupts : M Unit := do
  sensitive
  modify fun s => { s with flags := { s.flags with ie := true }, stiShadow := s.stiShadow || !s.flags.ie }

/-! ## The instructions -/

/-- ARPL Ew,Gw (R670). -/
def execArplEwGw (rm : RM) (r : Reg) (s : State) : Host.Outcome State Fault Refusal := run false (adjustRpl rm r) s

/-- HLT (R690). -/
def execHlt (s : State) : Host.Outcome State Fault Refusal := run false halt s

/-- CLI (R691). -/
def execCli (s : State) : Host.Outcome State Fault Refusal := run false clearInterrupts s

/-- STI (R692). -/
def execSti (s : State) : Host.Outcome State Fault Refusal := run false setInterrupts s

/-- SLDT Ew (R665). -/
def execSldtEw (rm : RM) (s : State) : Host.Outcome State Fault Refusal := run false (storeLdt rm) s

/-- STR Ew (R667). -/
def execStrEw (rm : RM) (s : State) : Host.Outcome State Fault Refusal := run false (storeTask rm) s

/-- LLDT Ew (R664). -/
def execLldtEw (rm : RM) (s : State) : Host.Outcome State Fault Refusal := run false (loadLdt rm) s

/-- LTR Ew (R666). -/
def execLtrEw (rm : RM) (s : State) : Host.Outcome State Fault Refusal := run false (loadTask rm) s

/-- VERR Ew (R673). -/
def execVerrEw (rm : RM) (s : State) : Host.Outcome State Fault Refusal :=
  run false (verify (fun d => d.attr.readable) rm) s

/-- VERW Ew (R674). -/
def execVerwEw (rm : RM) (s : State) : Host.Outcome State Fault Refusal :=
  run false (verify (fun d => d.attr.writable) rm) s

/-- SGDT M (6 bytes) (R661). -/
def execSgdtM (m : Mem) (s : State) : Host.Outcome State Fault Refusal := run false (storeGdt m) s

/-- SIDT M (6 bytes) (R663). -/
def execSidtM (m : Mem) (s : State) : Host.Outcome State Fault Refusal := run false (storeIdt m) s

/-- LGDT M (6 bytes) (R660). -/
def execLgdtM (m : Mem) (s : State) : Host.Outcome State Fault Refusal := run false (loadGdt m) s

/-- LIDT M (6 bytes) (R662). -/
def execLidtM (m : Mem) (s : State) : Host.Outcome State Fault Refusal := run false (loadIdt m) s

/-- SMSW Ew (R669). -/
def execSmswEw (rm : RM) (s : State) : Host.Outcome State Fault Refusal := run false (storeMsw rm) s

/-- LMSW Ew (R668). -/
def execLmswEw (rm : RM) (s : State) : Host.Outcome State Fault Refusal := run false (loadMsw rm) s

/-- LAR Gv,Ew (R671). -/
def execLarGvEw (r : Reg) (rm : RM) (s : State) : Host.Outcome State Fault Refusal :=
  run false (inspectInto s.opw Desc.larType (Desc.rights s.opw) r rm) s

/-- LSL Gv,Ew (R672). -/
def execLslGvEw (r : Reg) (rm : RM) (s : State) : Host.Outcome State Fault Refusal :=
  run false (inspectInto s.opw Desc.lslType Desc.limit r rm) s

/-- CLTS (R675). -/
def execClts (s : State) : Host.Outcome State Fault Refusal := run false clearTaskSwitched s

/-- MOV r32,CRn (R680). -/
def execMovR32Crn (r : Reg) (n : BitVec 3) (s : State) : Host.Outcome State Fault Refusal :=
  run false (readControl r n) s

/-- MOV r32,DRn (R682). -/
def execMovR32Drn (r : Reg) (n : BitVec 3) (s : State) : Host.Outcome State Fault Refusal :=
  run false (readDebug r n) s

/-- MOV CRn,r32 (R680). -/
def execMovCrnR32 (n : BitVec 3) (r : Reg) (s : State) : Host.Outcome State Fault Refusal :=
  run false (writeControl n r) s

/-- MOV DRn,r32 (R682). -/
def execMovDrnR32 (n : BitVec 3) (r : Reg) (s : State) : Host.Outcome State Fault Refusal :=
  run false (writeDebug n r) s

/-- MOV r32,TRn (R683). -/
def execMovR32Trn (r : Reg) (n : BitVec 3) (s : State) : Host.Outcome State Fault Refusal :=
  run false (readTest r n) s

/-- MOV TRn,r32 (R683). -/
def execMovTrnR32 (n : BitVec 3) (r : Reg) (s : State) : Host.Outcome State Fault Refusal :=
  run false (writeTest n r) s

end Sys2Proof.Machine
end

