-- ==== Sys2Proof/Machine/Dispatch.lean ====
section
/-! DEFINITION. Dispatch.lean: one arm for each constructor of `Instr`, a call of its meaning. -/

namespace Sys2Proof.Machine

/-- The effect of an instruction on the state (00_scope.md R17). -/
def exec (i : Instr) (s : State) : Host.Outcome State Fault Refusal :=
  match i with
  | .addEbGb rm r => Sys2Proof.Machine.execAddEbGb rm r s
  | .addEvGv rm r => Sys2Proof.Machine.execAddEvGv rm r s
  | .addGbEb r rm => Sys2Proof.Machine.execAddGbEb r rm s
  | .addGvEv r rm => Sys2Proof.Machine.execAddGvEv r rm s
  | .addAlIb imm => Sys2Proof.Machine.execAddAlIb imm s
  | .addEaxIv imm => Sys2Proof.Machine.execAddEaxIv imm s
  | .addEbIb rm imm => Sys2Proof.Machine.execAddEbIb rm imm s
  | .addEvIv rm imm => Sys2Proof.Machine.execAddEvIv rm imm s
  | .addEvIb rm imm => Sys2Proof.Machine.execAddEvIb rm imm s
  | .orEbGb rm r => Sys2Proof.Machine.execOrEbGb rm r s
  | .orEvGv rm r => Sys2Proof.Machine.execOrEvGv rm r s
  | .orGbEb r rm => Sys2Proof.Machine.execOrGbEb r rm s
  | .orGvEv r rm => Sys2Proof.Machine.execOrGvEv r rm s
  | .orAlIb imm => Sys2Proof.Machine.execOrAlIb imm s
  | .orEaxIv imm => Sys2Proof.Machine.execOrEaxIv imm s
  | .orEbIb rm imm => Sys2Proof.Machine.execOrEbIb rm imm s
  | .orEvIv rm imm => Sys2Proof.Machine.execOrEvIv rm imm s
  | .orEvIb rm imm => Sys2Proof.Machine.execOrEvIb rm imm s
  | .adcEbGb rm r => Sys2Proof.Machine.execAdcEbGb rm r s
  | .adcEvGv rm r => Sys2Proof.Machine.execAdcEvGv rm r s
  | .adcGbEb r rm => Sys2Proof.Machine.execAdcGbEb r rm s
  | .adcGvEv r rm => Sys2Proof.Machine.execAdcGvEv r rm s
  | .adcAlIb imm => Sys2Proof.Machine.execAdcAlIb imm s
  | .adcEaxIv imm => Sys2Proof.Machine.execAdcEaxIv imm s
  | .adcEbIb rm imm => Sys2Proof.Machine.execAdcEbIb rm imm s
  | .adcEvIv rm imm => Sys2Proof.Machine.execAdcEvIv rm imm s
  | .adcEvIb rm imm => Sys2Proof.Machine.execAdcEvIb rm imm s
  | .sbbEbGb rm r => Sys2Proof.Machine.execSbbEbGb rm r s
  | .sbbEvGv rm r => Sys2Proof.Machine.execSbbEvGv rm r s
  | .sbbGbEb r rm => Sys2Proof.Machine.execSbbGbEb r rm s
  | .sbbGvEv r rm => Sys2Proof.Machine.execSbbGvEv r rm s
  | .sbbAlIb imm => Sys2Proof.Machine.execSbbAlIb imm s
  | .sbbEaxIv imm => Sys2Proof.Machine.execSbbEaxIv imm s
  | .sbbEbIb rm imm => Sys2Proof.Machine.execSbbEbIb rm imm s
  | .sbbEvIv rm imm => Sys2Proof.Machine.execSbbEvIv rm imm s
  | .sbbEvIb rm imm => Sys2Proof.Machine.execSbbEvIb rm imm s
  | .andEbGb rm r => Sys2Proof.Machine.execAndEbGb rm r s
  | .andEvGv rm r => Sys2Proof.Machine.execAndEvGv rm r s
  | .andGbEb r rm => Sys2Proof.Machine.execAndGbEb r rm s
  | .andGvEv r rm => Sys2Proof.Machine.execAndGvEv r rm s
  | .andAlIb imm => Sys2Proof.Machine.execAndAlIb imm s
  | .andEaxIv imm => Sys2Proof.Machine.execAndEaxIv imm s
  | .andEbIb rm imm => Sys2Proof.Machine.execAndEbIb rm imm s
  | .andEvIv rm imm => Sys2Proof.Machine.execAndEvIv rm imm s
  | .andEvIb rm imm => Sys2Proof.Machine.execAndEvIb rm imm s
  | .subEbGb rm r => Sys2Proof.Machine.execSubEbGb rm r s
  | .subEvGv rm r => Sys2Proof.Machine.execSubEvGv rm r s
  | .subGbEb r rm => Sys2Proof.Machine.execSubGbEb r rm s
  | .subGvEv r rm => Sys2Proof.Machine.execSubGvEv r rm s
  | .subAlIb imm => Sys2Proof.Machine.execSubAlIb imm s
  | .subEaxIv imm => Sys2Proof.Machine.execSubEaxIv imm s
  | .subEbIb rm imm => Sys2Proof.Machine.execSubEbIb rm imm s
  | .subEvIv rm imm => Sys2Proof.Machine.execSubEvIv rm imm s
  | .subEvIb rm imm => Sys2Proof.Machine.execSubEvIb rm imm s
  | .xorEbGb rm r => Sys2Proof.Machine.execXorEbGb rm r s
  | .xorEvGv rm r => Sys2Proof.Machine.execXorEvGv rm r s
  | .xorGbEb r rm => Sys2Proof.Machine.execXorGbEb r rm s
  | .xorGvEv r rm => Sys2Proof.Machine.execXorGvEv r rm s
  | .xorAlIb imm => Sys2Proof.Machine.execXorAlIb imm s
  | .xorEaxIv imm => Sys2Proof.Machine.execXorEaxIv imm s
  | .xorEbIb rm imm => Sys2Proof.Machine.execXorEbIb rm imm s
  | .xorEvIv rm imm => Sys2Proof.Machine.execXorEvIv rm imm s
  | .xorEvIb rm imm => Sys2Proof.Machine.execXorEvIb rm imm s
  | .cmpEbGb rm r => Sys2Proof.Machine.execCmpEbGb rm r s
  | .cmpEvGv rm r => Sys2Proof.Machine.execCmpEvGv rm r s
  | .cmpGbEb r rm => Sys2Proof.Machine.execCmpGbEb r rm s
  | .cmpGvEv r rm => Sys2Proof.Machine.execCmpGvEv r rm s
  | .cmpAlIb imm => Sys2Proof.Machine.execCmpAlIb imm s
  | .cmpEaxIv imm => Sys2Proof.Machine.execCmpEaxIv imm s
  | .cmpEbIb rm imm => Sys2Proof.Machine.execCmpEbIb rm imm s
  | .cmpEvIv rm imm => Sys2Proof.Machine.execCmpEvIv rm imm s
  | .cmpEvIb rm imm => Sys2Proof.Machine.execCmpEvIb rm imm s
  | .incRv r => Sys2Proof.Machine.execIncRv r s
  | .decRv r => Sys2Proof.Machine.execDecRv r s
  | .pushRv r => Sys2Proof.Machine.execPushRv r s
  | .popRv r => Sys2Proof.Machine.execPopRv r s
  | .boundGvMa r m => Sys2Proof.Machine.execBoundGvMa r m s
  | .arplEwGw rm r => Sys2Proof.Machine.execArplEwGw rm r s
  | .pushIv imm => Sys2Proof.Machine.execPushIv imm s
  | .imulGvEvIv r rm imm => Sys2Proof.Machine.execImulGvEvIv r rm imm s
  | .pushIb imm => Sys2Proof.Machine.execPushIb imm s
  | .imulGvEvIb r rm imm => Sys2Proof.Machine.execImulGvEvIb r rm imm s
  | .jo disp => Sys2Proof.Machine.execJo disp s
  | .jno disp => Sys2Proof.Machine.execJno disp s
  | .jb disp => Sys2Proof.Machine.execJb disp s
  | .jae disp => Sys2Proof.Machine.execJae disp s
  | .je disp => Sys2Proof.Machine.execJe disp s
  | .jne disp => Sys2Proof.Machine.execJne disp s
  | .jbe disp => Sys2Proof.Machine.execJbe disp s
  | .ja disp => Sys2Proof.Machine.execJa disp s
  | .js disp => Sys2Proof.Machine.execJs disp s
  | .jns disp => Sys2Proof.Machine.execJns disp s
  | .jp disp => Sys2Proof.Machine.execJp disp s
  | .jnp disp => Sys2Proof.Machine.execJnp disp s
  | .jl disp => Sys2Proof.Machine.execJl disp s
  | .jge disp => Sys2Proof.Machine.execJge disp s
  | .jle disp => Sys2Proof.Machine.execJle disp s
  | .jg disp => Sys2Proof.Machine.execJg disp s
  | .setoEb rm => Sys2Proof.Machine.execSetoEb rm s
  | .setnoEb rm => Sys2Proof.Machine.execSetnoEb rm s
  | .setbEb rm => Sys2Proof.Machine.execSetbEb rm s
  | .setaeEb rm => Sys2Proof.Machine.execSetaeEb rm s
  | .seteEb rm => Sys2Proof.Machine.execSeteEb rm s
  | .setneEb rm => Sys2Proof.Machine.execSetneEb rm s
  | .setbeEb rm => Sys2Proof.Machine.execSetbeEb rm s
  | .setaEb rm => Sys2Proof.Machine.execSetaEb rm s
  | .setsEb rm => Sys2Proof.Machine.execSetsEb rm s
  | .setnsEb rm => Sys2Proof.Machine.execSetnsEb rm s
  | .setpEb rm => Sys2Proof.Machine.execSetpEb rm s
  | .setnpEb rm => Sys2Proof.Machine.execSetnpEb rm s
  | .setlEb rm => Sys2Proof.Machine.execSetlEb rm s
  | .setgeEb rm => Sys2Proof.Machine.execSetgeEb rm s
  | .setleEb rm => Sys2Proof.Machine.execSetleEb rm s
  | .setgEb rm => Sys2Proof.Machine.execSetgEb rm s
  | .testEbGb rm r => Sys2Proof.Machine.execTestEbGb rm r s
  | .testEvGv rm r => Sys2Proof.Machine.execTestEvGv rm r s
  | .xchgEbGb rm r => Sys2Proof.Machine.execXchgEbGb rm r s
  | .xchgEvGv rm r => Sys2Proof.Machine.execXchgEvGv rm r s
  | .movEbGb rm r => Sys2Proof.Machine.execMovEbGb rm r s
  | .movEvGv rm r => Sys2Proof.Machine.execMovEvGv rm r s
  | .movGbEb r rm => Sys2Proof.Machine.execMovGbEb r rm s
  | .movGvEv r rm => Sys2Proof.Machine.execMovGvEv r rm s
  | .movEwSreg rm n => Sys2Proof.Machine.execMovEwSreg rm n s
  | .leaGvM r m => Sys2Proof.Machine.execLeaGvM r m s
  | .movSregEw n rm => Sys2Proof.Machine.execMovSregEw n rm s
  | .popEv rm => Sys2Proof.Machine.execPopEv rm s
  | .callApFar off sel => Sys2Proof.Machine.execCallApFar off sel s
  | .movAlOb off => Sys2Proof.Machine.execMovAlOb off s
  | .movEaxOv off => Sys2Proof.Machine.execMovEaxOv off s
  | .movObAl off => Sys2Proof.Machine.execMovObAl off s
  | .movOvEax off => Sys2Proof.Machine.execMovOvEax off s
  | .testAlIb imm => Sys2Proof.Machine.execTestAlIb imm s
  | .testEaxIv imm => Sys2Proof.Machine.execTestEaxIv imm s
  | .movR8Ib r imm => Sys2Proof.Machine.execMovR8Ib r imm s
  | .movRvIv r imm => Sys2Proof.Machine.execMovRvIv r imm s
  | .rolEb rm count => Sys2Proof.Machine.execRolEb rm count s
  | .rolEv rm count => Sys2Proof.Machine.execRolEv rm count s
  | .rorEb rm count => Sys2Proof.Machine.execRorEb rm count s
  | .rorEv rm count => Sys2Proof.Machine.execRorEv rm count s
  | .rclEb rm count => Sys2Proof.Machine.execRclEb rm count s
  | .rclEv rm count => Sys2Proof.Machine.execRclEv rm count s
  | .rcrEb rm count => Sys2Proof.Machine.execRcrEb rm count s
  | .rcrEv rm count => Sys2Proof.Machine.execRcrEv rm count s
  | .shlEb rm count => Sys2Proof.Machine.execShlEb rm count s
  | .shlEv rm count => Sys2Proof.Machine.execShlEv rm count s
  | .shrEb rm count => Sys2Proof.Machine.execShrEb rm count s
  | .shrEv rm count => Sys2Proof.Machine.execShrEv rm count s
  | .sarEb rm count => Sys2Proof.Machine.execSarEb rm count s
  | .sarEv rm count => Sys2Proof.Machine.execSarEv rm count s
  | .retIwNear imm => Sys2Proof.Machine.execRetIwNear imm s
  | .lesGvMp r m => Sys2Proof.Machine.execLesGvMp r m s
  | .ldsGvMp r m => Sys2Proof.Machine.execLdsGvMp r m s
  | .movEbIb rm imm => Sys2Proof.Machine.execMovEbIb rm imm s
  | .movEvIv rm imm => Sys2Proof.Machine.execMovEvIv rm imm s
  | .enterIwIb size level => Sys2Proof.Machine.execEnterIwIb size level s
  | .retIwFar imm => Sys2Proof.Machine.execRetIwFar imm s
  | .intIb imm => Sys2Proof.Machine.execIntIb imm s
  | .aamIb imm => Sys2Proof.Machine.execAamIb imm s
  | .aadIb imm => Sys2Proof.Machine.execAadIb imm s
  | .esc op n rm => Sys2Proof.Machine.execEsc op n rm s
  | .loopneJb imm => Sys2Proof.Machine.execLoopneJb imm s
  | .loopeJb imm => Sys2Proof.Machine.execLoopeJb imm s
  | .loopJb imm => Sys2Proof.Machine.execLoopJb imm s
  | .jcxzJb imm => Sys2Proof.Machine.execJcxzJb imm s
  | .jecxzJb imm => Sys2Proof.Machine.execJecxzJb imm s
  | .inAlIb imm => Sys2Proof.Machine.execInAlIb imm s
  | .inEaxIb imm => Sys2Proof.Machine.execInEaxIb imm s
  | .outIbAl imm => Sys2Proof.Machine.execOutIbAl imm s
  | .outIbEax imm => Sys2Proof.Machine.execOutIbEax imm s
  | .callJvNear imm => Sys2Proof.Machine.execCallJvNear imm s
  | .jmpJvNear imm => Sys2Proof.Machine.execJmpJvNear imm s
  | .jmpApFar off sel => Sys2Proof.Machine.execJmpApFar off sel s
  | .jmpJbShort imm => Sys2Proof.Machine.execJmpJbShort imm s
  | .testEbIb rm imm => Sys2Proof.Machine.execTestEbIb rm imm s
  | .testEvIv rm imm => Sys2Proof.Machine.execTestEvIv rm imm s
  | .notEb rm => Sys2Proof.Machine.execNotEb rm s
  | .notEv rm => Sys2Proof.Machine.execNotEv rm s
  | .negEb rm => Sys2Proof.Machine.execNegEb rm s
  | .negEv rm => Sys2Proof.Machine.execNegEv rm s
  | .mulEb rm => Sys2Proof.Machine.execMulEb rm s
  | .mulEv rm => Sys2Proof.Machine.execMulEv rm s
  | .imulEb rm => Sys2Proof.Machine.execImulEb rm s
  | .imulEv rm => Sys2Proof.Machine.execImulEv rm s
  | .divEb rm => Sys2Proof.Machine.execDivEb rm s
  | .divEv rm => Sys2Proof.Machine.execDivEv rm s
  | .idivEb rm => Sys2Proof.Machine.execIdivEb rm s
  | .idivEv rm => Sys2Proof.Machine.execIdivEv rm s
  | .incEb rm => Sys2Proof.Machine.execIncEb rm s
  | .decEb rm => Sys2Proof.Machine.execDecEb rm s
  | .incEv rm => Sys2Proof.Machine.execIncEv rm s
  | .decEv rm => Sys2Proof.Machine.execDecEv rm s
  | .callEvNear rm => Sys2Proof.Machine.execCallEvNear rm s
  | .callMpFar m => Sys2Proof.Machine.execCallMpFar m s
  | .jmpEvNear rm => Sys2Proof.Machine.execJmpEvNear rm s
  | .jmpMpFar m => Sys2Proof.Machine.execJmpMpFar m s
  | .pushEv rm => Sys2Proof.Machine.execPushEv rm s
  | .sldtEw rm => Sys2Proof.Machine.execSldtEw rm s
  | .strEw rm => Sys2Proof.Machine.execStrEw rm s
  | .lldtEw rm => Sys2Proof.Machine.execLldtEw rm s
  | .ltrEw rm => Sys2Proof.Machine.execLtrEw rm s
  | .verrEw rm => Sys2Proof.Machine.execVerrEw rm s
  | .verwEw rm => Sys2Proof.Machine.execVerwEw rm s
  | .sgdtM m => Sys2Proof.Machine.execSgdtM m s
  | .sidtM m => Sys2Proof.Machine.execSidtM m s
  | .lgdtM m => Sys2Proof.Machine.execLgdtM m s
  | .lidtM m => Sys2Proof.Machine.execLidtM m s
  | .smswEw rm => Sys2Proof.Machine.execSmswEw rm s
  | .lmswEw rm => Sys2Proof.Machine.execLmswEw rm s
  | .larGvEw r rm => Sys2Proof.Machine.execLarGvEw r rm s
  | .lslGvEw r rm => Sys2Proof.Machine.execLslGvEw r rm s
  | .movR32Crn r n => Sys2Proof.Machine.execMovR32Crn r n s
  | .movR32Drn r n => Sys2Proof.Machine.execMovR32Drn r n s
  | .movCrnR32 n r => Sys2Proof.Machine.execMovCrnR32 n r s
  | .movDrnR32 n r => Sys2Proof.Machine.execMovDrnR32 n r s
  | .movR32Trn r n => Sys2Proof.Machine.execMovR32Trn r n s
  | .movTrnR32 n r => Sys2Proof.Machine.execMovTrnR32 n r s
  | .btEvGv rm r => Sys2Proof.Machine.execBtEvGv rm r s
  | .shldEvGvIb rm r imm => Sys2Proof.Machine.execShldEvGvIb rm r imm s
  | .shldEvGvCl rm r => Sys2Proof.Machine.execShldEvGvCl rm r s
  | .btsEvGv rm r => Sys2Proof.Machine.execBtsEvGv rm r s
  | .shrdEvGvIb rm r imm => Sys2Proof.Machine.execShrdEvGvIb rm r imm s
  | .shrdEvGvCl rm r => Sys2Proof.Machine.execShrdEvGvCl rm r s
  | .imulGvEv r rm => Sys2Proof.Machine.execImulGvEv r rm s
  | .lssGvMp r m => Sys2Proof.Machine.execLssGvMp r m s
  | .btrEvGv rm r => Sys2Proof.Machine.execBtrEvGv rm r s
  | .lfsGvMp r m => Sys2Proof.Machine.execLfsGvMp r m s
  | .lgsGvMp r m => Sys2Proof.Machine.execLgsGvMp r m s
  | .movzxGvEb r rm => Sys2Proof.Machine.execMovzxGvEb r rm s
  | .movzxGvEw r rm => Sys2Proof.Machine.execMovzxGvEw r rm s
  | .btEvIb rm imm => Sys2Proof.Machine.execBtEvIb rm imm s
  | .btsEvIb rm imm => Sys2Proof.Machine.execBtsEvIb rm imm s
  | .btrEvIb rm imm => Sys2Proof.Machine.execBtrEvIb rm imm s
  | .btcEvIb rm imm => Sys2Proof.Machine.execBtcEvIb rm imm s
  | .btcEvGv rm r => Sys2Proof.Machine.execBtcEvGv rm r s
  | .bsfGvEv r rm => Sys2Proof.Machine.execBsfGvEv r rm s
  | .bsrGvEv r rm => Sys2Proof.Machine.execBsrGvEv r rm s
  | .movsxGvEb r rm => Sys2Proof.Machine.execMovsxGvEb r rm s
  | .movsxGvEw r rm => Sys2Proof.Machine.execMovsxGvEw r rm s
  | .pushEs => Sys2Proof.Machine.execPushEs s
  | .pushCs => Sys2Proof.Machine.execPushCs s
  | .pushSs => Sys2Proof.Machine.execPushSs s
  | .pushDs => Sys2Proof.Machine.execPushDs s
  | .pushFs => Sys2Proof.Machine.execPushFs s
  | .pushGs => Sys2Proof.Machine.execPushGs s
  | .popEs => Sys2Proof.Machine.execPopEs s
  | .popSs => Sys2Proof.Machine.execPopSs s
  | .popDs => Sys2Proof.Machine.execPopDs s
  | .popFs => Sys2Proof.Machine.execPopFs s
  | .popGs => Sys2Proof.Machine.execPopGs s
  | .daa => Sys2Proof.Machine.execDaa s
  | .das => Sys2Proof.Machine.execDas s
  | .aaa => Sys2Proof.Machine.execAaa s
  | .aas => Sys2Proof.Machine.execAas s
  | .pusha => Sys2Proof.Machine.execPusha s
  | .pushad => Sys2Proof.Machine.execPushad s
  | .popa => Sys2Proof.Machine.execPopa s
  | .popad => Sys2Proof.Machine.execPopad s
  | .insb => Sys2Proof.Machine.execInsb s
  | .insw => Sys2Proof.Machine.execInsw s
  | .insd => Sys2Proof.Machine.execInsd s
  | .outsb => Sys2Proof.Machine.execOutsb s
  | .outsw => Sys2Proof.Machine.execOutsw s
  | .outsd => Sys2Proof.Machine.execOutsd s
  | .nop => Sys2Proof.Machine.execNop s
  | .xchgEaxEcx => Sys2Proof.Machine.execXchgEaxEcx s
  | .xchgEaxEdx => Sys2Proof.Machine.execXchgEaxEdx s
  | .xchgEaxEbx => Sys2Proof.Machine.execXchgEaxEbx s
  | .xchgEaxEsp => Sys2Proof.Machine.execXchgEaxEsp s
  | .xchgEaxEbp => Sys2Proof.Machine.execXchgEaxEbp s
  | .xchgEaxEsi => Sys2Proof.Machine.execXchgEaxEsi s
  | .xchgEaxEdi => Sys2Proof.Machine.execXchgEaxEdi s
  | .cbw => Sys2Proof.Machine.execCbw s
  | .cwde => Sys2Proof.Machine.execCwde s
  | .cwd => Sys2Proof.Machine.execCwd s
  | .cdq => Sys2Proof.Machine.execCdq s
  | .wait => Sys2Proof.Machine.execWait s
  | .pushf => Sys2Proof.Machine.execPushf s
  | .pushfd => Sys2Proof.Machine.execPushfd s
  | .popf => Sys2Proof.Machine.execPopf s
  | .popfd => Sys2Proof.Machine.execPopfd s
  | .sahf => Sys2Proof.Machine.execSahf s
  | .lahf => Sys2Proof.Machine.execLahf s
  | .movsb => Sys2Proof.Machine.execMovsb s
  | .movsw => Sys2Proof.Machine.execMovsw s
  | .movsd => Sys2Proof.Machine.execMovsd s
  | .cmpsb => Sys2Proof.Machine.execCmpsb s
  | .cmpsw => Sys2Proof.Machine.execCmpsw s
  | .cmpsd => Sys2Proof.Machine.execCmpsd s
  | .stosb => Sys2Proof.Machine.execStosb s
  | .stosw => Sys2Proof.Machine.execStosw s
  | .stosd => Sys2Proof.Machine.execStosd s
  | .lodsb => Sys2Proof.Machine.execLodsb s
  | .lodsw => Sys2Proof.Machine.execLodsw s
  | .lodsd => Sys2Proof.Machine.execLodsd s
  | .scasb => Sys2Proof.Machine.execScasb s
  | .scasw => Sys2Proof.Machine.execScasw s
  | .scasd => Sys2Proof.Machine.execScasd s
  | .retNear => Sys2Proof.Machine.execRetNear s
  | .leave => Sys2Proof.Machine.execLeave s
  | .retFar => Sys2Proof.Machine.execRetFar s
  | .int3 => Sys2Proof.Machine.execInt3 s
  | .into => Sys2Proof.Machine.execInto s
  | .iret => Sys2Proof.Machine.execIret s
  | .iretd => Sys2Proof.Machine.execIretd s
  | .xlat => Sys2Proof.Machine.execXlat s
  | .inAlDx => Sys2Proof.Machine.execInAlDx s
  | .inEaxDx => Sys2Proof.Machine.execInEaxDx s
  | .outDxAl => Sys2Proof.Machine.execOutDxAl s
  | .outDxEax => Sys2Proof.Machine.execOutDxEax s
  | .hlt => Sys2Proof.Machine.execHlt s
  | .cmc => Sys2Proof.Machine.execCmc s
  | .clc => Sys2Proof.Machine.execClc s
  | .stc => Sys2Proof.Machine.execStc s
  | .cli => Sys2Proof.Machine.execCli s
  | .sti => Sys2Proof.Machine.execSti s
  | .cld => Sys2Proof.Machine.execCld s
  | .std => Sys2Proof.Machine.execStd s
  | .clts => Sys2Proof.Machine.execClts s
  | .pfxEs => Sys2Proof.Machine.execPfxEs s
  | .pfxCs => Sys2Proof.Machine.execPfxCs s
  | .pfxSs => Sys2Proof.Machine.execPfxSs s
  | .pfxDs => Sys2Proof.Machine.execPfxDs s
  | .pfxFs => Sys2Proof.Machine.execPfxFs s
  | .pfxGs => Sys2Proof.Machine.execPfxGs s
  | .pfxOpSize => Sys2Proof.Machine.execPfxOpSize s
  | .pfxAddrSize => Sys2Proof.Machine.execPfxAddrSize s
  | .pfxLock => Sys2Proof.Machine.execPfxLock s
  | .pfxRepne => Sys2Proof.Machine.execPfxRepne s
  | .pfxRep => Sys2Proof.Machine.execPfxRep s
  | .undef82 => Sys2Proof.Machine.execUndef82 s
  | .undefD6 => Sys2Proof.Machine.execUndefD6 s
  | .undefF1 => Sys2Proof.Machine.execUndefF1 s

end Sys2Proof.Machine
end

