-- ==== Sys2Proof/WellFormed.lean ====
section
/-! DEFINITION. WellFormed.lean: which terms of `Instr` stand for an encoding of 30_encoding.md under given
operand-size and address-size attributes: a memory form of the address size (R321 to R323), an immediate that
fits the operand size (R327), a `moffs` that fits the address size (R328), and the size that selects between two
mnemonics of one opcode (`selected_by` of spec/opcode_table.json). -/

namespace Sys2Proof

/-- The memory form exists under that address size, and is not one whose bits mean another form (R321: base BP
needs a displacement; R322: base ESP is the SIB form, base EBP needs a displacement; R323: the same for the SIB
base EBP). -/
def Mem.wf (asz : Size) : Mem → Bool
  | .abs16 _ => asz == .s16
  | .ind16 b d => asz == .s16 && !(b == .bp && d == .none)
  | .abs32 _ => asz == .s32
  | .ind32 b d => asz == .s32 && !(b == .esp) && !(b == .ebp && d == .none)
  | .sib _ _ b d => asz == .s32 && !(b == .ebp && d == .none)
  | .sibAbs _ _ _ => asz == .s32

/-- The r/m operand exists under that address size. -/
def RM.wf (asz : Size) : RM → Bool
  | .reg _ => true
  | .mem m => m.wf asz

/-- A value of size `sz` held zero-extended in 32 bits (R327, R328). -/
def fits (sz : Size) (v : Word32) : Bool :=
  match sz with
  | .s16 => decide (v.toNat < 65536)
  | .s32 => true

/-- The instruction has an encoding under the operand size `osz` and the address size `asz`. -/
def Instr.wf (osz asz : Size) : Instr → Bool
  | .addEbGb rm _ => rm.wf asz
  | .addEvGv rm _ => rm.wf asz
  | .addGbEb _ rm => rm.wf asz
  | .addGvEv _ rm => rm.wf asz
  | .addAlIb _ => true
  | .addEaxIv imm => fits osz imm
  | .addEbIb rm _ => rm.wf asz
  | .addEvIv rm imm => rm.wf asz && fits osz imm
  | .addEvIb rm _ => rm.wf asz
  | .orEbGb rm _ => rm.wf asz
  | .orEvGv rm _ => rm.wf asz
  | .orGbEb _ rm => rm.wf asz
  | .orGvEv _ rm => rm.wf asz
  | .orAlIb _ => true
  | .orEaxIv imm => fits osz imm
  | .orEbIb rm _ => rm.wf asz
  | .orEvIv rm imm => rm.wf asz && fits osz imm
  | .orEvIb rm _ => rm.wf asz
  | .adcEbGb rm _ => rm.wf asz
  | .adcEvGv rm _ => rm.wf asz
  | .adcGbEb _ rm => rm.wf asz
  | .adcGvEv _ rm => rm.wf asz
  | .adcAlIb _ => true
  | .adcEaxIv imm => fits osz imm
  | .adcEbIb rm _ => rm.wf asz
  | .adcEvIv rm imm => rm.wf asz && fits osz imm
  | .adcEvIb rm _ => rm.wf asz
  | .sbbEbGb rm _ => rm.wf asz
  | .sbbEvGv rm _ => rm.wf asz
  | .sbbGbEb _ rm => rm.wf asz
  | .sbbGvEv _ rm => rm.wf asz
  | .sbbAlIb _ => true
  | .sbbEaxIv imm => fits osz imm
  | .sbbEbIb rm _ => rm.wf asz
  | .sbbEvIv rm imm => rm.wf asz && fits osz imm
  | .sbbEvIb rm _ => rm.wf asz
  | .andEbGb rm _ => rm.wf asz
  | .andEvGv rm _ => rm.wf asz
  | .andGbEb _ rm => rm.wf asz
  | .andGvEv _ rm => rm.wf asz
  | .andAlIb _ => true
  | .andEaxIv imm => fits osz imm
  | .andEbIb rm _ => rm.wf asz
  | .andEvIv rm imm => rm.wf asz && fits osz imm
  | .andEvIb rm _ => rm.wf asz
  | .subEbGb rm _ => rm.wf asz
  | .subEvGv rm _ => rm.wf asz
  | .subGbEb _ rm => rm.wf asz
  | .subGvEv _ rm => rm.wf asz
  | .subAlIb _ => true
  | .subEaxIv imm => fits osz imm
  | .subEbIb rm _ => rm.wf asz
  | .subEvIv rm imm => rm.wf asz && fits osz imm
  | .subEvIb rm _ => rm.wf asz
  | .xorEbGb rm _ => rm.wf asz
  | .xorEvGv rm _ => rm.wf asz
  | .xorGbEb _ rm => rm.wf asz
  | .xorGvEv _ rm => rm.wf asz
  | .xorAlIb _ => true
  | .xorEaxIv imm => fits osz imm
  | .xorEbIb rm _ => rm.wf asz
  | .xorEvIv rm imm => rm.wf asz && fits osz imm
  | .xorEvIb rm _ => rm.wf asz
  | .cmpEbGb rm _ => rm.wf asz
  | .cmpEvGv rm _ => rm.wf asz
  | .cmpGbEb _ rm => rm.wf asz
  | .cmpGvEv _ rm => rm.wf asz
  | .cmpAlIb _ => true
  | .cmpEaxIv imm => fits osz imm
  | .cmpEbIb rm _ => rm.wf asz
  | .cmpEvIv rm imm => rm.wf asz && fits osz imm
  | .cmpEvIb rm _ => rm.wf asz
  | .incRv _ => true
  | .decRv _ => true
  | .pushRv _ => true
  | .popRv _ => true
  | .boundGvMa _ m => m.wf asz
  | .arplEwGw rm _ => rm.wf asz
  | .pushIv imm => fits osz imm
  | .imulGvEvIv _ rm imm => rm.wf asz && fits osz imm
  | .pushIb _ => true
  | .imulGvEvIb _ rm _ => rm.wf asz
  | .jo (.short _) => true
  | .jo (.near imm) => fits osz imm
  | .jno (.short _) => true
  | .jno (.near imm) => fits osz imm
  | .jb (.short _) => true
  | .jb (.near imm) => fits osz imm
  | .jae (.short _) => true
  | .jae (.near imm) => fits osz imm
  | .je (.short _) => true
  | .je (.near imm) => fits osz imm
  | .jne (.short _) => true
  | .jne (.near imm) => fits osz imm
  | .jbe (.short _) => true
  | .jbe (.near imm) => fits osz imm
  | .ja (.short _) => true
  | .ja (.near imm) => fits osz imm
  | .js (.short _) => true
  | .js (.near imm) => fits osz imm
  | .jns (.short _) => true
  | .jns (.near imm) => fits osz imm
  | .jp (.short _) => true
  | .jp (.near imm) => fits osz imm
  | .jnp (.short _) => true
  | .jnp (.near imm) => fits osz imm
  | .jl (.short _) => true
  | .jl (.near imm) => fits osz imm
  | .jge (.short _) => true
  | .jge (.near imm) => fits osz imm
  | .jle (.short _) => true
  | .jle (.near imm) => fits osz imm
  | .jg (.short _) => true
  | .jg (.near imm) => fits osz imm
  | .setoEb rm => rm.wf asz
  | .setnoEb rm => rm.wf asz
  | .setbEb rm => rm.wf asz
  | .setaeEb rm => rm.wf asz
  | .seteEb rm => rm.wf asz
  | .setneEb rm => rm.wf asz
  | .setbeEb rm => rm.wf asz
  | .setaEb rm => rm.wf asz
  | .setsEb rm => rm.wf asz
  | .setnsEb rm => rm.wf asz
  | .setpEb rm => rm.wf asz
  | .setnpEb rm => rm.wf asz
  | .setlEb rm => rm.wf asz
  | .setgeEb rm => rm.wf asz
  | .setleEb rm => rm.wf asz
  | .setgEb rm => rm.wf asz
  | .testEbGb rm _ => rm.wf asz
  | .testEvGv rm _ => rm.wf asz
  | .xchgEbGb rm _ => rm.wf asz
  | .xchgEvGv rm _ => rm.wf asz
  | .movEbGb rm _ => rm.wf asz
  | .movEvGv rm _ => rm.wf asz
  | .movGbEb _ rm => rm.wf asz
  | .movGvEv _ rm => rm.wf asz
  | .movEwSreg rm _ => rm.wf asz
  | .leaGvM _ m => m.wf asz
  | .movSregEw _ rm => rm.wf asz
  | .popEv rm => rm.wf asz
  | .callApFar off _ => fits osz off
  | .movAlOb off => fits asz off
  | .movEaxOv off => fits asz off
  | .movObAl off => fits asz off
  | .movOvEax off => fits asz off
  | .testAlIb _ => true
  | .testEaxIv imm => fits osz imm
  | .movR8Ib _ _ => true
  | .movRvIv _ imm => fits osz imm
  | .rolEb rm _ => rm.wf asz
  | .rolEv rm _ => rm.wf asz
  | .rorEb rm _ => rm.wf asz
  | .rorEv rm _ => rm.wf asz
  | .rclEb rm _ => rm.wf asz
  | .rclEv rm _ => rm.wf asz
  | .rcrEb rm _ => rm.wf asz
  | .rcrEv rm _ => rm.wf asz
  | .shlEb rm _ => rm.wf asz
  | .shlEv rm _ => rm.wf asz
  | .shrEb rm _ => rm.wf asz
  | .shrEv rm _ => rm.wf asz
  | .sarEb rm _ => rm.wf asz
  | .sarEv rm _ => rm.wf asz
  | .retIwNear _ => true
  | .lesGvMp _ m => m.wf asz
  | .ldsGvMp _ m => m.wf asz
  | .movEbIb rm _ => rm.wf asz
  | .movEvIv rm imm => rm.wf asz && fits osz imm
  | .enterIwIb _ _ => true
  | .retIwFar _ => true
  | .intIb _ => true
  | .aamIb _ => true
  | .aadIb _ => true
  | .esc _ _ rm => rm.wf asz
  | .loopneJb _ => true
  | .loopeJb _ => true
  | .loopJb _ => true
  | .jcxzJb _ => asz == .s16
  | .jecxzJb _ => asz == .s32
  | .inAlIb _ => true
  | .inEaxIb _ => true
  | .outIbAl _ => true
  | .outIbEax _ => true
  | .callJvNear imm => fits osz imm
  | .jmpJvNear imm => fits osz imm
  | .jmpApFar off _ => fits osz off
  | .jmpJbShort _ => true
  | .testEbIb rm _ => rm.wf asz
  | .testEvIv rm imm => rm.wf asz && fits osz imm
  | .notEb rm => rm.wf asz
  | .notEv rm => rm.wf asz
  | .negEb rm => rm.wf asz
  | .negEv rm => rm.wf asz
  | .mulEb rm => rm.wf asz
  | .mulEv rm => rm.wf asz
  | .imulEb rm => rm.wf asz
  | .imulEv rm => rm.wf asz
  | .divEb rm => rm.wf asz
  | .divEv rm => rm.wf asz
  | .idivEb rm => rm.wf asz
  | .idivEv rm => rm.wf asz
  | .incEb rm => rm.wf asz
  | .decEb rm => rm.wf asz
  | .incEv rm => rm.wf asz
  | .decEv rm => rm.wf asz
  | .callEvNear rm => rm.wf asz
  | .callMpFar m => m.wf asz
  | .jmpEvNear rm => rm.wf asz
  | .jmpMpFar m => m.wf asz
  | .pushEv rm => rm.wf asz
  | .sldtEw rm => rm.wf asz
  | .strEw rm => rm.wf asz
  | .lldtEw rm => rm.wf asz
  | .ltrEw rm => rm.wf asz
  | .verrEw rm => rm.wf asz
  | .verwEw rm => rm.wf asz
  | .sgdtM m => m.wf asz
  | .sidtM m => m.wf asz
  | .lgdtM m => m.wf asz
  | .lidtM m => m.wf asz
  | .smswEw rm => rm.wf asz
  | .lmswEw rm => rm.wf asz
  | .larGvEw _ rm => rm.wf asz
  | .lslGvEw _ rm => rm.wf asz
  | .movR32Crn _ _ => true
  | .movR32Drn _ _ => true
  | .movCrnR32 _ _ => true
  | .movDrnR32 _ _ => true
  | .movR32Trn _ _ => true
  | .movTrnR32 _ _ => true
  | .btEvGv rm _ => rm.wf asz
  | .shldEvGvIb rm _ _ => rm.wf asz
  | .shldEvGvCl rm _ => rm.wf asz
  | .btsEvGv rm _ => rm.wf asz
  | .shrdEvGvIb rm _ _ => rm.wf asz
  | .shrdEvGvCl rm _ => rm.wf asz
  | .imulGvEv _ rm => rm.wf asz
  | .lssGvMp _ m => m.wf asz
  | .btrEvGv rm _ => rm.wf asz
  | .lfsGvMp _ m => m.wf asz
  | .lgsGvMp _ m => m.wf asz
  | .movzxGvEb _ rm => rm.wf asz
  | .movzxGvEw _ rm => rm.wf asz
  | .btEvIb rm _ => rm.wf asz
  | .btsEvIb rm _ => rm.wf asz
  | .btrEvIb rm _ => rm.wf asz
  | .btcEvIb rm _ => rm.wf asz
  | .btcEvGv rm _ => rm.wf asz
  | .bsfGvEv _ rm => rm.wf asz
  | .bsrGvEv _ rm => rm.wf asz
  | .movsxGvEb _ rm => rm.wf asz
  | .movsxGvEw _ rm => rm.wf asz
  | .pushEs => true
  | .pushCs => true
  | .pushSs => true
  | .pushDs => true
  | .pushFs => true
  | .pushGs => true
  | .popEs => true
  | .popSs => true
  | .popDs => true
  | .popFs => true
  | .popGs => true
  | .daa => true
  | .das => true
  | .aaa => true
  | .aas => true
  | .pusha => osz == .s16
  | .pushad => osz == .s32
  | .popa => osz == .s16
  | .popad => osz == .s32
  | .insb => true
  | .insw => osz == .s16
  | .insd => osz == .s32
  | .outsb => true
  | .outsw => osz == .s16
  | .outsd => osz == .s32
  | .nop => true
  | .xchgEaxEcx => true
  | .xchgEaxEdx => true
  | .xchgEaxEbx => true
  | .xchgEaxEsp => true
  | .xchgEaxEbp => true
  | .xchgEaxEsi => true
  | .xchgEaxEdi => true
  | .cbw => osz == .s16
  | .cwde => osz == .s32
  | .cwd => osz == .s16
  | .cdq => osz == .s32
  | .wait => true
  | .pushf => osz == .s16
  | .pushfd => osz == .s32
  | .popf => osz == .s16
  | .popfd => osz == .s32
  | .sahf => true
  | .lahf => true
  | .movsb => true
  | .movsw => osz == .s16
  | .movsd => osz == .s32
  | .cmpsb => true
  | .cmpsw => osz == .s16
  | .cmpsd => osz == .s32
  | .stosb => true
  | .stosw => osz == .s16
  | .stosd => osz == .s32
  | .lodsb => true
  | .lodsw => osz == .s16
  | .lodsd => osz == .s32
  | .scasb => true
  | .scasw => osz == .s16
  | .scasd => osz == .s32
  | .retNear => true
  | .leave => true
  | .retFar => true
  | .int3 => true
  | .into => true
  | .iret => osz == .s16
  | .iretd => osz == .s32
  | .xlat => true
  | .inAlDx => true
  | .inEaxDx => true
  | .outDxAl => true
  | .outDxEax => true
  | .hlt => true
  | .cmc => true
  | .clc => true
  | .stc => true
  | .cli => true
  | .sti => true
  | .cld => true
  | .std => true
  | .clts => true
  | .pfxEs => true
  | .pfxCs => true
  | .pfxSs => true
  | .pfxDs => true
  | .pfxFs => true
  | .pfxGs => true
  | .pfxOpSize => true
  | .pfxAddrSize => true
  | .pfxLock => true
  | .pfxRepne => true
  | .pfxRep => true
  | .undef82 => true
  | .undefD6 => true
  | .undefF1 => true

end Sys2Proof
end

