-- ==== Sys2Proof/Decode.lean ====
section
/-! DEFINITION. Decode.lean: reading an instruction from its bytes (30_encoding.md R312 to R331, R350 to R355) and
writing it back. `decode` is total on any list of bytes: it answers an instruction (a prefix byte is one, R312)
with the bytes left over, or says by name why it does not. `encode` is written from the same tables. -/

namespace Sys2Proof

/-- Why no instruction was read. -/
inductive DecodeStop where
  /-- The bytes end before the instruction does: one more must be fetched (R315). -/
  | more
  /-- The opcode is one that R350 to R352 mark undefined or do not list (R353). -/
  | undefinedOpcode
  /-- A register operand where the instruction needs memory (R354). -/
  | registerForm
  deriving DecidableEq, Repr

/-- A reader of instruction bytes. -/
abbrev Parser := StateT (List Byte) (Except DecodeStop)

/-- The next byte of the instruction stream. -/
def nextByte : Parser Byte := fun bs =>
  match bs with
  | [] => .error .more
  | b :: bs => .ok (b, bs)

/-- Stop reading, with the reason. -/
def stopDecode {α : Type} (why : DecodeStop) : Parser α := fun _ => .error why

/-- A 16-bit immediate or displacement, low byte first (20_memory.md R103). -/
def word16 : Parser Word16 := do
  let b0 ← nextByte
  let b1 ← nextByte
  return b1 ++ b0

/-- A 32-bit immediate or displacement, low byte first (20_memory.md R103). -/
def word32 : Parser Word32 := do
  let b0 ← nextByte
  let b1 ← nextByte
  let b2 ← nextByte
  let b3 ← nextByte
  return b3 ++ (b2 ++ (b1 ++ b0))

/-- A value of that size, zero-extended to 32 bits (R327: 2 bytes when the size is 16, 4 when it is 32). -/
def wordV (sz : Size) : Parser Word32 :=
  match sz with
  | .s16 => do
    let v ← word16
    return v.setWidth 32
  | .s32 => word32

/-- The general register of an encoding number (10_state.md R33). -/
def Reg.ofBits (n : BitVec 3) : Reg :=
  match n.toNat with
  | 0 => .eax | 1 => .ecx | 2 => .edx | 3 => .ebx | 4 => .esp | 5 => .ebp | 6 => .esi | _ => .edi

/-- The encoding number of a general register (10_state.md R33). -/
def Reg.toBits : Reg → BitVec 3
  | .eax => 0 | .ecx => 1 | .edx => 2 | .ebx => 3 | .esp => 4 | .ebp => 5 | .esi => 6 | .edi => 7

/-- The 16-bit form of an r/m number (R321). -/
def Base16.ofBits (n : BitVec 3) : Base16 :=
  match n.toNat with
  | 0 => .bxSi | 1 => .bxDi | 2 => .bpSi | 3 => .bpDi | 4 => .si | 5 => .di | 6 => .bp | _ => .bx

/-- The r/m number of a 16-bit form (R321). -/
def Base16.toBits : Base16 → BitVec 3
  | .bxSi => 0 | .bxDi => 1 | .bpSi => 2 | .bpDi => 3 | .si => 4 | .di => 5 | .bp => 6 | .bx => 7

/-- Bits 7:6, the `mod` field of ModR/M or the `ss` field of SIB (R320). -/
def hiField (b : Byte) : BitVec 2 := b.extractLsb' 6 2
/-- Bits 5:3, the `reg` field of ModR/M or the `index` field of SIB (R320). -/
def midField (b : Byte) : BitVec 3 := b.extractLsb' 3 3
/-- Bits 2:0, the `r/m` field of ModR/M or the `base` field of SIB (R320). -/
def lowField (b : Byte) : BitVec 3 := b.extractLsb' 0 3
/-- The byte with those three fields (R320). -/
def packFields (hi : BitVec 2) (mid low : BitVec 3) : Byte := hi ++ (mid ++ low)

/-- The displacement a 16-bit form's `mod` asks for (R321). -/
def disp16 (m : BitVec 2) : Parser Disp16 :=
  match m.toNat with
  | 0 => return .none
  | 1 => do
    let v ← nextByte
    return .d8 v
  | _ => do
    let v ← word16
    return .d16 v

/-- The displacement a 32-bit form's `mod` asks for (R322). -/
def disp32 (m : BitVec 2) : Parser Disp32 :=
  match m.toNat with
  | 0 => return .none
  | 1 => do
    let v ← nextByte
    return .d8 v
  | _ => do
    let v ← word32
    return .d32 v

/-- The memory form after a ModR/M byte with that mod (not 3) and r/m (R321, R322, R323). -/
def memForm (asz : Size) (m : BitVec 2) (rm : BitVec 3) : Parser Mem :=
  match asz with
  | .s16 =>
    if m = 0 ∧ rm = 6 then do
      let d ← word16
      return .abs16 d
    else do
      let d ← disp16 m
      return .ind16 (Base16.ofBits rm) d
  | .s32 =>
    if rm = 4 then do
      let s ← nextByte
      if m = 0 ∧ lowField s = 5 then do
        let d ← word32
        return .sibAbs (hiField s) (Reg.ofBits (midField s)) d
      else do
        let d ← disp32 m
        return .sib (hiField s) (Reg.ofBits (midField s)) (Reg.ofBits (lowField s)) d
    else if m = 0 ∧ rm = 5 then do
      let d ← word32
      return .abs32 d
    else do
      let d ← disp32 m
      return .ind32 (Reg.ofBits rm) d

/-- The r/m operand of a ModR/M byte (R320). -/
def rmOperand (asz : Size) (b : Byte) : Parser RM :=
  if hiField b = 3 then return .reg (Reg.ofBits (lowField b))
  else do
    let m ← memForm asz (hiField b) (lowField b)
    return .mem m

/-- The r/m operand of a ModR/M byte where only memory is allowed (R354). -/
def memOperand (asz : Size) (b : Byte) : Parser Mem :=
  if hiField b = 3 then stopDecode .registerForm
  else memForm asz (hiField b) (lowField b)

/-- An undefined member of an opcode group (R353): its memory form is decoded before #UD is raised (R315, steps 4 and
6). -/
def undefinedMember (asz : Size) (b : Byte) : Parser Instr := do
  let _ ← rmOperand asz b
  stopDecode .undefinedOpcode

/-- The same in a group whose opcode takes an immediate byte (R315, step 5). -/
def undefinedMemberIb (asz : Size) (b : Byte) : Parser Instr := do
  let _ ← rmOperand asz b
  let _ ← nextByte
  stopDecode .undefinedOpcode

/-- The register named by the `reg` field of a ModR/M byte. -/
def regField (b : Byte) : Reg := Reg.ofBits (midField b)

/-- The instruction whose two-byte opcode is 0FH and that byte (R352), with the operands that follow it. -/
def decodeTwoByte (osz asz : Size) (op : Byte) : Parser Instr :=
  match op.toNat with
  | 0x00 => do
    let b ← nextByte
    match (midField b).toNat with
    | 0 => do
      let rm ← rmOperand asz b
      return .sldtEw rm
    | 1 => do
      let rm ← rmOperand asz b
      return .strEw rm
    | 2 => do
      let rm ← rmOperand asz b
      return .lldtEw rm
    | 3 => do
      let rm ← rmOperand asz b
      return .ltrEw rm
    | 4 => do
      let rm ← rmOperand asz b
      return .verrEw rm
    | 5 => do
      let rm ← rmOperand asz b
      return .verwEw rm
    | _ => undefinedMember asz b
  | 0x01 => do
    let b ← nextByte
    match (midField b).toNat with
    | 0 => do
      let m ← memOperand asz b
      return .sgdtM m
    | 1 => do
      let m ← memOperand asz b
      return .sidtM m
    | 2 => do
      let m ← memOperand asz b
      return .lgdtM m
    | 3 => do
      let m ← memOperand asz b
      return .lidtM m
    | 4 => do
      let rm ← rmOperand asz b
      return .smswEw rm
    | 6 => do
      let rm ← rmOperand asz b
      return .lmswEw rm
    | _ => undefinedMember asz b
  | 0x02 => do
    let b ← nextByte
    let rm ← rmOperand asz b
    return .larGvEw (regField b) rm
  | 0x03 => do
    let b ← nextByte
    let rm ← rmOperand asz b
    return .lslGvEw (regField b) rm
  | 0x06 => return .clts
  | 0x20 => do
    let b ← nextByte
    return .movR32Crn (Reg.ofBits (lowField b)) (midField b)
  | 0x21 => do
    let b ← nextByte
    return .movR32Drn (Reg.ofBits (lowField b)) (midField b)
  | 0x22 => do
    let b ← nextByte
    return .movCrnR32 (midField b) (Reg.ofBits (lowField b))
  | 0x23 => do
    let b ← nextByte
    return .movDrnR32 (midField b) (Reg.ofBits (lowField b))
  | 0x24 => do
    let b ← nextByte
    return .movR32Trn (Reg.ofBits (lowField b)) (midField b)
  | 0x26 => do
    let b ← nextByte
    return .movTrnR32 (midField b) (Reg.ofBits (lowField b))
  | 0x80 => do
    let imm ← wordV osz
    return .jo (.near imm)
  | 0x81 => do
    let imm ← wordV osz
    return .jno (.near imm)
  | 0x82 => do
    let imm ← wordV osz
    return .jb (.near imm)
  | 0x83 => do
    let imm ← wordV osz
    return .jae (.near imm)
  | 0x84 => do
    let imm ← wordV osz
    return .je (.near imm)
  | 0x85 => do
    let imm ← wordV osz
    return .jne (.near imm)
  | 0x86 => do
    let imm ← wordV osz
    return .jbe (.near imm)
  | 0x87 => do
    let imm ← wordV osz
    return .ja (.near imm)
  | 0x88 => do
    let imm ← wordV osz
    return .js (.near imm)
  | 0x89 => do
    let imm ← wordV osz
    return .jns (.near imm)
  | 0x8A => do
    let imm ← wordV osz
    return .jp (.near imm)
  | 0x8B => do
    let imm ← wordV osz
    return .jnp (.near imm)
  | 0x8C => do
    let imm ← wordV osz
    return .jl (.near imm)
  | 0x8D => do
    let imm ← wordV osz
    return .jge (.near imm)
  | 0x8E => do
    let imm ← wordV osz
    return .jle (.near imm)
  | 0x8F => do
    let imm ← wordV osz
    return .jg (.near imm)
  | 0x90 => do
    let b ← nextByte
    let rm ← rmOperand asz b
    return .setoEb rm
  | 0x91 => do
    let b ← nextByte
    let rm ← rmOperand asz b
    return .setnoEb rm
  | 0x92 => do
    let b ← nextByte
    let rm ← rmOperand asz b
    return .setbEb rm
  | 0x93 => do
    let b ← nextByte
    let rm ← rmOperand asz b
    return .setaeEb rm
  | 0x94 => do
    let b ← nextByte
    let rm ← rmOperand asz b
    return .seteEb rm
  | 0x95 => do
    let b ← nextByte
    let rm ← rmOperand asz b
    return .setneEb rm
  | 0x96 => do
    let b ← nextByte
    let rm ← rmOperand asz b
    return .setbeEb rm
  | 0x97 => do
    let b ← nextByte
    let rm ← rmOperand asz b
    return .setaEb rm
  | 0x98 => do
    let b ← nextByte
    let rm ← rmOperand asz b
    return .setsEb rm
  | 0x99 => do
    let b ← nextByte
    let rm ← rmOperand asz b
    return .setnsEb rm
  | 0x9A => do
    let b ← nextByte
    let rm ← rmOperand asz b
    return .setpEb rm
  | 0x9B => do
    let b ← nextByte
    let rm ← rmOperand asz b
    return .setnpEb rm
  | 0x9C => do
    let b ← nextByte
    let rm ← rmOperand asz b
    return .setlEb rm
  | 0x9D => do
    let b ← nextByte
    let rm ← rmOperand asz b
    return .setgeEb rm
  | 0x9E => do
    let b ← nextByte
    let rm ← rmOperand asz b
    return .setleEb rm
  | 0x9F => do
    let b ← nextByte
    let rm ← rmOperand asz b
    return .setgEb rm
  | 0xA0 => return .pushFs
  | 0xA1 => return .popFs
  | 0xA3 => do
    let b ← nextByte
    let rm ← rmOperand asz b
    return .btEvGv rm (regField b)
  | 0xA4 => do
    let b ← nextByte
    let rm ← rmOperand asz b
    let imm ← nextByte
    return .shldEvGvIb rm (regField b) imm
  | 0xA5 => do
    let b ← nextByte
    let rm ← rmOperand asz b
    return .shldEvGvCl rm (regField b)
  | 0xA8 => return .pushGs
  | 0xA9 => return .popGs
  | 0xAB => do
    let b ← nextByte
    let rm ← rmOperand asz b
    return .btsEvGv rm (regField b)
  | 0xAC => do
    let b ← nextByte
    let rm ← rmOperand asz b
    let imm ← nextByte
    return .shrdEvGvIb rm (regField b) imm
  | 0xAD => do
    let b ← nextByte
    let rm ← rmOperand asz b
    return .shrdEvGvCl rm (regField b)
  | 0xAF => do
    let b ← nextByte
    let rm ← rmOperand asz b
    return .imulGvEv (regField b) rm
  | 0xB2 => do
    let b ← nextByte
    let m ← memOperand asz b
    return .lssGvMp (regField b) m
  | 0xB3 => do
    let b ← nextByte
    let rm ← rmOperand asz b
    return .btrEvGv rm (regField b)
  | 0xB4 => do
    let b ← nextByte
    let m ← memOperand asz b
    return .lfsGvMp (regField b) m
  | 0xB5 => do
    let b ← nextByte
    let m ← memOperand asz b
    return .lgsGvMp (regField b) m
  | 0xB6 => do
    let b ← nextByte
    let rm ← rmOperand asz b
    return .movzxGvEb (regField b) rm
  | 0xB7 => do
    let b ← nextByte
    let rm ← rmOperand asz b
    return .movzxGvEw (regField b) rm
  | 0xBA => do
    let b ← nextByte
    match (midField b).toNat with
    | 4 => do
      let rm ← rmOperand asz b
      let imm ← nextByte
      return .btEvIb rm imm
    | 5 => do
      let rm ← rmOperand asz b
      let imm ← nextByte
      return .btsEvIb rm imm
    | 6 => do
      let rm ← rmOperand asz b
      let imm ← nextByte
      return .btrEvIb rm imm
    | 7 => do
      let rm ← rmOperand asz b
      let imm ← nextByte
      return .btcEvIb rm imm
    | _ => undefinedMemberIb asz b
  | 0xBB => do
    let b ← nextByte
    let rm ← rmOperand asz b
    return .btcEvGv rm (regField b)
  | 0xBC => do
    let b ← nextByte
    let rm ← rmOperand asz b
    return .bsfGvEv (regField b) rm
  | 0xBD => do
    let b ← nextByte
    let rm ← rmOperand asz b
    return .bsrGvEv (regField b) rm
  | 0xBE => do
    let b ← nextByte
    let rm ← rmOperand asz b
    return .movsxGvEb (regField b) rm
  | 0xBF => do
    let b ← nextByte
    let rm ← rmOperand asz b
    return .movsxGvEw (regField b) rm
  | _ => stopDecode .undefinedOpcode

/-- The instruction whose opcode begins with that byte, one below 80H (R350, R351), with the operands that follow it. -/
def decodeLow (osz asz : Size) (op : Byte) : Parser Instr :=
  match op.toNat with
  | 0x0F => do
    let b ← nextByte
    decodeTwoByte osz asz b
  | 0x00 => do
    let b ← nextByte
    let rm ← rmOperand asz b
    return .addEbGb rm (regField b)
  | 0x01 => do
    let b ← nextByte
    let rm ← rmOperand asz b
    return .addEvGv rm (regField b)
  | 0x02 => do
    let b ← nextByte
    let rm ← rmOperand asz b
    return .addGbEb (regField b) rm
  | 0x03 => do
    let b ← nextByte
    let rm ← rmOperand asz b
    return .addGvEv (regField b) rm
  | 0x04 => do
    let imm ← nextByte
    return .addAlIb imm
  | 0x05 => do
    let imm ← wordV osz
    return .addEaxIv imm
  | 0x06 => return .pushEs
  | 0x07 => return .popEs
  | 0x08 => do
    let b ← nextByte
    let rm ← rmOperand asz b
    return .orEbGb rm (regField b)
  | 0x09 => do
    let b ← nextByte
    let rm ← rmOperand asz b
    return .orEvGv rm (regField b)
  | 0x0A => do
    let b ← nextByte
    let rm ← rmOperand asz b
    return .orGbEb (regField b) rm
  | 0x0B => do
    let b ← nextByte
    let rm ← rmOperand asz b
    return .orGvEv (regField b) rm
  | 0x0C => do
    let imm ← nextByte
    return .orAlIb imm
  | 0x0D => do
    let imm ← wordV osz
    return .orEaxIv imm
  | 0x0E => return .pushCs
  | 0x10 => do
    let b ← nextByte
    let rm ← rmOperand asz b
    return .adcEbGb rm (regField b)
  | 0x11 => do
    let b ← nextByte
    let rm ← rmOperand asz b
    return .adcEvGv rm (regField b)
  | 0x12 => do
    let b ← nextByte
    let rm ← rmOperand asz b
    return .adcGbEb (regField b) rm
  | 0x13 => do
    let b ← nextByte
    let rm ← rmOperand asz b
    return .adcGvEv (regField b) rm
  | 0x14 => do
    let imm ← nextByte
    return .adcAlIb imm
  | 0x15 => do
    let imm ← wordV osz
    return .adcEaxIv imm
  | 0x16 => return .pushSs
  | 0x17 => return .popSs
  | 0x18 => do
    let b ← nextByte
    let rm ← rmOperand asz b
    return .sbbEbGb rm (regField b)
  | 0x19 => do
    let b ← nextByte
    let rm ← rmOperand asz b
    return .sbbEvGv rm (regField b)
  | 0x1A => do
    let b ← nextByte
    let rm ← rmOperand asz b
    return .sbbGbEb (regField b) rm
  | 0x1B => do
    let b ← nextByte
    let rm ← rmOperand asz b
    return .sbbGvEv (regField b) rm
  | 0x1C => do
    let imm ← nextByte
    return .sbbAlIb imm
  | 0x1D => do
    let imm ← wordV osz
    return .sbbEaxIv imm
  | 0x1E => return .pushDs
  | 0x1F => return .popDs
  | 0x20 => do
    let b ← nextByte
    let rm ← rmOperand asz b
    return .andEbGb rm (regField b)
  | 0x21 => do
    let b ← nextByte
    let rm ← rmOperand asz b
    return .andEvGv rm (regField b)
  | 0x22 => do
    let b ← nextByte
    let rm ← rmOperand asz b
    return .andGbEb (regField b) rm
  | 0x23 => do
    let b ← nextByte
    let rm ← rmOperand asz b
    return .andGvEv (regField b) rm
  | 0x24 => do
    let imm ← nextByte
    return .andAlIb imm
  | 0x25 => do
    let imm ← wordV osz
    return .andEaxIv imm
  | 0x26 => return .pfxEs
  | 0x27 => return .daa
  | 0x28 => do
    let b ← nextByte
    let rm ← rmOperand asz b
    return .subEbGb rm (regField b)
  | 0x29 => do
    let b ← nextByte
    let rm ← rmOperand asz b
    return .subEvGv rm (regField b)
  | 0x2A => do
    let b ← nextByte
    let rm ← rmOperand asz b
    return .subGbEb (regField b) rm
  | 0x2B => do
    let b ← nextByte
    let rm ← rmOperand asz b
    return .subGvEv (regField b) rm
  | 0x2C => do
    let imm ← nextByte
    return .subAlIb imm
  | 0x2D => do
    let imm ← wordV osz
    return .subEaxIv imm
  | 0x2E => return .pfxCs
  | 0x2F => return .das
  | 0x30 => do
    let b ← nextByte
    let rm ← rmOperand asz b
    return .xorEbGb rm (regField b)
  | 0x31 => do
    let b ← nextByte
    let rm ← rmOperand asz b
    return .xorEvGv rm (regField b)
  | 0x32 => do
    let b ← nextByte
    let rm ← rmOperand asz b
    return .xorGbEb (regField b) rm
  | 0x33 => do
    let b ← nextByte
    let rm ← rmOperand asz b
    return .xorGvEv (regField b) rm
  | 0x34 => do
    let imm ← nextByte
    return .xorAlIb imm
  | 0x35 => do
    let imm ← wordV osz
    return .xorEaxIv imm
  | 0x36 => return .pfxSs
  | 0x37 => return .aaa
  | 0x38 => do
    let b ← nextByte
    let rm ← rmOperand asz b
    return .cmpEbGb rm (regField b)
  | 0x39 => do
    let b ← nextByte
    let rm ← rmOperand asz b
    return .cmpEvGv rm (regField b)
  | 0x3A => do
    let b ← nextByte
    let rm ← rmOperand asz b
    return .cmpGbEb (regField b) rm
  | 0x3B => do
    let b ← nextByte
    let rm ← rmOperand asz b
    return .cmpGvEv (regField b) rm
  | 0x3C => do
    let imm ← nextByte
    return .cmpAlIb imm
  | 0x3D => do
    let imm ← wordV osz
    return .cmpEaxIv imm
  | 0x3E => return .pfxDs
  | 0x3F => return .aas
  | 0x40 => return .incRv .eax
  | 0x41 => return .incRv .ecx
  | 0x42 => return .incRv .edx
  | 0x43 => return .incRv .ebx
  | 0x44 => return .incRv .esp
  | 0x45 => return .incRv .ebp
  | 0x46 => return .incRv .esi
  | 0x47 => return .incRv .edi
  | 0x48 => return .decRv .eax
  | 0x49 => return .decRv .ecx
  | 0x4A => return .decRv .edx
  | 0x4B => return .decRv .ebx
  | 0x4C => return .decRv .esp
  | 0x4D => return .decRv .ebp
  | 0x4E => return .decRv .esi
  | 0x4F => return .decRv .edi
  | 0x50 => return .pushRv .eax
  | 0x51 => return .pushRv .ecx
  | 0x52 => return .pushRv .edx
  | 0x53 => return .pushRv .ebx
  | 0x54 => return .pushRv .esp
  | 0x55 => return .pushRv .ebp
  | 0x56 => return .pushRv .esi
  | 0x57 => return .pushRv .edi
  | 0x58 => return .popRv .eax
  | 0x59 => return .popRv .ecx
  | 0x5A => return .popRv .edx
  | 0x5B => return .popRv .ebx
  | 0x5C => return .popRv .esp
  | 0x5D => return .popRv .ebp
  | 0x5E => return .popRv .esi
  | 0x5F => return .popRv .edi
  | 0x60 => return if osz = .s16 then .pusha else .pushad
  | 0x61 => return if osz = .s16 then .popa else .popad
  | 0x62 => do
    let b ← nextByte
    let m ← memOperand asz b
    return .boundGvMa (regField b) m
  | 0x63 => do
    let b ← nextByte
    let rm ← rmOperand asz b
    return .arplEwGw rm (regField b)
  | 0x64 => return .pfxFs
  | 0x65 => return .pfxGs
  | 0x66 => return .pfxOpSize
  | 0x67 => return .pfxAddrSize
  | 0x68 => do
    let imm ← wordV osz
    return .pushIv imm
  | 0x69 => do
    let b ← nextByte
    let rm ← rmOperand asz b
    let imm ← wordV osz
    return .imulGvEvIv (regField b) rm imm
  | 0x6A => do
    let imm ← nextByte
    return .pushIb imm
  | 0x6B => do
    let b ← nextByte
    let rm ← rmOperand asz b
    let imm ← nextByte
    return .imulGvEvIb (regField b) rm imm
  | 0x6C => return .insb
  | 0x6D => return if osz = .s16 then .insw else .insd
  | 0x6E => return .outsb
  | 0x6F => return if osz = .s16 then .outsw else .outsd
  | 0x70 => do
    let imm ← nextByte
    return .jo (.short imm)
  | 0x71 => do
    let imm ← nextByte
    return .jno (.short imm)
  | 0x72 => do
    let imm ← nextByte
    return .jb (.short imm)
  | 0x73 => do
    let imm ← nextByte
    return .jae (.short imm)
  | 0x74 => do
    let imm ← nextByte
    return .je (.short imm)
  | 0x75 => do
    let imm ← nextByte
    return .jne (.short imm)
  | 0x76 => do
    let imm ← nextByte
    return .jbe (.short imm)
  | 0x77 => do
    let imm ← nextByte
    return .ja (.short imm)
  | 0x78 => do
    let imm ← nextByte
    return .js (.short imm)
  | 0x79 => do
    let imm ← nextByte
    return .jns (.short imm)
  | 0x7A => do
    let imm ← nextByte
    return .jp (.short imm)
  | 0x7B => do
    let imm ← nextByte
    return .jnp (.short imm)
  | 0x7C => do
    let imm ← nextByte
    return .jl (.short imm)
  | 0x7D => do
    let imm ← nextByte
    return .jge (.short imm)
  | 0x7E => do
    let imm ← nextByte
    return .jle (.short imm)
  | 0x7F => do
    let imm ← nextByte
    return .jg (.short imm)
  | _ => stopDecode .undefinedOpcode

/-- The same for a byte from 80H on. -/
def decodeHigh (osz asz : Size) (op : Byte) : Parser Instr :=
  match op.toNat with
  | 0x80 => do
    let b ← nextByte
    match (midField b).toNat with
    | 0 => do
      let rm ← rmOperand asz b
      let imm ← nextByte
      return .addEbIb rm imm
    | 1 => do
      let rm ← rmOperand asz b
      let imm ← nextByte
      return .orEbIb rm imm
    | 2 => do
      let rm ← rmOperand asz b
      let imm ← nextByte
      return .adcEbIb rm imm
    | 3 => do
      let rm ← rmOperand asz b
      let imm ← nextByte
      return .sbbEbIb rm imm
    | 4 => do
      let rm ← rmOperand asz b
      let imm ← nextByte
      return .andEbIb rm imm
    | 5 => do
      let rm ← rmOperand asz b
      let imm ← nextByte
      return .subEbIb rm imm
    | 6 => do
      let rm ← rmOperand asz b
      let imm ← nextByte
      return .xorEbIb rm imm
    | 7 => do
      let rm ← rmOperand asz b
      let imm ← nextByte
      return .cmpEbIb rm imm
    | _ => stopDecode .undefinedOpcode
  | 0x81 => do
    let b ← nextByte
    match (midField b).toNat with
    | 0 => do
      let rm ← rmOperand asz b
      let imm ← wordV osz
      return .addEvIv rm imm
    | 1 => do
      let rm ← rmOperand asz b
      let imm ← wordV osz
      return .orEvIv rm imm
    | 2 => do
      let rm ← rmOperand asz b
      let imm ← wordV osz
      return .adcEvIv rm imm
    | 3 => do
      let rm ← rmOperand asz b
      let imm ← wordV osz
      return .sbbEvIv rm imm
    | 4 => do
      let rm ← rmOperand asz b
      let imm ← wordV osz
      return .andEvIv rm imm
    | 5 => do
      let rm ← rmOperand asz b
      let imm ← wordV osz
      return .subEvIv rm imm
    | 6 => do
      let rm ← rmOperand asz b
      let imm ← wordV osz
      return .xorEvIv rm imm
    | 7 => do
      let rm ← rmOperand asz b
      let imm ← wordV osz
      return .cmpEvIv rm imm
    | _ => stopDecode .undefinedOpcode
  | 0x82 => return .undef82
  | 0x83 => do
    let b ← nextByte
    match (midField b).toNat with
    | 0 => do
      let rm ← rmOperand asz b
      let imm ← nextByte
      return .addEvIb rm imm
    | 1 => do
      let rm ← rmOperand asz b
      let imm ← nextByte
      return .orEvIb rm imm
    | 2 => do
      let rm ← rmOperand asz b
      let imm ← nextByte
      return .adcEvIb rm imm
    | 3 => do
      let rm ← rmOperand asz b
      let imm ← nextByte
      return .sbbEvIb rm imm
    | 4 => do
      let rm ← rmOperand asz b
      let imm ← nextByte
      return .andEvIb rm imm
    | 5 => do
      let rm ← rmOperand asz b
      let imm ← nextByte
      return .subEvIb rm imm
    | 6 => do
      let rm ← rmOperand asz b
      let imm ← nextByte
      return .xorEvIb rm imm
    | 7 => do
      let rm ← rmOperand asz b
      let imm ← nextByte
      return .cmpEvIb rm imm
    | _ => stopDecode .undefinedOpcode
  | 0x84 => do
    let b ← nextByte
    let rm ← rmOperand asz b
    return .testEbGb rm (regField b)
  | 0x85 => do
    let b ← nextByte
    let rm ← rmOperand asz b
    return .testEvGv rm (regField b)
  | 0x86 => do
    let b ← nextByte
    let rm ← rmOperand asz b
    return .xchgEbGb rm (regField b)
  | 0x87 => do
    let b ← nextByte
    let rm ← rmOperand asz b
    return .xchgEvGv rm (regField b)
  | 0x88 => do
    let b ← nextByte
    let rm ← rmOperand asz b
    return .movEbGb rm (regField b)
  | 0x89 => do
    let b ← nextByte
    let rm ← rmOperand asz b
    return .movEvGv rm (regField b)
  | 0x8A => do
    let b ← nextByte
    let rm ← rmOperand asz b
    return .movGbEb (regField b) rm
  | 0x8B => do
    let b ← nextByte
    let rm ← rmOperand asz b
    return .movGvEv (regField b) rm
  | 0x8C => do
    let b ← nextByte
    let rm ← rmOperand asz b
    return .movEwSreg rm (midField b)
  | 0x8D => do
    let b ← nextByte
    let m ← memOperand asz b
    return .leaGvM (regField b) m
  | 0x8E => do
    let b ← nextByte
    let rm ← rmOperand asz b
    return .movSregEw (midField b) rm
  | 0x8F => do
    let b ← nextByte
    match (midField b).toNat with
    | 0 => do
      let rm ← rmOperand asz b
      return .popEv rm
    | _ => undefinedMember asz b
  | 0x90 => return .nop
  | 0x91 => return .xchgEaxEcx
  | 0x92 => return .xchgEaxEdx
  | 0x93 => return .xchgEaxEbx
  | 0x94 => return .xchgEaxEsp
  | 0x95 => return .xchgEaxEbp
  | 0x96 => return .xchgEaxEsi
  | 0x97 => return .xchgEaxEdi
  | 0x98 => return if osz = .s16 then .cbw else .cwde
  | 0x99 => return if osz = .s16 then .cwd else .cdq
  | 0x9A => do
    let off ← wordV osz
    let sel ← word16
    return .callApFar off sel
  | 0x9B => return .wait
  | 0x9C => return if osz = .s16 then .pushf else .pushfd
  | 0x9D => return if osz = .s16 then .popf else .popfd
  | 0x9E => return .sahf
  | 0x9F => return .lahf
  | 0xA0 => do
    let off ← wordV asz
    return .movAlOb off
  | 0xA1 => do
    let off ← wordV asz
    return .movEaxOv off
  | 0xA2 => do
    let off ← wordV asz
    return .movObAl off
  | 0xA3 => do
    let off ← wordV asz
    return .movOvEax off
  | 0xA4 => return .movsb
  | 0xA5 => return if osz = .s16 then .movsw else .movsd
  | 0xA6 => return .cmpsb
  | 0xA7 => return if osz = .s16 then .cmpsw else .cmpsd
  | 0xA8 => do
    let imm ← nextByte
    return .testAlIb imm
  | 0xA9 => do
    let imm ← wordV osz
    return .testEaxIv imm
  | 0xAA => return .stosb
  | 0xAB => return if osz = .s16 then .stosw else .stosd
  | 0xAC => return .lodsb
  | 0xAD => return if osz = .s16 then .lodsw else .lodsd
  | 0xAE => return .scasb
  | 0xAF => return if osz = .s16 then .scasw else .scasd
  | 0xB0 => do
    let imm ← nextByte
    return .movR8Ib .eax imm
  | 0xB1 => do
    let imm ← nextByte
    return .movR8Ib .ecx imm
  | 0xB2 => do
    let imm ← nextByte
    return .movR8Ib .edx imm
  | 0xB3 => do
    let imm ← nextByte
    return .movR8Ib .ebx imm
  | 0xB4 => do
    let imm ← nextByte
    return .movR8Ib .esp imm
  | 0xB5 => do
    let imm ← nextByte
    return .movR8Ib .ebp imm
  | 0xB6 => do
    let imm ← nextByte
    return .movR8Ib .esi imm
  | 0xB7 => do
    let imm ← nextByte
    return .movR8Ib .edi imm
  | 0xB8 => do
    let imm ← wordV osz
    return .movRvIv .eax imm
  | 0xB9 => do
    let imm ← wordV osz
    return .movRvIv .ecx imm
  | 0xBA => do
    let imm ← wordV osz
    return .movRvIv .edx imm
  | 0xBB => do
    let imm ← wordV osz
    return .movRvIv .ebx imm
  | 0xBC => do
    let imm ← wordV osz
    return .movRvIv .esp imm
  | 0xBD => do
    let imm ← wordV osz
    return .movRvIv .ebp imm
  | 0xBE => do
    let imm ← wordV osz
    return .movRvIv .esi imm
  | 0xBF => do
    let imm ← wordV osz
    return .movRvIv .edi imm
  | 0xC0 => do
    let b ← nextByte
    match (midField b).toNat with
    | 0 => do
      let rm ← rmOperand asz b
      let imm ← nextByte
      return .rolEb rm (.imm imm)
    | 1 => do
      let rm ← rmOperand asz b
      let imm ← nextByte
      return .rorEb rm (.imm imm)
    | 2 => do
      let rm ← rmOperand asz b
      let imm ← nextByte
      return .rclEb rm (.imm imm)
    | 3 => do
      let rm ← rmOperand asz b
      let imm ← nextByte
      return .rcrEb rm (.imm imm)
    | 4 => do
      let rm ← rmOperand asz b
      let imm ← nextByte
      return .shlEb rm (.imm imm)
    | 5 => do
      let rm ← rmOperand asz b
      let imm ← nextByte
      return .shrEb rm (.imm imm)
    | 7 => do
      let rm ← rmOperand asz b
      let imm ← nextByte
      return .sarEb rm (.imm imm)
    | _ => undefinedMemberIb asz b
  | 0xC1 => do
    let b ← nextByte
    match (midField b).toNat with
    | 0 => do
      let rm ← rmOperand asz b
      let imm ← nextByte
      return .rolEv rm (.imm imm)
    | 1 => do
      let rm ← rmOperand asz b
      let imm ← nextByte
      return .rorEv rm (.imm imm)
    | 2 => do
      let rm ← rmOperand asz b
      let imm ← nextByte
      return .rclEv rm (.imm imm)
    | 3 => do
      let rm ← rmOperand asz b
      let imm ← nextByte
      return .rcrEv rm (.imm imm)
    | 4 => do
      let rm ← rmOperand asz b
      let imm ← nextByte
      return .shlEv rm (.imm imm)
    | 5 => do
      let rm ← rmOperand asz b
      let imm ← nextByte
      return .shrEv rm (.imm imm)
    | 7 => do
      let rm ← rmOperand asz b
      let imm ← nextByte
      return .sarEv rm (.imm imm)
    | _ => undefinedMemberIb asz b
  | 0xC2 => do
    let imm ← word16
    return .retIwNear imm
  | 0xC3 => return .retNear
  | 0xC4 => do
    let b ← nextByte
    let m ← memOperand asz b
    return .lesGvMp (regField b) m
  | 0xC5 => do
    let b ← nextByte
    let m ← memOperand asz b
    return .ldsGvMp (regField b) m
  | 0xC6 => do
    let b ← nextByte
    match (midField b).toNat with
    | 0 => do
      let rm ← rmOperand asz b
      let imm ← nextByte
      return .movEbIb rm imm
    | _ => undefinedMember asz b
  | 0xC7 => do
    let b ← nextByte
    match (midField b).toNat with
    | 0 => do
      let rm ← rmOperand asz b
      let imm ← wordV osz
      return .movEvIv rm imm
    | _ => undefinedMember asz b
  | 0xC8 => do
    let size ← word16
    let level ← nextByte
    return .enterIwIb size level
  | 0xC9 => return .leave
  | 0xCA => do
    let imm ← word16
    return .retIwFar imm
  | 0xCB => return .retFar
  | 0xCC => return .int3
  | 0xCD => do
    let imm ← nextByte
    return .intIb imm
  | 0xCE => return .into
  | 0xCF => return if osz = .s16 then .iret else .iretd
  | 0xD0 => do
    let b ← nextByte
    match (midField b).toNat with
    | 0 => do
      let rm ← rmOperand asz b
      return .rolEb rm .one
    | 1 => do
      let rm ← rmOperand asz b
      return .rorEb rm .one
    | 2 => do
      let rm ← rmOperand asz b
      return .rclEb rm .one
    | 3 => do
      let rm ← rmOperand asz b
      return .rcrEb rm .one
    | 4 => do
      let rm ← rmOperand asz b
      return .shlEb rm .one
    | 5 => do
      let rm ← rmOperand asz b
      return .shrEb rm .one
    | 7 => do
      let rm ← rmOperand asz b
      return .sarEb rm .one
    | _ => undefinedMember asz b
  | 0xD1 => do
    let b ← nextByte
    match (midField b).toNat with
    | 0 => do
      let rm ← rmOperand asz b
      return .rolEv rm .one
    | 1 => do
      let rm ← rmOperand asz b
      return .rorEv rm .one
    | 2 => do
      let rm ← rmOperand asz b
      return .rclEv rm .one
    | 3 => do
      let rm ← rmOperand asz b
      return .rcrEv rm .one
    | 4 => do
      let rm ← rmOperand asz b
      return .shlEv rm .one
    | 5 => do
      let rm ← rmOperand asz b
      return .shrEv rm .one
    | 7 => do
      let rm ← rmOperand asz b
      return .sarEv rm .one
    | _ => undefinedMember asz b
  | 0xD2 => do
    let b ← nextByte
    match (midField b).toNat with
    | 0 => do
      let rm ← rmOperand asz b
      return .rolEb rm .cl
    | 1 => do
      let rm ← rmOperand asz b
      return .rorEb rm .cl
    | 2 => do
      let rm ← rmOperand asz b
      return .rclEb rm .cl
    | 3 => do
      let rm ← rmOperand asz b
      return .rcrEb rm .cl
    | 4 => do
      let rm ← rmOperand asz b
      return .shlEb rm .cl
    | 5 => do
      let rm ← rmOperand asz b
      return .shrEb rm .cl
    | 7 => do
      let rm ← rmOperand asz b
      return .sarEb rm .cl
    | _ => undefinedMember asz b
  | 0xD3 => do
    let b ← nextByte
    match (midField b).toNat with
    | 0 => do
      let rm ← rmOperand asz b
      return .rolEv rm .cl
    | 1 => do
      let rm ← rmOperand asz b
      return .rorEv rm .cl
    | 2 => do
      let rm ← rmOperand asz b
      return .rclEv rm .cl
    | 3 => do
      let rm ← rmOperand asz b
      return .rcrEv rm .cl
    | 4 => do
      let rm ← rmOperand asz b
      return .shlEv rm .cl
    | 5 => do
      let rm ← rmOperand asz b
      return .shrEv rm .cl
    | 7 => do
      let rm ← rmOperand asz b
      return .sarEv rm .cl
    | _ => undefinedMember asz b
  | 0xD4 => do
    let imm ← nextByte
    return .aamIb imm
  | 0xD5 => do
    let imm ← nextByte
    return .aadIb imm
  | 0xD6 => return .undefD6
  | 0xD7 => return .xlat
  | 0xD8 => do
    let b ← nextByte
    let rm ← rmOperand asz b
    return .esc 0 (midField b) rm
  | 0xD9 => do
    let b ← nextByte
    let rm ← rmOperand asz b
    return .esc 1 (midField b) rm
  | 0xDA => do
    let b ← nextByte
    let rm ← rmOperand asz b
    return .esc 2 (midField b) rm
  | 0xDB => do
    let b ← nextByte
    let rm ← rmOperand asz b
    return .esc 3 (midField b) rm
  | 0xDC => do
    let b ← nextByte
    let rm ← rmOperand asz b
    return .esc 4 (midField b) rm
  | 0xDD => do
    let b ← nextByte
    let rm ← rmOperand asz b
    return .esc 5 (midField b) rm
  | 0xDE => do
    let b ← nextByte
    let rm ← rmOperand asz b
    return .esc 6 (midField b) rm
  | 0xDF => do
    let b ← nextByte
    let rm ← rmOperand asz b
    return .esc 7 (midField b) rm
  | 0xE0 => do
    let imm ← nextByte
    return .loopneJb imm
  | 0xE1 => do
    let imm ← nextByte
    return .loopeJb imm
  | 0xE2 => do
    let imm ← nextByte
    return .loopJb imm
  | 0xE3 => do
    let imm ← nextByte
    return if asz = .s16 then .jcxzJb imm else .jecxzJb imm
  | 0xE4 => do
    let imm ← nextByte
    return .inAlIb imm
  | 0xE5 => do
    let imm ← nextByte
    return .inEaxIb imm
  | 0xE6 => do
    let imm ← nextByte
    return .outIbAl imm
  | 0xE7 => do
    let imm ← nextByte
    return .outIbEax imm
  | 0xE8 => do
    let imm ← wordV osz
    return .callJvNear imm
  | 0xE9 => do
    let imm ← wordV osz
    return .jmpJvNear imm
  | 0xEA => do
    let off ← wordV osz
    let sel ← word16
    return .jmpApFar off sel
  | 0xEB => do
    let imm ← nextByte
    return .jmpJbShort imm
  | 0xEC => return .inAlDx
  | 0xED => return .inEaxDx
  | 0xEE => return .outDxAl
  | 0xEF => return .outDxEax
  | 0xF0 => return .pfxLock
  | 0xF1 => return .undefF1
  | 0xF2 => return .pfxRepne
  | 0xF3 => return .pfxRep
  | 0xF4 => return .hlt
  | 0xF5 => return .cmc
  | 0xF6 => do
    let b ← nextByte
    match (midField b).toNat with
    | 0 => do
      let rm ← rmOperand asz b
      let imm ← nextByte
      return .testEbIb rm imm
    | 2 => do
      let rm ← rmOperand asz b
      return .notEb rm
    | 3 => do
      let rm ← rmOperand asz b
      return .negEb rm
    | 4 => do
      let rm ← rmOperand asz b
      return .mulEb rm
    | 5 => do
      let rm ← rmOperand asz b
      return .imulEb rm
    | 6 => do
      let rm ← rmOperand asz b
      return .divEb rm
    | 7 => do
      let rm ← rmOperand asz b
      return .idivEb rm
    | _ => undefinedMember asz b
  | 0xF7 => do
    let b ← nextByte
    match (midField b).toNat with
    | 0 => do
      let rm ← rmOperand asz b
      let imm ← wordV osz
      return .testEvIv rm imm
    | 2 => do
      let rm ← rmOperand asz b
      return .notEv rm
    | 3 => do
      let rm ← rmOperand asz b
      return .negEv rm
    | 4 => do
      let rm ← rmOperand asz b
      return .mulEv rm
    | 5 => do
      let rm ← rmOperand asz b
      return .imulEv rm
    | 6 => do
      let rm ← rmOperand asz b
      return .divEv rm
    | 7 => do
      let rm ← rmOperand asz b
      return .idivEv rm
    | _ => undefinedMember asz b
  | 0xF8 => return .clc
  | 0xF9 => return .stc
  | 0xFA => return .cli
  | 0xFB => return .sti
  | 0xFC => return .cld
  | 0xFD => return .std
  | 0xFE => do
    let b ← nextByte
    match (midField b).toNat with
    | 0 => do
      let rm ← rmOperand asz b
      return .incEb rm
    | 1 => do
      let rm ← rmOperand asz b
      return .decEb rm
    | _ => undefinedMember asz b
  | 0xFF => do
    let b ← nextByte
    match (midField b).toNat with
    | 0 => do
      let rm ← rmOperand asz b
      return .incEv rm
    | 1 => do
      let rm ← rmOperand asz b
      return .decEv rm
    | 2 => do
      let rm ← rmOperand asz b
      return .callEvNear rm
    | 3 => do
      let m ← memOperand asz b
      return .callMpFar m
    | 4 => do
      let rm ← rmOperand asz b
      return .jmpEvNear rm
    | 5 => do
      let m ← memOperand asz b
      return .jmpMpFar m
    | 6 => do
      let rm ← rmOperand asz b
      return .pushEv rm
    | _ => undefinedMember asz b
  | _ => stopDecode .undefinedOpcode

/-- The instruction whose opcode begins with that byte (R350, R351), with the operands that follow it. -/
def decodeOpcode (osz asz : Size) (op : Byte) : Parser Instr :=
  if op.toNat < 0x80 then decodeLow osz asz op else decodeHigh osz asz op

/-- Read one instruction, or one prefix byte, under the size attributes in force (R315). -/
def decode (osz asz : Size) : Parser Instr := do
  let op ← nextByte
  decodeOpcode osz asz op

/-! ## The encoder -/

/-- The bytes of a 16-bit value, low byte first. -/
def bytes16 (v : Word16) : List Byte := [v.extractLsb' 0 8, v.extractLsb' 8 8]

/-- The bytes of a 32-bit value, low byte first. -/
def bytes32 (v : Word32) : List Byte :=
  [v.extractLsb' 0 8, v.extractLsb' 8 8, v.extractLsb' 16 8, v.extractLsb' 24 8]

/-- The bytes of a value of that size held in 32 bits (R327). -/
def bytesV (sz : Size) (v : Word32) : List Byte :=
  match sz with
  | .s16 => bytes16 (v.setWidth 16)
  | .s32 => bytes32 v

/-- The `mod` field of a 16-bit displacement. -/
def Disp16.mod : Disp16 → BitVec 2
  | .none => 0 | .d8 _ => 1 | .d16 _ => 2

/-- The bytes of a 16-bit displacement. -/
def Disp16.bytes : Disp16 → List Byte
  | .none => [] | .d8 v => [v] | .d16 v => bytes16 v

/-- The `mod` field of a 32-bit displacement. -/
def Disp32.mod : Disp32 → BitVec 2
  | .none => 0 | .d8 _ => 1 | .d32 _ => 2

/-- The bytes of a 32-bit displacement. -/
def Disp32.bytes : Disp32 → List Byte
  | .none => [] | .d8 v => [v] | .d32 v => bytes32 v

/-- ModR/M, SIB and displacement of a memory form with that `reg` field (R320 to R323). -/
def encodeMem (g : BitVec 3) : Mem → List Byte
  | .abs16 d => packFields 0 g 6 :: bytes16 d
  | .ind16 b d => packFields d.mod g b.toBits :: d.bytes
  | .abs32 d => packFields 0 g 5 :: bytes32 d
  | .ind32 b d => packFields d.mod g b.toBits :: d.bytes
  | .sib s i b d => packFields d.mod g 4 :: packFields s i.toBits b.toBits :: d.bytes
  | .sibAbs s i d => packFields 0 g 4 :: packFields s i.toBits 5 :: bytes32 d

/-- ModR/M, SIB and displacement of an r/m operand with that `reg` field (R320). -/
def encodeRM (g : BitVec 3) : RM → List Byte
  | .reg r => [packFields 3 g r.toBits]
  | .mem m => encodeMem g m

/-- The bytes of a well-formed instruction under the size attributes (R312, R350 to R352). -/
def encode (osz asz : Size) : Instr → List Byte
  | .addEbGb rm r => 0x00 :: encodeRM r.toBits rm
  | .addEvGv rm r => 0x01 :: encodeRM r.toBits rm
  | .addGbEb r rm => 0x02 :: encodeRM r.toBits rm
  | .addGvEv r rm => 0x03 :: encodeRM r.toBits rm
  | .addAlIb imm => 0x04 :: [imm]
  | .addEaxIv imm => 0x05 :: bytesV osz imm
  | .addEbIb rm imm => 0x80 :: (encodeRM 0 rm ++ [imm])
  | .addEvIv rm imm => 0x81 :: (encodeRM 0 rm ++ bytesV osz imm)
  | .addEvIb rm imm => 0x83 :: (encodeRM 0 rm ++ [imm])
  | .orEbGb rm r => 0x08 :: encodeRM r.toBits rm
  | .orEvGv rm r => 0x09 :: encodeRM r.toBits rm
  | .orGbEb r rm => 0x0A :: encodeRM r.toBits rm
  | .orGvEv r rm => 0x0B :: encodeRM r.toBits rm
  | .orAlIb imm => 0x0C :: [imm]
  | .orEaxIv imm => 0x0D :: bytesV osz imm
  | .orEbIb rm imm => 0x80 :: (encodeRM 1 rm ++ [imm])
  | .orEvIv rm imm => 0x81 :: (encodeRM 1 rm ++ bytesV osz imm)
  | .orEvIb rm imm => 0x83 :: (encodeRM 1 rm ++ [imm])
  | .adcEbGb rm r => 0x10 :: encodeRM r.toBits rm
  | .adcEvGv rm r => 0x11 :: encodeRM r.toBits rm
  | .adcGbEb r rm => 0x12 :: encodeRM r.toBits rm
  | .adcGvEv r rm => 0x13 :: encodeRM r.toBits rm
  | .adcAlIb imm => 0x14 :: [imm]
  | .adcEaxIv imm => 0x15 :: bytesV osz imm
  | .adcEbIb rm imm => 0x80 :: (encodeRM 2 rm ++ [imm])
  | .adcEvIv rm imm => 0x81 :: (encodeRM 2 rm ++ bytesV osz imm)
  | .adcEvIb rm imm => 0x83 :: (encodeRM 2 rm ++ [imm])
  | .sbbEbGb rm r => 0x18 :: encodeRM r.toBits rm
  | .sbbEvGv rm r => 0x19 :: encodeRM r.toBits rm
  | .sbbGbEb r rm => 0x1A :: encodeRM r.toBits rm
  | .sbbGvEv r rm => 0x1B :: encodeRM r.toBits rm
  | .sbbAlIb imm => 0x1C :: [imm]
  | .sbbEaxIv imm => 0x1D :: bytesV osz imm
  | .sbbEbIb rm imm => 0x80 :: (encodeRM 3 rm ++ [imm])
  | .sbbEvIv rm imm => 0x81 :: (encodeRM 3 rm ++ bytesV osz imm)
  | .sbbEvIb rm imm => 0x83 :: (encodeRM 3 rm ++ [imm])
  | .andEbGb rm r => 0x20 :: encodeRM r.toBits rm
  | .andEvGv rm r => 0x21 :: encodeRM r.toBits rm
  | .andGbEb r rm => 0x22 :: encodeRM r.toBits rm
  | .andGvEv r rm => 0x23 :: encodeRM r.toBits rm
  | .andAlIb imm => 0x24 :: [imm]
  | .andEaxIv imm => 0x25 :: bytesV osz imm
  | .andEbIb rm imm => 0x80 :: (encodeRM 4 rm ++ [imm])
  | .andEvIv rm imm => 0x81 :: (encodeRM 4 rm ++ bytesV osz imm)
  | .andEvIb rm imm => 0x83 :: (encodeRM 4 rm ++ [imm])
  | .subEbGb rm r => 0x28 :: encodeRM r.toBits rm
  | .subEvGv rm r => 0x29 :: encodeRM r.toBits rm
  | .subGbEb r rm => 0x2A :: encodeRM r.toBits rm
  | .subGvEv r rm => 0x2B :: encodeRM r.toBits rm
  | .subAlIb imm => 0x2C :: [imm]
  | .subEaxIv imm => 0x2D :: bytesV osz imm
  | .subEbIb rm imm => 0x80 :: (encodeRM 5 rm ++ [imm])
  | .subEvIv rm imm => 0x81 :: (encodeRM 5 rm ++ bytesV osz imm)
  | .subEvIb rm imm => 0x83 :: (encodeRM 5 rm ++ [imm])
  | .xorEbGb rm r => 0x30 :: encodeRM r.toBits rm
  | .xorEvGv rm r => 0x31 :: encodeRM r.toBits rm
  | .xorGbEb r rm => 0x32 :: encodeRM r.toBits rm
  | .xorGvEv r rm => 0x33 :: encodeRM r.toBits rm
  | .xorAlIb imm => 0x34 :: [imm]
  | .xorEaxIv imm => 0x35 :: bytesV osz imm
  | .xorEbIb rm imm => 0x80 :: (encodeRM 6 rm ++ [imm])
  | .xorEvIv rm imm => 0x81 :: (encodeRM 6 rm ++ bytesV osz imm)
  | .xorEvIb rm imm => 0x83 :: (encodeRM 6 rm ++ [imm])
  | .cmpEbGb rm r => 0x38 :: encodeRM r.toBits rm
  | .cmpEvGv rm r => 0x39 :: encodeRM r.toBits rm
  | .cmpGbEb r rm => 0x3A :: encodeRM r.toBits rm
  | .cmpGvEv r rm => 0x3B :: encodeRM r.toBits rm
  | .cmpAlIb imm => 0x3C :: [imm]
  | .cmpEaxIv imm => 0x3D :: bytesV osz imm
  | .cmpEbIb rm imm => 0x80 :: (encodeRM 7 rm ++ [imm])
  | .cmpEvIv rm imm => 0x81 :: (encodeRM 7 rm ++ bytesV osz imm)
  | .cmpEvIb rm imm => 0x83 :: (encodeRM 7 rm ++ [imm])
  | .incRv r => [(0x40 + r.toBits.setWidth 8)]
  | .decRv r => [(0x48 + r.toBits.setWidth 8)]
  | .pushRv r => [(0x50 + r.toBits.setWidth 8)]
  | .popRv r => [(0x58 + r.toBits.setWidth 8)]
  | .boundGvMa r m => 0x62 :: encodeMem r.toBits m
  | .arplEwGw rm r => 0x63 :: encodeRM r.toBits rm
  | .pushIv imm => 0x68 :: bytesV osz imm
  | .imulGvEvIv r rm imm => 0x69 :: (encodeRM r.toBits rm ++ bytesV osz imm)
  | .pushIb imm => 0x6A :: [imm]
  | .imulGvEvIb r rm imm => 0x6B :: (encodeRM r.toBits rm ++ [imm])
  | .jo (.short imm) => 0x70 :: [imm]
  | .jo (.near imm) => 0x0F :: 0x80 :: bytesV osz imm
  | .jno (.short imm) => 0x71 :: [imm]
  | .jno (.near imm) => 0x0F :: 0x81 :: bytesV osz imm
  | .jb (.short imm) => 0x72 :: [imm]
  | .jb (.near imm) => 0x0F :: 0x82 :: bytesV osz imm
  | .jae (.short imm) => 0x73 :: [imm]
  | .jae (.near imm) => 0x0F :: 0x83 :: bytesV osz imm
  | .je (.short imm) => 0x74 :: [imm]
  | .je (.near imm) => 0x0F :: 0x84 :: bytesV osz imm
  | .jne (.short imm) => 0x75 :: [imm]
  | .jne (.near imm) => 0x0F :: 0x85 :: bytesV osz imm
  | .jbe (.short imm) => 0x76 :: [imm]
  | .jbe (.near imm) => 0x0F :: 0x86 :: bytesV osz imm
  | .ja (.short imm) => 0x77 :: [imm]
  | .ja (.near imm) => 0x0F :: 0x87 :: bytesV osz imm
  | .js (.short imm) => 0x78 :: [imm]
  | .js (.near imm) => 0x0F :: 0x88 :: bytesV osz imm
  | .jns (.short imm) => 0x79 :: [imm]
  | .jns (.near imm) => 0x0F :: 0x89 :: bytesV osz imm
  | .jp (.short imm) => 0x7A :: [imm]
  | .jp (.near imm) => 0x0F :: 0x8A :: bytesV osz imm
  | .jnp (.short imm) => 0x7B :: [imm]
  | .jnp (.near imm) => 0x0F :: 0x8B :: bytesV osz imm
  | .jl (.short imm) => 0x7C :: [imm]
  | .jl (.near imm) => 0x0F :: 0x8C :: bytesV osz imm
  | .jge (.short imm) => 0x7D :: [imm]
  | .jge (.near imm) => 0x0F :: 0x8D :: bytesV osz imm
  | .jle (.short imm) => 0x7E :: [imm]
  | .jle (.near imm) => 0x0F :: 0x8E :: bytesV osz imm
  | .jg (.short imm) => 0x7F :: [imm]
  | .jg (.near imm) => 0x0F :: 0x8F :: bytesV osz imm
  | .setoEb rm => 0x0F :: 0x90 :: encodeRM 0 rm
  | .setnoEb rm => 0x0F :: 0x91 :: encodeRM 0 rm
  | .setbEb rm => 0x0F :: 0x92 :: encodeRM 0 rm
  | .setaeEb rm => 0x0F :: 0x93 :: encodeRM 0 rm
  | .seteEb rm => 0x0F :: 0x94 :: encodeRM 0 rm
  | .setneEb rm => 0x0F :: 0x95 :: encodeRM 0 rm
  | .setbeEb rm => 0x0F :: 0x96 :: encodeRM 0 rm
  | .setaEb rm => 0x0F :: 0x97 :: encodeRM 0 rm
  | .setsEb rm => 0x0F :: 0x98 :: encodeRM 0 rm
  | .setnsEb rm => 0x0F :: 0x99 :: encodeRM 0 rm
  | .setpEb rm => 0x0F :: 0x9A :: encodeRM 0 rm
  | .setnpEb rm => 0x0F :: 0x9B :: encodeRM 0 rm
  | .setlEb rm => 0x0F :: 0x9C :: encodeRM 0 rm
  | .setgeEb rm => 0x0F :: 0x9D :: encodeRM 0 rm
  | .setleEb rm => 0x0F :: 0x9E :: encodeRM 0 rm
  | .setgEb rm => 0x0F :: 0x9F :: encodeRM 0 rm
  | .testEbGb rm r => 0x84 :: encodeRM r.toBits rm
  | .testEvGv rm r => 0x85 :: encodeRM r.toBits rm
  | .xchgEbGb rm r => 0x86 :: encodeRM r.toBits rm
  | .xchgEvGv rm r => 0x87 :: encodeRM r.toBits rm
  | .movEbGb rm r => 0x88 :: encodeRM r.toBits rm
  | .movEvGv rm r => 0x89 :: encodeRM r.toBits rm
  | .movGbEb r rm => 0x8A :: encodeRM r.toBits rm
  | .movGvEv r rm => 0x8B :: encodeRM r.toBits rm
  | .movEwSreg rm n => 0x8C :: encodeRM n rm
  | .leaGvM r m => 0x8D :: encodeMem r.toBits m
  | .movSregEw n rm => 0x8E :: encodeRM n rm
  | .popEv rm => 0x8F :: encodeRM 0 rm
  | .callApFar off sel => 0x9A :: (bytesV osz off ++ bytes16 sel)
  | .movAlOb off => 0xA0 :: bytesV asz off
  | .movEaxOv off => 0xA1 :: bytesV asz off
  | .movObAl off => 0xA2 :: bytesV asz off
  | .movOvEax off => 0xA3 :: bytesV asz off
  | .testAlIb imm => 0xA8 :: [imm]
  | .testEaxIv imm => 0xA9 :: bytesV osz imm
  | .movR8Ib r imm => (0xB0 + r.toBits.setWidth 8) :: [imm]
  | .movRvIv r imm => (0xB8 + r.toBits.setWidth 8) :: bytesV osz imm
  | .rolEb rm (.imm imm) => 0xC0 :: (encodeRM 0 rm ++ [imm])
  | .rolEb rm .one => 0xD0 :: encodeRM 0 rm
  | .rolEb rm .cl => 0xD2 :: encodeRM 0 rm
  | .rolEv rm (.imm imm) => 0xC1 :: (encodeRM 0 rm ++ [imm])
  | .rolEv rm .one => 0xD1 :: encodeRM 0 rm
  | .rolEv rm .cl => 0xD3 :: encodeRM 0 rm
  | .rorEb rm (.imm imm) => 0xC0 :: (encodeRM 1 rm ++ [imm])
  | .rorEb rm .one => 0xD0 :: encodeRM 1 rm
  | .rorEb rm .cl => 0xD2 :: encodeRM 1 rm
  | .rorEv rm (.imm imm) => 0xC1 :: (encodeRM 1 rm ++ [imm])
  | .rorEv rm .one => 0xD1 :: encodeRM 1 rm
  | .rorEv rm .cl => 0xD3 :: encodeRM 1 rm
  | .rclEb rm (.imm imm) => 0xC0 :: (encodeRM 2 rm ++ [imm])
  | .rclEb rm .one => 0xD0 :: encodeRM 2 rm
  | .rclEb rm .cl => 0xD2 :: encodeRM 2 rm
  | .rclEv rm (.imm imm) => 0xC1 :: (encodeRM 2 rm ++ [imm])
  | .rclEv rm .one => 0xD1 :: encodeRM 2 rm
  | .rclEv rm .cl => 0xD3 :: encodeRM 2 rm
  | .rcrEb rm (.imm imm) => 0xC0 :: (encodeRM 3 rm ++ [imm])
  | .rcrEb rm .one => 0xD0 :: encodeRM 3 rm
  | .rcrEb rm .cl => 0xD2 :: encodeRM 3 rm
  | .rcrEv rm (.imm imm) => 0xC1 :: (encodeRM 3 rm ++ [imm])
  | .rcrEv rm .one => 0xD1 :: encodeRM 3 rm
  | .rcrEv rm .cl => 0xD3 :: encodeRM 3 rm
  | .shlEb rm (.imm imm) => 0xC0 :: (encodeRM 4 rm ++ [imm])
  | .shlEb rm .one => 0xD0 :: encodeRM 4 rm
  | .shlEb rm .cl => 0xD2 :: encodeRM 4 rm
  | .shlEv rm (.imm imm) => 0xC1 :: (encodeRM 4 rm ++ [imm])
  | .shlEv rm .one => 0xD1 :: encodeRM 4 rm
  | .shlEv rm .cl => 0xD3 :: encodeRM 4 rm
  | .shrEb rm (.imm imm) => 0xC0 :: (encodeRM 5 rm ++ [imm])
  | .shrEb rm .one => 0xD0 :: encodeRM 5 rm
  | .shrEb rm .cl => 0xD2 :: encodeRM 5 rm
  | .shrEv rm (.imm imm) => 0xC1 :: (encodeRM 5 rm ++ [imm])
  | .shrEv rm .one => 0xD1 :: encodeRM 5 rm
  | .shrEv rm .cl => 0xD3 :: encodeRM 5 rm
  | .sarEb rm (.imm imm) => 0xC0 :: (encodeRM 7 rm ++ [imm])
  | .sarEb rm .one => 0xD0 :: encodeRM 7 rm
  | .sarEb rm .cl => 0xD2 :: encodeRM 7 rm
  | .sarEv rm (.imm imm) => 0xC1 :: (encodeRM 7 rm ++ [imm])
  | .sarEv rm .one => 0xD1 :: encodeRM 7 rm
  | .sarEv rm .cl => 0xD3 :: encodeRM 7 rm
  | .retIwNear imm => 0xC2 :: bytes16 imm
  | .lesGvMp r m => 0xC4 :: encodeMem r.toBits m
  | .ldsGvMp r m => 0xC5 :: encodeMem r.toBits m
  | .movEbIb rm imm => 0xC6 :: (encodeRM 0 rm ++ [imm])
  | .movEvIv rm imm => 0xC7 :: (encodeRM 0 rm ++ bytesV osz imm)
  | .enterIwIb size level => 0xC8 :: (bytes16 size ++ [level])
  | .retIwFar imm => 0xCA :: bytes16 imm
  | .intIb imm => 0xCD :: [imm]
  | .aamIb imm => 0xD4 :: [imm]
  | .aadIb imm => 0xD5 :: [imm]
  | .esc op n rm => (0xD8 + op.setWidth 8) :: encodeRM n rm
  | .loopneJb imm => 0xE0 :: [imm]
  | .loopeJb imm => 0xE1 :: [imm]
  | .loopJb imm => 0xE2 :: [imm]
  | .jcxzJb imm => 0xE3 :: [imm]
  | .jecxzJb imm => 0xE3 :: [imm]
  | .inAlIb imm => 0xE4 :: [imm]
  | .inEaxIb imm => 0xE5 :: [imm]
  | .outIbAl imm => 0xE6 :: [imm]
  | .outIbEax imm => 0xE7 :: [imm]
  | .callJvNear imm => 0xE8 :: bytesV osz imm
  | .jmpJvNear imm => 0xE9 :: bytesV osz imm
  | .jmpApFar off sel => 0xEA :: (bytesV osz off ++ bytes16 sel)
  | .jmpJbShort imm => 0xEB :: [imm]
  | .testEbIb rm imm => 0xF6 :: (encodeRM 0 rm ++ [imm])
  | .testEvIv rm imm => 0xF7 :: (encodeRM 0 rm ++ bytesV osz imm)
  | .notEb rm => 0xF6 :: encodeRM 2 rm
  | .notEv rm => 0xF7 :: encodeRM 2 rm
  | .negEb rm => 0xF6 :: encodeRM 3 rm
  | .negEv rm => 0xF7 :: encodeRM 3 rm
  | .mulEb rm => 0xF6 :: encodeRM 4 rm
  | .mulEv rm => 0xF7 :: encodeRM 4 rm
  | .imulEb rm => 0xF6 :: encodeRM 5 rm
  | .imulEv rm => 0xF7 :: encodeRM 5 rm
  | .divEb rm => 0xF6 :: encodeRM 6 rm
  | .divEv rm => 0xF7 :: encodeRM 6 rm
  | .idivEb rm => 0xF6 :: encodeRM 7 rm
  | .idivEv rm => 0xF7 :: encodeRM 7 rm
  | .incEb rm => 0xFE :: encodeRM 0 rm
  | .decEb rm => 0xFE :: encodeRM 1 rm
  | .incEv rm => 0xFF :: encodeRM 0 rm
  | .decEv rm => 0xFF :: encodeRM 1 rm
  | .callEvNear rm => 0xFF :: encodeRM 2 rm
  | .callMpFar m => 0xFF :: encodeMem 3 m
  | .jmpEvNear rm => 0xFF :: encodeRM 4 rm
  | .jmpMpFar m => 0xFF :: encodeMem 5 m
  | .pushEv rm => 0xFF :: encodeRM 6 rm
  | .sldtEw rm => 0x0F :: 0x00 :: encodeRM 0 rm
  | .strEw rm => 0x0F :: 0x00 :: encodeRM 1 rm
  | .lldtEw rm => 0x0F :: 0x00 :: encodeRM 2 rm
  | .ltrEw rm => 0x0F :: 0x00 :: encodeRM 3 rm
  | .verrEw rm => 0x0F :: 0x00 :: encodeRM 4 rm
  | .verwEw rm => 0x0F :: 0x00 :: encodeRM 5 rm
  | .sgdtM m => 0x0F :: 0x01 :: encodeMem 0 m
  | .sidtM m => 0x0F :: 0x01 :: encodeMem 1 m
  | .lgdtM m => 0x0F :: 0x01 :: encodeMem 2 m
  | .lidtM m => 0x0F :: 0x01 :: encodeMem 3 m
  | .smswEw rm => 0x0F :: 0x01 :: encodeRM 4 rm
  | .lmswEw rm => 0x0F :: 0x01 :: encodeRM 6 rm
  | .larGvEw r rm => 0x0F :: 0x02 :: encodeRM r.toBits rm
  | .lslGvEw r rm => 0x0F :: 0x03 :: encodeRM r.toBits rm
  | .movR32Crn r n => 0x0F :: 0x20 :: [packFields 3 n r.toBits]
  | .movR32Drn r n => 0x0F :: 0x21 :: [packFields 3 n r.toBits]
  | .movCrnR32 n r => 0x0F :: 0x22 :: [packFields 3 n r.toBits]
  | .movDrnR32 n r => 0x0F :: 0x23 :: [packFields 3 n r.toBits]
  | .movR32Trn r n => 0x0F :: 0x24 :: [packFields 3 n r.toBits]
  | .movTrnR32 n r => 0x0F :: 0x26 :: [packFields 3 n r.toBits]
  | .btEvGv rm r => 0x0F :: 0xA3 :: encodeRM r.toBits rm
  | .shldEvGvIb rm r imm => 0x0F :: 0xA4 :: (encodeRM r.toBits rm ++ [imm])
  | .shldEvGvCl rm r => 0x0F :: 0xA5 :: encodeRM r.toBits rm
  | .btsEvGv rm r => 0x0F :: 0xAB :: encodeRM r.toBits rm
  | .shrdEvGvIb rm r imm => 0x0F :: 0xAC :: (encodeRM r.toBits rm ++ [imm])
  | .shrdEvGvCl rm r => 0x0F :: 0xAD :: encodeRM r.toBits rm
  | .imulGvEv r rm => 0x0F :: 0xAF :: encodeRM r.toBits rm
  | .lssGvMp r m => 0x0F :: 0xB2 :: encodeMem r.toBits m
  | .btrEvGv rm r => 0x0F :: 0xB3 :: encodeRM r.toBits rm
  | .lfsGvMp r m => 0x0F :: 0xB4 :: encodeMem r.toBits m
  | .lgsGvMp r m => 0x0F :: 0xB5 :: encodeMem r.toBits m
  | .movzxGvEb r rm => 0x0F :: 0xB6 :: encodeRM r.toBits rm
  | .movzxGvEw r rm => 0x0F :: 0xB7 :: encodeRM r.toBits rm
  | .btEvIb rm imm => 0x0F :: 0xBA :: (encodeRM 4 rm ++ [imm])
  | .btsEvIb rm imm => 0x0F :: 0xBA :: (encodeRM 5 rm ++ [imm])
  | .btrEvIb rm imm => 0x0F :: 0xBA :: (encodeRM 6 rm ++ [imm])
  | .btcEvIb rm imm => 0x0F :: 0xBA :: (encodeRM 7 rm ++ [imm])
  | .btcEvGv rm r => 0x0F :: 0xBB :: encodeRM r.toBits rm
  | .bsfGvEv r rm => 0x0F :: 0xBC :: encodeRM r.toBits rm
  | .bsrGvEv r rm => 0x0F :: 0xBD :: encodeRM r.toBits rm
  | .movsxGvEb r rm => 0x0F :: 0xBE :: encodeRM r.toBits rm
  | .movsxGvEw r rm => 0x0F :: 0xBF :: encodeRM r.toBits rm
  | .pushEs => [0x06]
  | .pushCs => [0x0E]
  | .pushSs => [0x16]
  | .pushDs => [0x1E]
  | .pushFs => [0x0F, 0xA0]
  | .pushGs => [0x0F, 0xA8]
  | .popEs => [0x07]
  | .popSs => [0x17]
  | .popDs => [0x1F]
  | .popFs => [0x0F, 0xA1]
  | .popGs => [0x0F, 0xA9]
  | .daa => [0x27]
  | .das => [0x2F]
  | .aaa => [0x37]
  | .aas => [0x3F]
  | .pusha => [0x60]
  | .pushad => [0x60]
  | .popa => [0x61]
  | .popad => [0x61]
  | .insb => [0x6C]
  | .insw => [0x6D]
  | .insd => [0x6D]
  | .outsb => [0x6E]
  | .outsw => [0x6F]
  | .outsd => [0x6F]
  | .nop => [0x90]
  | .xchgEaxEcx => [0x91]
  | .xchgEaxEdx => [0x92]
  | .xchgEaxEbx => [0x93]
  | .xchgEaxEsp => [0x94]
  | .xchgEaxEbp => [0x95]
  | .xchgEaxEsi => [0x96]
  | .xchgEaxEdi => [0x97]
  | .cbw => [0x98]
  | .cwde => [0x98]
  | .cwd => [0x99]
  | .cdq => [0x99]
  | .wait => [0x9B]
  | .pushf => [0x9C]
  | .pushfd => [0x9C]
  | .popf => [0x9D]
  | .popfd => [0x9D]
  | .sahf => [0x9E]
  | .lahf => [0x9F]
  | .movsb => [0xA4]
  | .movsw => [0xA5]
  | .movsd => [0xA5]
  | .cmpsb => [0xA6]
  | .cmpsw => [0xA7]
  | .cmpsd => [0xA7]
  | .stosb => [0xAA]
  | .stosw => [0xAB]
  | .stosd => [0xAB]
  | .lodsb => [0xAC]
  | .lodsw => [0xAD]
  | .lodsd => [0xAD]
  | .scasb => [0xAE]
  | .scasw => [0xAF]
  | .scasd => [0xAF]
  | .retNear => [0xC3]
  | .leave => [0xC9]
  | .retFar => [0xCB]
  | .int3 => [0xCC]
  | .into => [0xCE]
  | .iret => [0xCF]
  | .iretd => [0xCF]
  | .xlat => [0xD7]
  | .inAlDx => [0xEC]
  | .inEaxDx => [0xED]
  | .outDxAl => [0xEE]
  | .outDxEax => [0xEF]
  | .hlt => [0xF4]
  | .cmc => [0xF5]
  | .clc => [0xF8]
  | .stc => [0xF9]
  | .cli => [0xFA]
  | .sti => [0xFB]
  | .cld => [0xFC]
  | .std => [0xFD]
  | .clts => [0x0F, 0x06]
  | .pfxEs => [0x26]
  | .pfxCs => [0x2E]
  | .pfxSs => [0x36]
  | .pfxDs => [0x3E]
  | .pfxFs => [0x64]
  | .pfxGs => [0x65]
  | .pfxOpSize => [0x66]
  | .pfxAddrSize => [0x67]
  | .pfxLock => [0xF0]
  | .pfxRepne => [0xF2]
  | .pfxRep => [0xF3]
  | .undef82 => [0x82]
  | .undefD6 => [0xD6]
  | .undefF1 => [0xF1]

/-! ## The host's question: one row's word -/

/-- The byte `k` of a number whose bits are laid out from the lowest address up. -/
def byteOf (w k : Nat) : Byte := BitVec.ofNat 8 (w >>> (8 * k))

/-- Fifteen bytes, the longest instruction (R314), of which the first `nbits / 8` come from `w` and the others
are zero. -/
def wordBytes (nbits w : Nat) : List Byte :=
  (List.range 15).map fun k => if 8 * k < nbits then byteOf w k else 0

/-- The instruction the decoder reads from an instruction whose bits are `w`, under the size attributes after
reset (both 16, R316). -/
def decodeTableWord (nbits w : Nat) : Option Instr :=
  match decode .s16 .s16 (wordBytes nbits w) with
  | .ok (i, _) => some i
  | .error _ => none

end Sys2Proof
end

