-- ==== Sys2Proof/Machine/Fetch.lean ====
section
/-! DEFINITION. Fetch.lean: fetching an instruction's bytes through CS and decoding them (30_encoding.md R314, R315, R316;
21_translation_protection.md R184; 20_memory.md R138; 10_state.md R47). -/

namespace Sys2Proof.Machine

/-- The contents that the fetch of the byte at offset `off`, physical address `pa`, may still find in the prefetch
queue (20_memory.md R138). -/
def staleBytes (l : List Stale) (off pa : Word32) : List Byte :=
  (l.filter fun x => x.pa == pa && decide ((off - x.start).toNat < x.span)).map (·.old)

/-- What the fetch sees of a byte of memory (20_memory.md R138, D2; log 11): the byte, or one it overwrote. -/
def seenByte (off pa : Word32) (now : Byte) : M Byte := do
  let s ← get
  match staleBytes s.prefetch off pa with
  | [] => return now
  | b :: bs => do
    let k ← drawPrefetch
    return (now :: b :: bs).getD (k % (bs.length + 2)) now

/-- Fetch the next byte of the instruction: at most fifteen (R314), each inside the limit of CS (21_translation_protection.md
R184). -/
def fetchByte : M Byte := do
  let s ← get
  let off := s.cur.next
  require (decide ((off - s.cur.start).toNat < Config.maxLength)) gp0
  require (decide (off.toNat ≤ s.cs.limit.toNat)) gp0
  let pas ← linResolve (s.cs.base + off) 1 false s.user true
  let bs ← physRead pas
  let b ← seenByte off (pas.getD 0 0) (bs.getD 0 0)
  modify fun t => { t with cur := { t.cur with next := t.cur.next + 1 } }
  return b

/-- Fetch bytes until they are an instruction or a prefix (R315); a byte sequence that is none raises #UD (R353,
R354). `n` bounds the bytes fetched; no instruction needs more than fifteen. -/
def fetchMore (n : Nat) (bytes : List Byte) : M Instr := do
  let s ← get
  match decode s.cur.opSize s.cur.addrSize bytes with
  | .ok (i, _) => return i
  | .error .more =>
    match n with
    | 0 => raise gp0
    | n + 1 => do
      let b ← fetchByte
      fetchMore n (bytes ++ [b])
  | .error .undefinedOpcode => raise ud
  | .error .registerForm => raise ud

/-- Fetch and decode one instruction, or one prefix byte, at the next offset (R315). -/
def fetchInstr : M Instr := fetchMore 16 []

/-- The default size attributes of the code segment (21_translation_protection.md R172): 16 in real-address mode. -/
def State.codeSize (s : State) : Size := if s.cr0.pe && s.cs.attr.db then .s32 else .s16

/-- An instruction that starts at EIP, with default size attributes `z` (R316). -/
def State.curAt (s : State) (z : Size) : Cur :=
  { start := s.eip, next := s.eip, code := z, opSize := z, addrSize := z, seg := none, rep := none, lock := false,
    committed := false, partway := false, keepRf := false, incomplete := false }

/-- The state in which the next instruction is fetched (R316). After a change of PE, up to the next transfer of
control, the default size is that of either mode: 16, or what the D bit of CS says (70_reset_and_hazards.md R830,
R845; log 27). -/
def State.startInstr (s : State) : State :=
  if s.modeStale then
    let z : Size := if (Config.freeValue s.free).getLsbD 0 && s.cs.attr.db then .s32 else .s16
    { s with cur := s.curAt z, free := s.free + 1 }
  else { s with cur := s.curAt s.codeSize }

/-- Memory with the bytes of an instruction where the next fetch finds them: at CS:EIP. -/
def State.placeBytes (s : State) (bytes : List Byte) : Memory :=
  ((List.range bytes.length).zip bytes).foldl
    (fun m c =>
      let la := s.cs.base + s.eip + BitVec.ofNat 32 c.1
      m.set ((s.peekPhys la).getD la).toNat c.2) s.mem

end Sys2Proof.Machine
end

