-- ==== Sys2Proof/Machine/Boundary.lean ====
section
/-! DEFINITION. Boundary.lean: what happens at an instruction boundary, and one instruction from its first prefix to its
end (00_scope.md R16, R17; 60_exceptions.md R745 to R747, R780 to R785, R795). -/

namespace Sys2Proof.Machine

/-! ## What arrives from outside -/

/-- What an input does (00_scope.md R16; log 8, log 9, log 35, log 40): RESET replaces everything but memory
(70_reset_and_hazards.md R821), and an event on INTR or NMI is remembered (60_exceptions.md R746). -/
def State.receive (s : State) (i : Input) : State :=
  match i with
  | .quiet => s
  | .intr n => { s with intr := some n }
  | .nmi => { s with nmiPending := true }
  | .reset => .afterReset s.mem s.plat s.busyLine s.errorLine s.inputs s.masters s.events s.free
  | .busy on => { s with busyLine := on }
  | .error on => { s with errorLine := on }
  | .master cells => { cells.foldl State.masterByte { s with cur := s.curAt .s16 } with cur := s.cur }

/-- The state after the next input, if there is one. -/
def State.absorb (s : State) : State :=
  match s.inputs with
  | [] => s
  | i :: rest => State.receive { s with inputs := rest } i

/-! ## The events of a boundary -/

/-- The events a boundary can take (R745). -/
inductive Pending where
  | trap
  | nmi
  | intr (n : Byte)
  deriving DecidableEq, Repr

/-- A debug trap that this boundary takes (R745, R784). -/
def State.trapDue (s : State) : Bool := s.debugTrap && !s.inhibit

/-- An NMI that this boundary takes (R745, R783, R784). -/
def State.nmiDue (s : State) : Bool := s.nmiPending && !s.nmiLatch && !s.inhibit

/-- INTR is open at this boundary (R745, R781, R784; 48_system.md R692). -/
def State.intrOpen (s : State) : Bool := s.flags.ie && !s.inhibit && !s.stiShadow

/-- What this boundary takes, by priority (R745, R747). Shutdown is left by an NMI alone (R758). -/
def State.pending (s : State) : Option Pending :=
  if s.activity = .shutdown then (if s.nmiPending && !s.nmiLatch then some .nmi else none)
  else if s.trapDue then some .trap
  else if s.nmiDue then some .nmi
  else if s.intrOpen then s.intr.map .intr
  else none

/-- The state past the boundary: the latches that cover one boundary are clear, and a trap that was inhibited is
dropped (R745, R784; log 29). -/
def State.passed (s : State) : State := { s with inhibit := false, stiShadow := false, debugTrap := false }

/-- The state in which an event is taken: it is no longer pending, the NMI latch is set by an NMI (R745, R783), and the
processor runs (48_system.md R690). -/
def State.accept (s : State) (p : Pending) : State :=
  let t := { s.passed with activity := .running }
  match p with
  | .trap => t
  | .nmi => { t with nmiPending := false, nmiLatch := true }
  | .intr _ => { t with intr := none }

/-- The event to deliver (R740, R745): the EIP saved is that of the next instruction. -/
def Pending.event (p : Pending) (eip : Word32) : Event :=
  match p with
  | .trap => { vec := 1, src := .exc, ret := eip, code := .none, rf := false }
  | .nmi => { vec := 2, src := .ext, ret := eip, code := .none, rf := false }
  | .intr n => { vec := n, src := .ext, ret := eip, code := .none, rf := false }

/-- Take an event at a boundary (R745). -/
def takePending (p : Pending) (s : State) : Host.Outcome State Fault Refusal :=
  match deliver (p.event s.eip) (s.accept p) with
  | .ok () t => .next { t with cur := .idle }
  | .error (.refuse r) _ => .refused r
  | .error (.exc _) t => .next { t with activity := .shutdown, cur := .idle }
  | .error .shutdown t => .next { t with activity := .shutdown, cur := .idle }

/-! ## One instruction -/

/-- The constructors that are prefix bytes (30_encoding.md R312). -/
def isPrefix : Instr → Bool
  | .pfxEs | .pfxCs | .pfxSs | .pfxDs | .pfxFs | .pfxGs | .pfxOpSize | .pfxAddrSize | .pfxLock | .pfxRepne | .pfxRep => true
  | _ => false

/-- The state after an instruction that began with TF = `tf` (R785, R795): RF is cleared unless the instruction loaded it
or did not complete, and the single-step trap is pending if it completed. -/
def State.endInstr (s : State) (tf : Bool) : State :=
  let step := tf && !s.cur.incomplete
  { s with
    cur := .idle
    flags := { s.flags with rf := s.flags.rf && (s.cur.keepRf || s.cur.incomplete) }
    debugTrap := s.debugTrap || step
    dbg := { s.dbg with dr6 := s.dbg.dr6 ||| (if step then 0x4000 else 0) } }

/-- The outcome of an instruction that began with TF = `tf`. -/
def finish (tf : Bool) (o : Host.Outcome State Fault Refusal) : Host.Outcome State Fault Refusal :=
  match o with
  | .next t => .next (t.endInstr tf)
  | .fault r => .fault r
  | .refused r => .refused r

/-- Fetch and execute one instruction, its prefixes first (30_encoding.md R313, R315). No instruction has more than
fifteen bytes, so `fuel` is never used up: the fetch of a sixteenth byte faults. -/
def executeFrom (fuel : Nat) (tf : Bool) (s : State) : Host.Outcome State Fault Refusal :=
  match fetchInstr s with
  | .error x t => finish tf (settle t (.error x t))
  | .ok i t =>
    if isPrefix i then
      match fuel, exec i t with
      | fuel + 1, .next u => executeFrom fuel tf u
      | 0, .next u => finish tf (takeFault u u gp0)
      | _, .fault r => .fault r
      | _, .refused r => .refused r
    else finish tf (exec i t)

/-- Execute the instruction at CS:EIP. -/
def executeNext (s : State) : Host.Outcome State Fault Refusal := executeFrom 15 s.flags.tf s.startInstr

/-- One step (00_scope.md R17; 60_exceptions.md R745): an event, an instruction, or, in the halted and the shutdown state,
nothing (log 20). A state with VM = 1 is refused (00_scope.md R5). -/
def stepBoundary (s : State) : Host.Outcome State Fault Refusal :=
  if s.flags.vm then .refused .virtual8086
  else
    match s.pending with
    | some p => takePending p s
    | none =>
      match s.activity with
      | .running => executeNext s.passed
      | .halted => .next s.passed
      | .shutdown => .next s.passed

end Sys2Proof.Machine
end

