-- ==== Sys2Proof/Machine/Step.lean ====
section
/-! DEFINITION. Step.lean: the step function, and the placing of one instruction where the next step fetches. -/

namespace Sys2Proof.Machine

/-- One step of the machine (00_scope.md R17): what arrives from outside, then the boundary. -/
def step (s : State) : Host.Outcome State Fault Refusal := stepBoundary s.absorb

/-- The state with the instruction of `nbits` bits `w`, zeros above them, stored at CS:EIP, where the next step fetches
it (log 25). -/
def State.withFetchWord (s : State) (nbits w : Nat) : State :=
  { s with mem := s.placeBytes (wordBytes nbits w), prefetch := [] }

end Sys2Proof.Machine
end

