-- ==== Sys2Proof/Machine/Forms.lean ====
section
/-! DEFINITION. Forms.lean: names for families of constructors of one shape, by operation and operand form, for the
statements (spec/opcode_table.json; 30_encoding.md R350 to R352). -/

namespace Sys2Proof.Machine

/-- The nine operand forms of the ALU block (41_binary_arithmetic.md R444). -/
inductive AluForm where
  | ebGb (rm : RM) (r : Reg)
  | evGv (rm : RM) (r : Reg)
  | gbEb (r : Reg) (rm : RM)
  | gvEv (r : Reg) (rm : RM)
  | alIb (imm : Byte)
  | eaxIv (imm : Word32)
  | ebIb (rm : RM) (imm : Byte)
  | evIv (rm : RM) (imm : Word32)
  | evIb (rm : RM) (imm : Byte)
  deriving DecidableEq, Repr

/-- The width of a form's operands: a byte or OpSize. -/
def AluForm.width (s : State) : AluForm → Width
  | .ebGb _ _ | .gbEb _ _ | .alIb _ | .ebIb _ _ => .b8
  | .evGv _ _ | .gvEv _ _ | .eaxIv _ | .evIv _ _ | .evIb _ _ => s.opw

/-- The destination of a form. -/
def AluForm.dest : AluForm → RM
  | .ebGb rm _ | .evGv rm _ | .ebIb rm _ | .evIv rm _ | .evIb rm _ => rm
  | .gbEb r _ | .gvEv r _ => .reg r
  | .alIb _ | .eaxIv _ => .reg .eax

/-- The source of a form: a register, an r/m operand, or an immediate, sign-extended where it is narrower. -/
def AluForm.source (w : Width) : AluForm → M (Val w)
  | .ebGb _ r | .evGv _ r => getReg w r
  | .gbEb _ rm | .gvEv _ rm => readRM w rm
  | .alIb imm | .ebIb _ imm => pure (imm.setWidth w.bits)
  | .eaxIv imm | .evIv _ imm => pure (imm.setWidth w.bits)
  | .evIb _ imm => pure (imm.signExtend w.bits)

/-- The instruction of the ALU block with that operation and form. -/
def AluOp.instr (op : AluOp) (f : AluForm) : Instr :=
  match f with
  | .ebGb rm r =>
    match op with
    | .add => .addEbGb rm r | .or => .orEbGb rm r | .adc => .adcEbGb rm r | .sbb => .sbbEbGb rm r
    | .and => .andEbGb rm r | .sub => .subEbGb rm r | .xor => .xorEbGb rm r | .cmp => .cmpEbGb rm r
  | .evGv rm r =>
    match op with
    | .add => .addEvGv rm r | .or => .orEvGv rm r | .adc => .adcEvGv rm r | .sbb => .sbbEvGv rm r
    | .and => .andEvGv rm r | .sub => .subEvGv rm r | .xor => .xorEvGv rm r | .cmp => .cmpEvGv rm r
  | .gbEb r rm =>
    match op with
    | .add => .addGbEb r rm | .or => .orGbEb r rm | .adc => .adcGbEb r rm | .sbb => .sbbGbEb r rm
    | .and => .andGbEb r rm | .sub => .subGbEb r rm | .xor => .xorGbEb r rm | .cmp => .cmpGbEb r rm
  | .gvEv r rm =>
    match op with
    | .add => .addGvEv r rm | .or => .orGvEv r rm | .adc => .adcGvEv r rm | .sbb => .sbbGvEv r rm
    | .and => .andGvEv r rm | .sub => .subGvEv r rm | .xor => .xorGvEv r rm | .cmp => .cmpGvEv r rm
  | .alIb imm =>
    match op with
    | .add => .addAlIb imm | .or => .orAlIb imm | .adc => .adcAlIb imm | .sbb => .sbbAlIb imm | .and => .andAlIb imm
    | .sub => .subAlIb imm | .xor => .xorAlIb imm | .cmp => .cmpAlIb imm
  | .eaxIv imm =>
    match op with
    | .add => .addEaxIv imm | .or => .orEaxIv imm | .adc => .adcEaxIv imm | .sbb => .sbbEaxIv imm
    | .and => .andEaxIv imm | .sub => .subEaxIv imm | .xor => .xorEaxIv imm | .cmp => .cmpEaxIv imm
  | .ebIb rm imm =>
    match op with
    | .add => .addEbIb rm imm | .or => .orEbIb rm imm | .adc => .adcEbIb rm imm | .sbb => .sbbEbIb rm imm
    | .and => .andEbIb rm imm | .sub => .subEbIb rm imm | .xor => .xorEbIb rm imm | .cmp => .cmpEbIb rm imm
  | .evIv rm imm =>
    match op with
    | .add => .addEvIv rm imm | .or => .orEvIv rm imm | .adc => .adcEvIv rm imm | .sbb => .sbbEvIv rm imm
    | .and => .andEvIv rm imm | .sub => .subEvIv rm imm | .xor => .xorEvIv rm imm | .cmp => .cmpEvIv rm imm
  | .evIb rm imm =>
    match op with
    | .add => .addEvIb rm imm | .or => .orEvIb rm imm | .adc => .adcEvIb rm imm | .sbb => .sbbEvIb rm imm
    | .and => .andEvIb rm imm | .sub => .subEvIb rm imm | .xor => .xorEvIb rm imm | .cmp => .cmpEvIb rm imm

/-- The forms that take a LOCK prefix: a memory destination, and not CMP (20_memory.md R127). -/
def AluOp.lockable (op : AluOp) : AluForm → Bool
  | .ebGb rm _ | .evGv rm _ | .ebIb rm _ | .evIv rm _ | .evIb rm _ => op.writes && isMem rm
  | .gbEb _ _ | .gvEv _ _ | .alIb _ | .eaxIv _ => false

/-- INC, DEC and NEG (41_binary_arithmetic.md R433, R436, R438). -/
inductive UnaryOp where
  | inc | dec | neg
  deriving DecidableEq, Repr

/-- The operand of a one-operand instruction: a byte or OpSize bits of an r/m operand. -/
inductive UnaryForm where
  | eb (rm : RM)
  | ev (rm : RM)
  deriving DecidableEq, Repr

/-- The width of the operand. -/
def UnaryForm.width (s : State) : UnaryForm → Width
  | .eb _ => .b8
  | .ev _ => s.opw

/-- The operand. -/
def UnaryForm.operand : UnaryForm → RM
  | .eb rm | .ev rm => rm

/-- The instruction with that operation and form; INC and DEC of a register have a second encoding. -/
def UnaryOp.instr (op : UnaryOp) (f : UnaryForm) : Instr :=
  match op, f with
  | .inc, .eb rm => .incEb rm
  | .inc, .ev rm => .incEv rm
  | .dec, .eb rm => .decEb rm
  | .dec, .ev rm => .decEv rm
  | .neg, .eb rm => .negEb rm
  | .neg, .ev rm => .negEv rm

/-- The result: one more, one less, or the negative. -/
def UnaryOp.result (op : UnaryOp) {n : Nat} (a : BitVec n) : BitVec n :=
  match op with
  | .inc => a + 1
  | .dec => a - 1
  | .neg => -a

/-- The flags: as of ADD and SUB of 1 with CF kept, and as of SUB from 0. -/
def UnaryOp.flags (op : UnaryOp) {n : Nat} (a : BitVec n) : FlagEffect :=
  match op with
  | .inc => (addFlags a 1 false).keepCf
  | .dec => (subFlags a 1 false).keepCf
  | .neg => subFlags 0 a false

/-- The multiplication and division instructions with one operand (41_binary_arithmetic.md R439, R440, R442, R443). -/
inductive PairOp where
  | mul | imul | div | idiv
  deriving DecidableEq, Repr

/-- The instruction with that operation and form. -/
def PairOp.instr (op : PairOp) (f : UnaryForm) : Instr :=
  match op, f with
  | .mul, .eb rm => .mulEb rm
  | .mul, .ev rm => .mulEv rm
  | .imul, .eb rm => .imulEb rm
  | .imul, .ev rm => .imulEv rm
  | .div, .eb rm => .divEb rm
  | .div, .ev rm => .divEv rm
  | .idiv, .eb rm => .idivEb rm
  | .idiv, .ev rm => .idivEv rm

/-- The shift or rotate of that operation and form (43_logical.md R482). -/
def ShiftOp.instr (op : ShiftOp) (f : UnaryForm) (c : ShiftCount) : Instr :=
  match f with
  | .eb rm =>
    match op with
    | .rol => .rolEb rm c | .ror => .rorEb rm c | .rcl => .rclEb rm c | .rcr => .rcrEb rm c | .shl => .shlEb rm c
    | .shr => .shrEb rm c | .sar => .sarEb rm c
  | .ev rm =>
    match op with
    | .rol => .rolEv rm c | .ror => .rorEv rm c | .rcl => .rclEv rm c | .rcr => .rcrEv rm c | .shl => .shlEv rm c
    | .shr => .shrEv rm c | .sar => .sarEv rm c

/-- SETcc of that condition (43_logical.md R506). -/
def Cond.set (c : Cond) (rm : RM) : Instr :=
  match c with
    | .o => .setoEb rm | .no => .setnoEb rm | .b => .setbEb rm | .ae => .setaeEb rm | .e => .seteEb rm
    | .ne => .setneEb rm | .be => .setbeEb rm | .a => .setaEb rm | .s => .setsEb rm | .ns => .setnsEb rm
    | .p => .setpEb rm | .np => .setnpEb rm | .l => .setlEb rm | .ge => .setgeEb rm | .le => .setleEb rm
    | .g => .setgEb rm

/-- Jcc of that condition (44_control_transfer.md R540). -/
def Cond.jump (c : Cond) (d : RelDisp) : Instr :=
  match c with
    | .o => .jo d | .no => .jno d | .b => .jb d | .ae => .jae d | .e => .je d | .ne => .jne d | .be => .jbe d
    | .a => .ja d | .s => .js d | .ns => .jns d | .p => .jp d | .np => .jnp d | .l => .jl d | .ge => .jge d
    | .le => .jle d | .g => .jg d

/-- The operand forms of TEST (43_logical.md R492). -/
inductive TestForm where
  | ebGb (rm : RM) (r : Reg)
  | evGv (rm : RM) (r : Reg)
  | alIb (imm : Byte)
  | eaxIv (imm : Word32)
  | ebIb (rm : RM) (imm : Byte)
  | evIv (rm : RM) (imm : Word32)
  deriving DecidableEq, Repr

/-- The width of the operands. -/
def TestForm.width (s : State) : TestForm → Width
  | .ebGb _ _ | .alIb _ | .ebIb _ _ => .b8
  | .evGv _ _ | .eaxIv _ | .evIv _ _ => s.opw

/-- The first operand. -/
def TestForm.first : TestForm → RM
  | .ebGb rm _ | .evGv rm _ | .ebIb rm _ | .evIv rm _ => rm
  | .alIb _ | .eaxIv _ => .reg .eax

/-- The second operand: a register or an immediate. -/
def TestForm.second (s : State) (w : Width) : TestForm → Val w
  | .ebGb _ r | .evGv _ r => s.regs.read w r
  | .alIb imm | .ebIb _ imm => imm.setWidth w.bits
  | .eaxIv imm | .evIv _ imm => imm.setWidth w.bits

/-- TEST of that form. -/
def TestForm.instr : TestForm → Instr
  | .ebGb rm r => .testEbGb rm r
  | .evGv rm r => .testEvGv rm r
  | .alIb imm => .testAlIb imm
  | .eaxIv imm => .testEaxIv imm
  | .ebIb rm imm => .testEbIb rm imm
  | .evIv rm imm => .testEvIv rm imm

/-- A bit test with its bit offset in a register (43_logical.md R475 to R479). -/
def BitOp.byReg (op : BitOp) (rm : RM) (r : Reg) : Instr :=
  match op with
  | .bt => .btEvGv rm r
  | .bts => .btsEvGv rm r
  | .btr => .btrEvGv rm r
  | .btc => .btcEvGv rm r

/-- A bit test with an immediate bit offset (43_logical.md R475 to R479). -/
def BitOp.byImm (op : BitOp) (rm : RM) (imm : Byte) : Instr :=
  match op with
  | .bt => .btEvIb rm imm
  | .bts => .btsEvIb rm imm
  | .btr => .btrEvIb rm imm
  | .btc => .btcEvIb rm imm

/-- What a PUSH instruction pushes (40_data_movement.md R403, R404; 46_block_flag.md R607). -/
inductive PushForm where
  | rv (r : Reg)
  | ev (rm : RM)
  | iv (imm : Word32)
  | ib (imm : Byte)
  | seg (r : SReg)
  | flags16
  | flags32
  deriving DecidableEq, Repr

/-- The instruction of that form. -/
def PushForm.instr : PushForm → Instr
  | .rv r => .pushRv r
  | .ev rm => .pushEv rm
  | .iv imm => .pushIv imm
  | .ib imm => .pushIb imm
  | .seg r =>
    match r with
    | .es => .pushEs | .cs => .pushCs | .ss => .pushSs | .ds => .pushDs | .fs => .pushFs | .gs => .pushGs
  | .flags16 => .pushf
  | .flags32 => .pushfd

/-- The width pushed: OpSize, or that of the mnemonic. -/
def PushForm.width (s : State) : PushForm → Width
  | .rv _ | .ev _ | .iv _ | .ib _ | .seg _ => s.opw
  | .flags16 => .b16
  | .flags32 => .b32

/-- The value pushed: a register as it was before the push, an r/m operand, an immediate, a selector with a zero upper
half, the flags with RF and VM as 0. -/
def PushForm.source (s : State) (w : Width) : PushForm → M (Val w)
  | .rv r => pure (s.regs.read w r)
  | .ev rm => readRM w rm
  | .iv imm => pure (imm.setWidth w.bits)
  | .ib imm => pure (imm.signExtend w.bits)
  | .seg r => pure ((s.seg r).sel.setWidth w.bits)
  | .flags16 | .flags32 => pure ((s.flags.image &&& 0xFFFCFFFF).setWidth w.bits)

/-- The instructions that load a register from an r/m operand of width `v`, widened to `w`
(40_data_movement.md R401, R413, R414). -/
inductive LoadForm where
  | gbEb | gvEv | movzxB | movzxW | movsxB | movsxW
  deriving DecidableEq, Repr

/-- The instruction of that form. -/
def LoadForm.instr (f : LoadForm) (r : Reg) (rm : RM) : Instr :=
  match f with
  | .gbEb => .movGbEb r rm
  | .gvEv => .movGvEv r rm
  | .movzxB => .movzxGvEb r rm
  | .movzxW => .movzxGvEw r rm
  | .movsxB => .movsxGvEb r rm
  | .movsxW => .movsxGvEw r rm

/-- The width of the register and the width of the operand. -/
def LoadForm.widths (s : State) : LoadForm → Width × Width
  | .gbEb => (.b8, .b8)
  | .gvEv => (s.opw, s.opw)
  | .movzxB | .movsxB => (s.opw, .b8)
  | .movzxW | .movsxW => (s.opw, .b16)

/-- The value widened: by zeros, or by the sign for MOVSX. -/
def LoadForm.widen (f : LoadForm) {n : Nat} (m : Nat) (v : BitVec n) : BitVec m :=
  match f with
  | .gbEb | .gvEv | .movzxB | .movzxW => v.setWidth m
  | .movsxB | .movsxW => v.signExtend m

/-- The instructions that store a register or an immediate in an r/m operand (40_data_movement.md R401). -/
inductive StoreForm where
  | ebGb (r : Reg)
  | evGv (r : Reg)
  | ebIb (imm : Byte)
  | evIv (imm : Word32)
  deriving DecidableEq, Repr

/-- The instruction of that form. -/
def StoreForm.instr (f : StoreForm) (rm : RM) : Instr :=
  match f with
  | .ebGb r => .movEbGb rm r
  | .evGv r => .movEvGv rm r
  | .ebIb imm => .movEbIb rm imm
  | .evIv imm => .movEvIv rm imm

/-- The width stored. -/
def StoreForm.width (s : State) : StoreForm → Width
  | .ebGb _ | .ebIb _ => .b8
  | .evGv _ | .evIv _ => s.opw

/-- The value stored. -/
def StoreForm.value (s : State) (w : Width) : StoreForm → Val w
  | .ebGb r | .evGv r => s.regs.read w r
  | .ebIb imm => imm.setWidth w.bits
  | .evIv imm => imm.setWidth w.bits

/-- The string primitives (45_string.md R570; 49_io_coprocessor.md R703, R704). -/
inductive StringOp where
  | ins | outs | movs | cmps | stos | lods | scas
  deriving DecidableEq, Repr

/-- The instruction of that primitive and element width. -/
def StringOp.instr (op : StringOp) (w : Width) : Instr :=
  match op, w with
  | .ins, .b8 => .insb
  | .ins, .b16 => .insw
  | .ins, .b32 => .insd
  | .outs, .b8 => .outsb
  | .outs, .b16 => .outsw
  | .outs, .b32 => .outsd
  | .movs, .b8 => .movsb
  | .movs, .b16 => .movsw
  | .movs, .b32 => .movsd
  | .cmps, .b8 => .cmpsb
  | .cmps, .b16 => .cmpsw
  | .cmps, .b32 => .cmpsd
  | .stos, .b8 => .stosb
  | .stos, .b16 => .stosw
  | .stos, .b32 => .stosd
  | .lods, .b8 => .lodsb
  | .lods, .b16 => .lodsw
  | .lods, .b32 => .lodsd
  | .scas, .b8 => .scasb
  | .scas, .b16 => .scasw
  | .scas, .b32 => .scasd

/-- One iteration of a primitive. -/
def StringOp.once (op : StringOp) (w : Width) : M Unit :=
  match op with
  | .ins => inputString w
  | .outs => outputString w
  | .movs => moveString w
  | .cmps => compareString w
  | .stos => storeString w
  | .lods => loadString w
  | .scas => scanString w

/-- The primitives that compare, whose repetition ZF can end (45_string.md R571). -/
def StringOp.compares : StringOp → Bool
  | .cmps | .scas => true
  | .ins | .outs | .movs | .stos | .lods => false

/-- The state with a general register written. -/
def State.withReg (s : State) (w : Width) (r : Reg) (v : Val w) : State := { s with regs := s.regs.write w r v }

/-- An index register past one element: up, or down where DF is set (45_string.md R570). -/
def State.stepped (s : State) (w : Width) (r : Reg) : State :=
  let d : Val s.addrw := BitVec.ofNat _ w.bytes
  s.withReg s.addrw r (if s.flags.df then s.regs.read s.addrw r - d else s.regs.read s.addrw r + d)

end Sys2Proof.Machine
end

