-- ==== Sys2Proof/Safety.lean ====
section
/-! DEFINITION. Safety.lean: what a safe state and a safe step are, and the other terms the statements use. -/

namespace Sys2Proof.Machine

/-- What every state of a run satisfies: memory is in its canonical form (log 6), CPL is 0 in real-address mode
(10_state.md R60), VM is 0 (00_scope.md R5), paging is on in protected mode only (10_state.md R54), and bits 11:0 of CR3
are 0 (10_state.md R57). -/
def State.Inv (s : State) : Prop :=
  s.mem.wf = true ∧ (s.cr0.pe = false → s.cpl = 0) ∧ s.flags.vm = false ∧ (s.cr0.pg = true → s.cr0.pe = true) ∧
    s.cr3.extractLsb' 0 12 = 0

/-- The state in which the instruction in progress has its effect: EIP is that of the next instruction. -/
def State.entered (s : State) : State := { s with eip := s.cur.next }

/-- `s` at the next instruction, with what the accesses made up to `u` changed and nothing else: memory by the accessed
and dirty bits of page tables, the accessed bits of descriptors and the writes of other bus masters, the TLB, the
prefetch record, CR2, and the model's own fields. -/
def State.through (s u : State) : State := s.entered.rollback u

/-- The state with an effect on the status flags; an UNDEF flag takes a free value (00_scope.md R10). -/
def State.effect (s : State) (e : FlagEffect) : State :=
  { s with flags := s.flags.apply e (Config.freeValue s.free), free := s.free + 1 }

/-- The state in which an action ends. -/
def endState {α : Type} (r : EStateM.Result Stop State α) : State :=
  match r with
  | .ok _ t => t
  | .error _ t => t

/-- The state with a value stored at a place. -/
def State.stored (s : State) (w : Width) (l : Loc) (v : Val w) : State := endState (writeLoc w l v s)

/-- The state in which a read begins that a write follows under LOCK#, where the condition holds (20_memory.md R127). -/
def State.lockedIf (s : State) (c : Bool) : State := if c then s.lockBus else s

/-- The state with a value stored at a place, LOCK# asserted since the read where the condition holds (20_memory.md
R127). -/
def State.writtenBack (s : State) (c : Bool) (w : Width) (l : Loc) (v : Val w) : State :=
  { State.stored { s with busLock := s.busLock || c } w l v with busLock := s.busLock }

/-- The state in which a fault does, or does not, keep the registers changed so far (93_implementation_defined.md U10). -/
def State.partway (s : State) (b : Bool) : State := { s with cur := { s.cur with partway := b } }

/-- Another bus master is about to write the byte at that address. -/
def State.outside (s : State) (x : Nat) : Prop := ∃ cells ∈ s.masters, ∃ c ∈ cells, c.1.toNat = x

/-- The byte at a physical address belongs to the place. -/
def Loc.covers (l : Loc) (x : Nat) : Prop :=
  match l with
  | .reg _ => False
  | .mem pas => ∃ a ∈ pas, a.toNat = x

/-- Every byte of memory is as it was, but for those of the place and those that other bus masters are about to write. -/
def MemoryKept (s t : State) (l : Loc) : Prop := ∀ x, ¬ l.covers x → ¬ s.outside x → t.mem.get x = s.mem.get x

/-- The place of no byte. -/
def Loc.nowhere : Loc := .mem []

/-- Control transferred to an offset of the code segment (20_memory.md R138: what was prefetched is discarded). -/
def State.jumped (s : State) (target : Word32) : State := { s with eip := target, prefetch := [], modeStale := false }

/-- CS and EIP loaded in real-address mode (44_control_transfer.md R531). -/
def State.realFar (s : State) (sel : Word16) (off : Word32) : State :=
  { s with cs := { s.cs with sel := sel, base := realBase sel } }.jumped off

/-- An instruction that transfers control to `target`, cut to OpSize, from a state `u`: inside the limit of CS it goes
there, beyond it #GP(0) is raised (44_control_transfer.md R521, R522). -/
def JumpsTo (i : Instr) (s u : State) (target : Word32) : Prop :=
  ((cutTarget s.cur.opSize target).toNat ≤ s.cs.limit.toNat →
    exec i s = .next ((s.through u).jumped (cutTarget s.cur.opSize target))) ∧
  (s.cs.limit.toNat < (cutTarget s.cur.opSize target).toNat → exec i s = takeFault s (s.through u) gp0)

/-- A far JMP and a far CALL to `sel`:`off`, direct or through memory (44_control_transfer.md R523, R525); `u` is the
state in which the operand has been read, the offset before the selector (DESIGN CHOICE, log 57). -/
def FarPair (s : State) (jmp call : Instr) (off : Word32) (sel : Word16) (u : State) : Prop :=
  (jmp = .jmpApFar off sel ∧ call = .callApFar off sel ∧ u = s.entered) ∨
  ∃ (m : Mem) (v : Val s.opw) (x : State), jmp = .jmpMpFar m ∧ call = .callMpFar m ∧ off = v.setWidth 32 ∧
    segRead s.opw (s.segOr (defaultSeg m)) (effAddr s.regs m) s.entered = .ok v x ∧
    segRead .b16 (s.segOr (defaultSeg m)) (effAddr s.regs m + distOf s.opw) x = .ok sel u

/-! ## The stack -/

/-- The bytes of `k` pushes of that width below the top of the stack, the first push's first, with paging off (20_memory.md
R120). -/
def State.slots (s : State) (w : Width) (k : Nat) : List Word32 :=
  (List.range k).flatMap fun i => addrs (s.ss.base + s.stackAt (-BitVec.ofNat 32 ((i + 1) * w.bytes))) w.bytes

/-- `k` slots of that width below the top of the stack are checked for a write at a page level, and nothing is stored
(00_scope.md R13; 92_eei_decisions.md D19). -/
def Probed (user : Bool) (w : Width) : Nat → State → State → Prop
  | 0, s, t => t = s
  | k + 1, s, t => ∃ (u : State) (pas : List Word32), Probed user w k s u ∧
      segResolveAs user .ss (u.stackAt (-BitVec.ofNat 32 ((k + 1) * w.bytes))) w.bytes true false u = .ok pas t

/-- Of the `k` slots one fails that check, those before it having passed. -/
def ProbeFails (user : Bool) (w : Width) (k : Nat) (s : State) (x : Exn) (t : State) : Prop :=
  ∃ (i : Nat) (u : State), i < k ∧ Probed user w i s u ∧
    segResolveAs user .ss (u.stackAt (-BitVec.ofNat 32 ((i + 1) * w.bytes))) w.bytes true false u = .error (.exc x) t

/-- Values pushed in order at a page level (20_memory.md R120): each is stored at the bytes `pas` that its slot below the
top of the stack has, and (E)SP goes down by the width. -/
def Pushed (user : Bool) (w : Width) : List (Val w) → State → State → List Word32 → Prop
  | [], s, t, pas => t = s ∧ pas = []
  | v :: vs, s, t, pas => ∃ (p q : List Word32) (u : State),
      segResolveAs user .ss (s.stackAt (-distOf w)) w.bytes true true s = .ok p u ∧
      Pushed user w vs ((u.stored w (.mem p) v).moveSP (-distOf w)) t q ∧ pas = p ++ q

/-- Of values pushed in order one cannot be, those before it having been pushed. -/
def PushFails (user : Bool) (w : Width) (vs : List (Val w)) (s : State) (x : Exn) (t : State) : Prop :=
  ∃ (i : Nat) (u : State) (pas : List Word32), i < vs.length ∧ Pushed user w (vs.take i) s u pas ∧
    segResolveAs user .ss (u.stackAt (-distOf w)) w.bytes true true u = .error (.exc x) t

/-- A far CALL from `s` pushes CS and the next instruction's offset on the current stack, after both slots have been
checked (44_control_transfer.md R527, R531; 92_eei_decisions.md D19); `a` is the state it begins in, and `pas` are the bytes
stored. -/
def PushesReturn (s : State) (w : Width) (a t : State) (pas : List Word32) : Prop :=
  ∃ u : State, Probed s.user w 2 a u ∧
    Pushed s.user w [s.cs.sel.setWidth w.bits, s.nextIp.setWidth w.bits] u t pas

/-- What the pushes of a far CALL from `s` leave: (E)SP down by two slots, no other register changed, and with paging off
no byte of memory changed but those of the two slots and those that other bus masters write. -/
def ReturnPushed (s : State) (w : Width) (t : State) (pas : List Word32) : Prop :=
  t.regs = s.regs.setSP s.stackSize (s.regs.esp - BitVec.ofNat 32 (2 * w.bytes)) ∧
    (s.cr0.pg = false → s.mem.wf = true → pas = s.slots w 2 ∧ MemoryKept s t (.mem pas))

/-- The state in which ENTER reads the next pointer of the enclosing frames: (E)BP down by the width (46_block_flag.md
R590). -/
def State.display (s : State) (w : Width) : State :=
  let z : Width := s.stackSize.width
  s.withReg z .ebp (s.regs.read z .ebp - BitVec.ofNat z.bits w.bytes)

/-- ENTER copies `k` pointers of the enclosing frames (46_block_flag.md R590): (E)BP goes down by the width, and the value
it then points at in the stack segment is pushed; `pas` are the bytes stored. -/
def Displayed (w : Width) : Nat → State → State → List Word32 → Prop
  | 0, s, t, pas => t = s ∧ pas = []
  | k + 1, s, t, pas => ∃ (v : Val w) (u x : State) (p q : List Word32),
      segRead w .ss (stackOff s.stackSize (s.display w).regs.ebp) (s.display w) = .ok v u ∧
      Pushed s.user w [v] u x p ∧ Displayed w k x t q ∧ pas = p ++ q

/-- Of the `k` pointers one cannot be read, or not be pushed, those before it having been copied. -/
def DisplayFails (w : Width) (k : Nat) (s : State) (x : Exn) (t : State) : Prop :=
  ∃ (i : Nat) (u : State) (pas : List Word32), i < k ∧ Displayed w i s u pas ∧
    (segRead w .ss (stackOff u.stackSize (u.display w).regs.ebp) (u.display w) = .error (.exc x) t ∨
      ∃ (v : Val w) (y : State), segRead w .ss (stackOff u.stackSize (u.display w).regs.ebp) (u.display w) = .ok v y ∧
        PushFails s.user w [v] y x t)

/-! ## The checks of a selector -/

/-- The exception of the first test that fails. -/
def firstFailure : List (Bool × Exn) → Option Exn
  | [] => none
  | (ok, x) :: rest => if ok then firstFailure rest else some x

/-- The checks of a selector, as a table: tests before its descriptor is read, the exception where the selector lies
beyond its table (21_translation_protection.md R155), and tests of the descriptor, each with its exception. -/
structure Check where
  before : List (Bool × Exn)
  sel : Word16
  beyond : Exn
  tests : Desc → List (Bool × Exn)

/-- Every test passes; `d` is the descriptor, and `t` the state in which it has been read. -/
def Check.Passes (c : Check) (s : State) (d : Desc) (t : State) : Prop :=
  firstFailure c.before = none ∧ readDesc c.sel c.beyond s = .ok d t ∧ firstFailure (c.tests d) = none

/-- A test fails, the first to do so with the exception `x`, or the descriptor cannot be read. -/
def Check.Fails (c : Check) (s : State) (x : Exn) (t : State) : Prop :=
  (firstFailure c.before = some x ∧ t = s) ∨
  (firstFailure c.before = none ∧ (readDesc c.sel c.beyond s = .error (.exc x) t ∨
    ∃ d, readDesc c.sel c.beyond s = .ok d t ∧ firstFailure (c.tests d) = some x))

/-- A code descriptor's DPL fits the level it is to run at: equal for nonconforming code, at most for conforming code
(44_control_transfer.md R536; 22_multitasking.md R263 test 8). -/
def Desc.runsAt (d : Desc) (level : BitVec 2) : Bool :=
  if d.attr.conforming then decide (d.dpl ≤ level) else decide (d.dpl = level)

/-- The code selector of a return (44_control_transfer.md R536), CPL being `cpl`. -/
def returnCodeCheck (sel : Word16) (cpl : BitVec 2) : Check where
  before := [(!selNull sel, gp0), (decide (cpl ≤ rpl sel), gpFault sel)]
  sel := sel
  beyond := gpFault sel
  tests c := [(c.attr.code, gpFault sel), (c.runsAt (rpl sel), gpFault sel), (c.present, npFault sel)]

/-- The stack selector of a return to an outer level (21_translation_protection.md R199). -/
def returnStackCheck (sel : Word16) (level : BitVec 2) : Check where
  before := [(!selNull sel, gp0)]
  sel := sel
  beyond := gpFault sel
  tests d := [(d.attr.writable, gpFault sel), (decide (d.dpl = level), gpFault sel), (decide (rpl sel = level), gpFault sel),
    (d.present, ssFault sel)]

/-- The stack selector that the TSS names for an inner level (21_translation_protection.md R196; 44_control_transfer.md
R529). -/
def innerStackCheck (sel : Word16) (level : BitVec 2) : Check where
  before := [(!selNull sel, tsFault 0)]
  sel := sel
  beyond := tsFault sel
  tests d := [(decide (rpl sel = level), tsFault sel), (decide (d.dpl = level), tsFault sel), (d.attr.writable, tsFault sel),
    (d.present, ssFault sel)]

/-- The target of a call gate, up to its type (44_control_transfer.md R528, R529; 21_translation_protection.md R193): the
gate's DPL is at least CPL and the RPL of the selector that names it, the gate is present, and its own selector names
code. -/
def gateTargetCheck (sel : Word16) (g : Desc) (cpl : BitVec 2) : Check where
  before := [(decide (cpl ≤ g.dpl), gpFault sel), (decide (rpl sel ≤ g.dpl), gpFault sel), (g.present, npFault sel),
    (!selNull g.gateSel, gp0)]
  sel := g.gateSel
  beyond := gpFault g.gateSel
  tests c := [(c.attr.code, gpFault g.gateSel)]

/-- The stack pointer and the selector that the current TSS holds for an inner level (44_control_transfer.md R529). -/
def InnerPointers (level : BitVec 2) (s : State) (nss : Word16) (nesp : Word32) (t : State) : Prop :=
  let off : Word32 := 4 + 8 * level.setWidth 32
  off.toNat + 5 ≤ s.tr.limit.toNat ∧ ∃ u : State, linRead .b32 (s.tr.base + off) false s = .ok nesp u ∧
    linRead .b16 (s.tr.base + off + 4) false u = .ok nss t

/-- The new stack of an inner level: the pointers that the TSS holds, and the descriptor of their selector, every test
passed. -/
def InnerStack (level : BitVec 2) (s : State) (nss : Word16) (nesp : Word32) (d : Desc) (t : State) : Prop :=
  ∃ u : State, InnerPointers level s nss nesp u ∧ (innerStackCheck nss level).Passes u d t

/-- The new stack of an inner level fails: an entry beyond the limit of the TSS raises #TS(TR), and a test of its selector
what the table of the tests says. -/
def InnerStackFails (level : BitVec 2) (s : State) (x : Exn) (t : State) : Prop :=
  (s.tr.limit.toNat < (4 + 8 * level.setWidth 32 : Word32).toNat + 5 ∧ x = tsFault s.tr.sel ∧ t = s) ∨
  ∃ (nss : Word16) (nesp : Word32) (u : State), InnerPointers level s nss nesp u ∧ (innerStackCheck nss level).Fails u x t

/-! ## The task switch -/

/-- The descriptor of the incoming TSS (22_multitasking.md R261, R262; tests 1 to 3 of R263): in the GDT, of an available
80386 TSS, for IRET of a busy one, present, and its limit at least 103. -/
def tssCheck (sel : Word16) (k : TaskKind) : Check where
  before := [(!selTI sel, if k = .iret then tsFault sel else gpFault sel),
    (!selNull sel, if k = .iret then tsFault sel else gpFault sel)]
  sel := sel
  beyond := if k = .iret then tsFault sel else gpFault sel
  tests d := [(d.isSys (if k = .iret then 0xB else 9), if k = .iret then tsFault sel else gpFault sel),
    (d.present, npFault sel), (decide (103 ≤ d.limit.toNat), tsFault sel)]

/-- Tests 4 and 5 (22_multitasking.md R263), of an LDT selector that is not null. -/
def taskLdtCheck (sel : Word16) : Check where
  before := [(!selTI sel, tsFault sel)]
  sel := sel
  beyond := tsFault sel
  tests d := [(d.isSys 2, tsFault sel), (d.present, tsFault sel)]

/-- Tests 6 to 8 (22_multitasking.md R263). -/
def taskCodeCheck (sel : Word16) : Check where
  before := [(!selNull sel, tsFault sel)]
  sel := sel
  beyond := tsFault sel
  tests c := [(c.attr.code, tsFault sel), (c.present, npFault sel), (c.runsAt (rpl sel), tsFault sel)]

/-- Tests 9 to 12 (22_multitasking.md R263), `cpl` being the RPL of the incoming CS. -/
def taskStackCheck (sel : Word16) (cpl : BitVec 2) : Check where
  before := [(!selNull sel, gpFault sel)]
  sel := sel
  beyond := gpFault sel
  tests d := [(d.attr.writable, gpFault sel), (d.present, ssFault sel), (decide (d.dpl = cpl), ssFault sel),
    (decide (rpl sel = cpl), gpFault sel)]

/-- The descriptors that data selectors name, read in order (22_multitasking.md R263, test 13); a null selector names
none. -/
def DataRead : List Word16 → State → List (Option Desc) → State → Prop
  | [], s, ds, t => ds = [] ∧ t = s
  | sel :: rest, s, ds, t => ∃ (d : Option Desc) (u : State) (more : List (Option Desc)),
      (if selNull sel then d = none ∧ u = s else ∃ x, readDesc sel (gpFault sel) s = .ok x u ∧ d = some x) ∧
      DataRead rest u more t ∧ ds = d :: more

/-- Tests 14 to 16 on data selectors and the descriptors they name (22_multitasking.md R263), each on all of them before
the next. -/
def taskDataTests (cpl : BitVec 2) (l : List (Word16 × Option Desc)) : List (Bool × Exn) :=
  (l.map fun p => (p.2.all fun d => d.attr.readable, gpFault p.1)) ++
  (l.map fun p => (p.2.all fun d => d.present, npFault p.1)) ++
  (l.map fun p => (p.2.all fun d => d.attr.conforming || (decide (cpl ≤ d.dpl) && decide (rpl p.1 ≤ d.dpl)), gpFault p.1))

/-- Segment registers loaded in order from descriptors; one whose selector is null stays invalid (22_multitasking.md R263;
21_translation_protection.md R166). -/
def DataLoaded : List (SReg × Word16 × Option Desc) → State → State → Prop
  | [], s, t => t = s
  | (_, _, none) :: rest, s, t => DataLoaded rest s t
  | (r, sel, some d) :: rest, s, t => ∃ u : State, setAccessed sel d s = .ok () u ∧ DataLoaded rest (u.setSeg r (d.seg sel)) t

/-- The offsets in a TSS of the fields that a switch saves, in the order of the rule (22_multitasking.md R252, R262): the general
registers, the segment selectors, EFLAGS and EIP. -/
def savedOffsets : List Word32 :=
  [0x28, 0x2C, 0x30, 0x34, 0x38, 0x3C, 0x40, 0x44, 0x48, 0x4C, 0x50, 0x54, 0x58, 0x5C, 0x24, 0x20]

/-- The outgoing task cannot be saved: after JMP and IRET its busy bit cannot be written, or else a field of its TSS cannot
(22_multitasking.md R262; 92_eei_decisions.md D19). -/
def TaskSaveFails (k : TaskKind) (s s1 : State) (x : Exn) (t : State) : Prop :=
  let clears : Prop := k = .jmp ∨ k = .iret
  (clears ∧ probeBusy s.tr.sel s1 = .error (.exc x) t) ∨
  ∃ s0 : State, (clears → probeBusy s.tr.sel s1 = .ok () s0) ∧ (¬ clears → s0 = s1) ∧
    probeFields s.tr.base savedOffsets s0 = .error (.exc x) t

/-- A task switch from `s` up to its commit point (22_multitasking.md R262, step 3 and the first write of step 4), `s1`
being the state in which the incoming TSS `d` has been checked: after JMP and IRET the busy bit of the outgoing task is
clear; it is saved in its TSS, field by field in the order of the rule, with NT clear in the image for IRET; the busy bit,
then the fields are probed before either is written; TR names the incoming TSS. -/
def TaskSaved (sel : Word16) (k : TaskKind) (ret : Word32) (s s1 : State) (d : Desc) (on : State) : Prop :=
  let fl : Flags := if k = .iret then { s.flags with nt := false } else s.flags
  let saved : List (Word32 × Word32) := savedOffsets.zip
    [s.regs.eax, s.regs.ecx, s.regs.edx, s.regs.ebx, s.regs.esp, s.regs.ebp, s.regs.esi, s.regs.edi, s.es.sel.setWidth 32,
      s.cs.sel.setWidth 32, s.ss.sel.setWidth 32, s.ds.sel.setWidth 32, s.fs.sel.setWidth 32, s.gs.sel.setWidth 32, fl.image, ret]
  ∃ s0 s2 s3 s4 : State,
    (if k = .jmp ∨ k = .iret then probeBusy s.tr.sel s1 = .ok () s0 else s0 = s1) ∧
    probeFields s.tr.base savedOffsets s0 = .ok () s2 ∧
    (if k = .jmp ∨ k = .iret then clearBusy s.tr.sel s2 = .ok () s3 else s3 = s2) ∧
    writeFields s.tr.base saved s3 = .ok () s4 ∧
    on = { s4 with tr := { sel := sel, base := d.base, limit := d.limit, type := 0xB }
                   cur := { s.cur with committed := true, keepRf := true } }

/-- The fields of the incoming TSS that a switch reads, in the order of the rule (22_multitasking.md R252, R262): the LDT
selector, EFLAGS, EIP, the general registers, the segment selectors and CR3. -/
def tssOffsets : List Word32 :=
  [0x60, 0x24, 0x20, 0x28, 0x2C, 0x30, 0x34, 0x38, 0x3C, 0x40, 0x44, 0x48, 0x4C, 0x50, 0x54, 0x58, 0x5C, 0x1C]

/-- The incoming task's registers (22_multitasking.md R262, step 5) from the values `f` of the fields `tssOffsets`: the
hidden parts are not yet valid, NT is set by CALL and an interrupt, CPL is the RPL of CS, and a CR3 that differs from the
old one flushes the TLB (20_memory.md R141; log 32). -/
def State.incoming (s : State) (k : TaskKind) (f : Nat → Word32) : State :=
  let cr3 : Word32 := f 17 &&& 0xFFFFF000
  let named (g : Seg) (i : Nat) : Seg := { g with sel := low16 (f i), valid := false }
  { s with
    cr3 := cr3, tlb := if cr3 ≠ s.cr3 then [] else s.tlb
    eip := f 2, prefetch := [], modeStale := false, cpl := rpl (low16 (f 12))
    flags := { Flags.ofImage (f 1) with nt := decide (k = .call ∨ k = .int) || (f 1).getLsbD 14 }
    regs := { eax := f 3, ecx := f 4, edx := f 5, ebx := f 6, esp := f 7, ebp := f 8, esi := f 9, edi := f 10 }
    es := named s.es 11, cs := named s.cs 12, ss := named s.ss 13, ds := named s.ds 14, fs := named s.fs 15
    gs := named s.gs 16, ldtr := { s.ldtr with sel := low16 (f 0), valid := false } }

/-- Tests 4 and 5 passed, and LDTR loaded (22_multitasking.md R263). -/
def TaskLdt (sel : Word16) (s t : State) : Prop :=
  if selNull sel then t = s
  else ∃ (d : Desc) (u : State), (taskLdtCheck sel).Passes s d u ∧
    t = { u with ldtr := { sel := sel, base := d.base, limit := d.limit, valid := true } }

/-- Tests 6 to 12 passed, and CS and SS loaded (22_multitasking.md R263). -/
def TaskCodeStack (cs ss : Word16) (s t : State) : Prop :=
  ∃ (c d : Desc) (u v x y : State), (taskCodeCheck cs).Passes s c u ∧ setAccessed cs c u = .ok () v ∧
    (taskStackCheck ss (rpl cs)).Passes { v with cs := c.seg cs } d x ∧ setAccessed ss d x = .ok () y ∧
    t = { y with ss := d.seg ss }

/-- One of tests 4 to 16 fails with the exception `x` (22_multitasking.md R263), the registers it comes after having been
loaded. -/
def TaskTestFails (f : Nat → Word32) (s : State) (x : Exn) (t : State) : Prop :=
  let cs : Word16 := low16 (f 12)
  let ss : Word16 := low16 (f 13)
  let data : List Word16 := [low16 (f 14), low16 (f 11), low16 (f 15), low16 (f 16)]
  (selNull (low16 (f 0)) = false ∧ (taskLdtCheck (low16 (f 0))).Fails s x t) ∨
  ∃ a : State, TaskLdt (low16 (f 0)) s a ∧
    ((taskCodeCheck cs).Fails a x t ∨
     (∃ (c : Desc) (u v : State), (taskCodeCheck cs).Passes a c u ∧ setAccessed cs c u = .ok () v ∧
        (taskStackCheck ss (rpl cs)).Fails { v with cs := c.seg cs } x t) ∨
     (∃ b : State, TaskCodeStack cs ss a b ∧
        ((∃ (i : Nat) (h : i < data.length) (ds : List (Option Desc)) (u : State), DataRead (data.take i) b ds u ∧
            selNull data[i] = false ∧ readDesc data[i] (gpFault data[i]) u = .error (.exc x) t) ∨
         (∃ ds : List (Option Desc), DataRead data b ds t ∧ firstFailure (taskDataTests (rpl cs) (data.zip ds)) = some x))))

/-- Tests 4 to 16 pass, and LDTR, CS, SS, DS, ES, FS and GS are loaded in that order (22_multitasking.md R263). -/
def TaskTestsPass (f : Nat → Word32) (s t : State) : Prop :=
  let data : List Word16 := [low16 (f 14), low16 (f 11), low16 (f 15), low16 (f 16)]
  ∃ (a b u : State) (ds : List (Option Desc)), TaskLdt (low16 (f 0)) s a ∧ TaskCodeStack (low16 (f 12)) (low16 (f 13)) a b ∧
    DataRead data b ds u ∧ firstFailure (taskDataTests (rpl (low16 (f 12))) (data.zip ds)) = none ∧
    DataLoaded ([SReg.ds, .es, .fs, .gs].zip (data.zip ds)) u t

/-- The state after prefix bytes that stand one after another at the next offset to fetch (30_encoding.md R313). -/
def State.prefixed (s : State) : List Instr → State
  | [] => s
  | p :: ps =>
    match exec p { s with cur := { s.cur with next := s.cur.next + 1 } } with
    | .next t => t.prefixed ps
    | .fault _ => s
    | .refused _ => s

end Sys2Proof.Machine
end

