-- ==== Sys2Proof/Certificates/Slice0/Obligations.lean ====
section
/-! DEFINITION. Obligations.lean: the statements about the model, each from the rules of spec/ it names. -/

open Sys2Proof Sys2Proof.Machine

/-! ## Arithmetic and logic -/

/-- The ALU block (41_binary_arithmetic.md R431, R432, R434, R435, R437, R444; 43_logical.md R472 to R474): each of the
eight operations, in each of the nine operand forms, completes when its operands can be accessed. The result of the
operation goes to the destination (CMP writes none), the status flags are the operation's, EIP is that of the next
instruction, and nothing else changes: no other register, no other flag, and, with paging off, no byte of memory but
those of the destination and those that other bus masters write; under LOCK none of these writes between the read and
the write of the destination (20_memory.md R127). ADC and SBB use CF, ADD, SUB and CMP do not; AND, OR and XOR clear CF
and OF, set SF, ZF and PF from the result, and leave AF UNDEF. -/
def Obligations.AluBlock : Prop :=
  (∀ (op : AluOp) (f : AluForm) (s s1 s2 s3 : State) (l : Loc) (a b : Val (f.width s)),
    s.mem.wf = true → (s.cur.lock = true → op.lockable f = true) →
    locate (f.width s) f.dest op.writes true s.entered = .ok l s1 →
    f.source (f.width s) s1 = .ok b s2 →
    readLoc (f.width s) l (s2.lockedIf s.cur.lock) = .ok a s3 →
    ∃ t, exec (op.instr f) s = .next t ∧
      t = (if op.writes
           then State.writtenBack ((s.through s3).effect (op.flags a b s.flags.cf)) s.cur.lock _ l (op.result a b s.flags.cf)
           else (s.through s3).effect (op.flags a b s.flags.cf)) ∧
      MemoryKept s3 t (if op.writes then l else .nowhere) ∧
      (s.cr0.pg = false → MemoryKept s t (if op.writes then l else .nowhere))) ∧
  (∀ (w : Width) (a b : Val w) (c : Bool),
    let is (op : AluOp) (r : Val w) (e : FlagEffect) : Prop := op.result a b c = r ∧ op.flags a b c = e
    let logic (r : Val w) : FlagEffect := FlagEffect.szp { cf := .set false, ov := .set false, af := .undef } r
    is .add (addResult a b false) (addFlags a b false) ∧ is .adc (addResult a b c) (addFlags a b c) ∧
    is .sub (subResult a b false) (subFlags a b false) ∧ is .sbb (subResult a b c) (subFlags a b c) ∧
    is .cmp (subResult a b false) (subFlags a b false) ∧ is .and (a &&& b) (logic (a &&& b)) ∧
    is .or (a ||| b) (logic (a ||| b)) ∧ is .xor (a ^^^ b) (logic (a ^^^ b)))

/-- The status flags (00_scope.md R14): ZF, SF and PF describe the result, PF its low byte alone; for an addition and a
subtraction with a carry the result is the exact one modulo 2^n, CF says whether the exact unsigned result leaves the
range of `n` bits, OF whether the exact signed result does, and AF whether the low nibbles carry or borrow. -/
def Obligations.ArithmeticFlags : Prop :=
  ∀ (n : Nat) (a b r : BitVec n) (c : Bool), 4 ≤ n →
    (∀ e : FlagEffect,
      (e.szp r).zf = .set (decide (r.toNat = 0)) ∧ (e.szp r).sf = .set (decide (r.toInt < 0)) ∧
      (e.szp r).pf = .set (decide (((List.range 8).filter fun i => r.getLsbD i).length % 2 = 0))) ∧
    (addResult a b c).toNat = (a.toNat + b.toNat + carryNat c) % 2 ^ n ∧
    (addFlags a b c).cf = .set (decide (2 ^ n ≤ a.toNat + b.toNat + carryNat c)) ∧
    (addFlags a b c).ov = .set (decide (a.toInt + b.toInt + carryNat c ≠ (addResult a b c).toInt)) ∧
    (addFlags a b c).af = .set (decide (16 ≤ (a.setWidth 4).toNat + (b.setWidth 4).toNat + carryNat c)) ∧
    addFlags a b c = FlagEffect.szp (addFlags a b c) (addResult a b c) ∧
    ((subResult a b c).toNat : Int) = (a.toNat - b.toNat - carryNat c) % 2 ^ n ∧
    (subFlags a b c).cf = .set (decide ((a.toNat : Int) - b.toNat - carryNat c < 0)) ∧
    (subFlags a b c).ov = .set (decide (a.toInt - b.toInt - carryNat c ≠ (subResult a b c).toInt)) ∧
    (subFlags a b c).af = .set (decide (((a.setWidth 4).toNat : Int) - (b.setWidth 4).toNat - carryNat c < 0)) ∧
    subFlags a b c = FlagEffect.szp (subFlags a b c) (subResult a b c)

/-- INC, DEC, NEG and NOT (41_binary_arithmetic.md R433, R436, R438; 43_logical.md R471) in every form: the operand
becomes one more, one less, its negative or its complement; INC and DEC leave CF as it was and NOT every flag; nothing
else changes. The one-byte encodings of INC and DEC of a register do the same. Under LOCK no other bus master writes
between the read and the write (20_memory.md R127). -/
def Obligations.UnaryOperations : Prop :=
  ((∀ (op : UnaryOp) (f : UnaryForm) (s s1 s2 : State) (l : Loc) (a : Val (f.width s)),
     s.mem.wf = true → (s.cur.lock = true → isMem f.operand = true) →
     locate (f.width s) f.operand true true s.entered = .ok l s1 →
     readLoc (f.width s) l (s1.lockedIf s.cur.lock) = .ok a s2 →
     ∃ t, exec (op.instr f) s = .next t ∧
       t = State.writtenBack ((s.through s2).effect (op.flags a)) s.cur.lock _ l (op.result a) ∧
       MemoryKept s2 t l ∧ (s.cr0.pg = false → MemoryKept s t l)) ∧
   (∀ (r : Reg) (s : State), exec (.incRv r) s = exec (.incEv (.reg r)) s ∧ exec (.decRv r) s = exec (.decEv (.reg r)) s)) ∧
  (∀ (f : UnaryForm) (s s1 s2 : State) (l : Loc) (a : Val (f.width s)),
     s.mem.wf = true → (s.cur.lock = true → isMem f.operand = true) →
     locate (f.width s) f.operand true true s.entered = .ok l s1 →
     readLoc (f.width s) l (s1.lockedIf s.cur.lock) = .ok a s2 →
     ∃ t, exec (match f with | .eb rm => .notEb rm | .ev rm => .notEv rm) s = .next t ∧
       t = (s.through s2).writtenBack s.cur.lock _ l (~~~a) ∧ MemoryKept s2 t l ∧ (s.cr0.pg = false → MemoryKept s t l))

/-- MUL and IMUL (41_binary_arithmetic.md R439 to R441). With one operand the double-width product of the accumulator
and the operand, unsigned or signed, is in AX, DX:AX or EDX:EAX, and CF and OF say whether the high half is more than
the extension of the low half; with two or three the register holds the exact signed product cut to its width, and CF
and OF say whether it does not fit. The other status flags are UNDEF; no other register and no memory changes. -/
def Obligations.Multiplication : Prop :=
  (∀ (f : UnaryForm) (s u : State) (b : Val (f.width s)), s.cur.lock = false →
     readRM (f.width s) f.operand s.entered = .ok b u →
     (∃ lo hi : Val (f.width s),
       hi.toNat * 2 ^ (f.width s).bits + lo.toNat = (s.regs.read (f.width s) .eax).toNat * b.toNat ∧
       exec (PairOp.mul.instr f) s =
         .next ((((s.through u).withReg (f.width s) .eax lo).withReg (f.width s) (highReg (f.width s)) hi).effect (mulFlags (hi != 0)))) ∧
     (∃ lo hi : Val (f.width s),
       hi.toInt * 2 ^ (f.width s).bits + lo.toNat = (s.regs.read (f.width s) .eax).toInt * b.toInt ∧
       exec (PairOp.imul.instr f) s =
         .next ((((s.through u).withReg (f.width s) .eax lo).withReg (f.width s) (highReg (f.width s)) hi).effect
           (mulFlags (decide (lo.toInt ≠ (s.regs.read (f.width s) .eax).toInt * b.toInt))))) ∧
     (s.cr0.pg = false → s.mem.wf = true → MemoryKept s u .nowhere)) ∧
  (∀ (r : Reg) (rm : RM) (s u : State) (b : Val s.opw), s.cur.lock = false → readRM s.opw rm s.entered = .ok b u →
     let done (p : Int) : Host.Outcome State Fault Refusal :=
       .next (((s.through u).withReg s.opw r (BitVec.ofInt _ p)).effect
         (mulFlags (decide (p < -2 ^ (s.opw.bits - 1) ∨ 2 ^ (s.opw.bits - 1) ≤ p))))
     exec (.imulGvEv r rm) s = done ((s.regs.read s.opw r).toInt * b.toInt) ∧
     (∀ imm : Word32, exec (.imulGvEvIv r rm imm) s = done (b.toInt * (imm.setWidth s.opw.bits).toInt)) ∧
     (∀ imm : Byte, exec (.imulGvEvIb r rm imm) s = done (b.toInt * imm.toInt)) ∧
     (s.cr0.pg = false → s.mem.wf = true → MemoryKept s u .nowhere))

/-- DIV and IDIV (41_binary_arithmetic.md R442, R443): when the divisor is not zero and the quotient fits, the quotient
is in AL, AX or EAX and the remainder in AH, DX or EDX, with dividend = quotient · divisor + remainder and the remainder
smaller than the divisor, a signed remainder having the dividend's sign; all six status flags are UNDEF, and nothing
else changes. A zero divisor, or a quotient that does not fit, raises #DE, and the instruction has no other effect. -/
def Obligations.Division : Prop :=
  (∀ (f : UnaryForm) (s u : State) (d : Val (f.width s)), s.cur.lock = false →
     readRM (f.width s) f.operand s.entered = .ok d u →
     let n := s.regs.read (f.width s) (highReg (f.width s)) ++ s.regs.read (f.width s) .eax
     let done (q r : Val (f.width s)) : Host.Outcome State Fault Refusal :=
       .next ((((s.through u).withReg (f.width s) .eax q).withReg (f.width s) (highReg (f.width s)) r).effect allUndef)
     (d ≠ 0 → n.toNat / d.toNat < 2 ^ (f.width s).bits →
       ∃ q r : Val (f.width s), n.toNat = q.toNat * d.toNat + r.toNat ∧ r.toNat < d.toNat ∧
         exec (PairOp.div.instr f) s = done q r) ∧
     (d ≠ 0 → (∃ q : Val (f.width s), q.toInt = n.toInt.tdiv d.toInt) →
       ∃ q r : Val (f.width s), n.toInt = q.toInt * d.toInt + r.toInt ∧ r.toInt.natAbs < d.toInt.natAbs ∧
         (r.toInt = 0 ∨ (r.toInt < 0 ↔ n.toInt < 0)) ∧ exec (PairOp.idiv.instr f) s = done q r) ∧
     (s.cr0.pg = false → s.mem.wf = true → MemoryKept s u .nowhere)) ∧
  (∀ (f : UnaryForm) (s u : State) (d : Val (f.width s)), s.cur.lock = false →
     readRM (f.width s) f.operand s.entered = .ok d u →
     let n := s.regs.read (f.width s) (highReg (f.width s)) ++ s.regs.read (f.width s) .eax
     (d = 0 ∨ 2 ^ (f.width s).bits ≤ n.toNat / d.toNat → exec (PairOp.div.instr f) s = takeFault s (s.through u) de) ∧
     (d = 0 ∨ ¬ (∃ q : Val (f.width s), q.toInt = n.toInt.tdiv d.toInt) →
       exec (PairOp.idiv.instr f) s = takeFault s (s.through u) de))

/-! ## Decimal, bit and shift instructions -/

/-- DAA, DAS, AAA, AAS, AAM and AAD (42_decimal_arithmetic.md R461 to R466): AL and AH afterwards, and the flags; no
other register and no memory changes; AAM by a zero immediate raises #DE. After the addition of two packed decimal bytes
and a carry, AL after DAA holds the two decimal digits of the sum, and CF the hundred. -/
def Obligations.DecimalAdjustments : Prop :=
  (∀ s : State, s.cur.lock = false →
     let al : Byte := s.regs.read .b8 .eax
     let ah : Byte := s.regs.read .b8 .esp
     let low := decide (9 < al.toNat % 16) || s.flags.af
     let high := decide (0x99 < al.toNat) || s.flags.cf
     let done (x y : Byte) (e : FlagEffect) : Host.Outcome State Fault Refusal :=
       .next (((s.entered.withReg .b8 .eax x).withReg .b8 .esp y).effect e)
     let packed (r : Byte) : FlagEffect := FlagEffect.szp { af := .set low, cf := .set high, ov := .undef } r
     let unpacked : FlagEffect :=
       { af := .set low, cf := .set low, ov := .undef, sf := .undef, zf := .undef, pf := .undef }
     let scaled (r : Byte) : FlagEffect := FlagEffect.szp { ov := .undef, af := .undef, cf := .undef } r
     (∀ r : Byte, r = al + (if low then 6 else 0) + (if high then 0x60 else 0) → exec .daa s = done r ah (packed r)) ∧
     (∀ r : Byte, r = al - (if low then 6 else 0) - (if high then 0x60 else 0) → exec .das s = done r ah (packed r)) ∧
     exec .aaa s = done ((al + (if low then 6 else 0)) &&& 0x0F) (ah + (if low then 1 else 0)) unpacked ∧
     exec .aas s = done ((al - (if low then 6 else 0)) &&& 0x0F) (ah - (if low then 1 else 0)) unpacked ∧
     (∀ imm : Byte, imm ≠ 0 → exec (.aamIb imm) s = done (al % imm) (al / imm) (scaled (al % imm))) ∧
     exec (.aamIb 0) s = takeFault s s.entered de ∧
     (∀ imm : Byte, exec (.aadIb imm) s = done (ah * imm + al) 0 (scaled (ah * imm + al)))) ∧
  (∀ (x y : Fin 100) (c : Bool),
     let bcd (k : Nat) : Byte := BitVec.ofNat 8 (k / 10 % 10 * 16 + k % 10)
     let al := addResult (bcd x) (bcd y) c
     let e := addFlags (bcd x) (bcd y) c
     ∀ cf af, e.cf = .set cf → e.af = .set af →
       daaResult al cf af = bcd (x + y + carryNat c) ∧ highAdjust al cf = decide (100 ≤ x.val + y.val + carryNat c))

/-- TEST (43_logical.md R492) in every form: the flags are those of AND, with CF and OF clear and AF UNDEF. The sixteen
conditions (R505), and SETcc (R506): the byte operand becomes 1 where the condition holds and 0 where it does not; no
flag changes. Nothing else changes. -/
def Obligations.TestAndSet : Prop :=
  (∀ (f : TestForm) (s u : State) (a : Val (f.width s)), s.cur.lock = false →
     readRM (f.width s) f.first s.entered = .ok a u →
     exec f.instr s = .next ((s.through u).effect
       (FlagEffect.szp { cf := .set false, ov := .set false, af := .undef } (a &&& f.second s (f.width s)))) ∧
     (s.cr0.pg = false → s.mem.wf = true → MemoryKept s u .nowhere)) ∧
  ((∀ f : Flags,
     (Cond.o.holds f ↔ f.ov = true) ∧ (Cond.b.holds f ↔ f.cf = true) ∧ (Cond.e.holds f ↔ f.zf = true) ∧
     (Cond.be.holds f ↔ f.cf = true ∨ f.zf = true) ∧ (Cond.s.holds f ↔ f.sf = true) ∧ (Cond.p.holds f ↔ f.pf = true) ∧
     (Cond.l.holds f ↔ f.sf ≠ f.ov) ∧ (Cond.le.holds f ↔ f.zf = true ∨ f.sf ≠ f.ov) ∧
     Cond.no.holds f = !Cond.o.holds f ∧ Cond.ae.holds f = !Cond.b.holds f ∧ Cond.ne.holds f = !Cond.e.holds f ∧
     Cond.a.holds f = !Cond.be.holds f ∧ Cond.ns.holds f = !Cond.s.holds f ∧ Cond.np.holds f = !Cond.p.holds f ∧
     Cond.ge.holds f = !Cond.l.holds f ∧ Cond.g.holds f = !Cond.le.holds f) ∧
   (∀ (c : Cond) (rm : RM) (s u : State) (l : Loc), s.mem.wf = true → s.cur.lock = false →
     locate .b8 rm true true s.entered = .ok l u →
     let t : State := (s.through u).stored .b8 l (if c.holds s.flags then 1 else 0)
     exec (c.set rm) s = .next t ∧ MemoryKept u t l ∧ (s.cr0.pg = false → MemoryKept s t l)))

/-- BT, BTS, BTR, BTC, BSF and BSR (43_logical.md R475 to R481). In a bit test CF is the selected bit, the other status
flags are UNDEF; BT writes nothing, and the others set, clear or invert that bit of the unit and no other; the bit
offset is an immediate, or the register's, which for a memory operand is signed and moves the unit. That the moved
unit's offset is cut to AddrSize is the model's inference (DEDUCED, log 30; R479 gives the sum alone). Under LOCK no
other bus master writes between the read and the write (20_memory.md R127). A bit scan writes the index of the lowest,
or the highest, bit set, with ZF clear; of zero ZF is set and the destination is a free value; the other status flags
are UNDEF. Nothing else changes. -/
def Obligations.BitInstructions : Prop :=
  (∀ (op : BitOp) (rm : RM) (s s1 s2 : State) (l : Loc) (a v : Val s.opw) (k : Nat),
     s1.mem.wf = true → (s.cur.lock = true → op.writes = true ∧ isMem rm = true) →
     readLoc s.opw l (s1.lockedIf s.cur.lock) = .ok a s2 →
     (∀ i < s.opw.bits, v.getLsbD i =
       if i = k then (match op with
         | .bt => a.getLsbD i
         | .bts => true
         | .btr => false
         | .btc => !a.getLsbD i)
       else a.getLsbD i) →
     let tested : State := (s.through s2).effect (bitFlags (a.getLsbD k))
     let t : State := if op.writes then tested.writtenBack s.cur.lock s.opw l v else tested
     (∀ imm : Byte, k = imm.toNat % s.opw.bits → locate s.opw rm op.writes true s.entered = .ok l s1 →
       exec (op.byImm rm imm) s = .next t) ∧
     (∀ r d : Reg, rm = .reg d → l = .reg d → s1 = s.entered → k = (s.regs.read s.opw r).toNat % s.opw.bits →
       exec (op.byReg rm r) s = .next t) ∧
     (∀ (r : Reg) (m : Mem), rm = .mem m → k = ((s.regs.read s.opw r).toInt % (s.opw.bits : Int)).toNat →
       memLoc s.opw (s.segOr (defaultSeg m))
         (bitUnit s.cur.addrSize s.opw (effAddr s.regs m) (s.regs.read s.opw r).toInt) op.writes true s.entered = .ok l s1 →
       exec (op.byReg rm r) s = .next t) ∧
     MemoryKept s2 t (if op.writes then l else .nowhere) ∧ (s1.cr0.pg = false → MemoryKept s1 s2 .nowhere)) ∧
  (∀ (r : Reg) (rm : RM) (s u : State) (a : Val s.opw), s.cur.lock = false → readRM s.opw rm s.entered = .ok a u →
     (∀ i : Nat, a.getLsbD i = true → (∀ j < i, a.getLsbD j = false) →
       exec (.bsfGvEv r rm) s = .next (((s.through u).effect (scanFlags false)).withReg s.opw r (BitVec.ofNat _ i))) ∧
     (∀ i : Nat, a.getLsbD i = true → (∀ j, i < j → a.getLsbD j = false) →
       exec (.bsrGvEv r rm) s = .next (((s.through u).effect (scanFlags false)).withReg s.opw r (BitVec.ofNat _ i))) ∧
     (a = 0 →
       let zero := (s.through u).effect (scanFlags true)
       let t : State := { zero with free := zero.free + 1 }.withReg s.opw r ((Config.freeValue zero.free).setWidth _)
       exec (.bsfGvEv r rm) s = .next t ∧ exec (.bsrGvEv r rm) s = .next t) ∧
     (s.cr0.pg = false → s.mem.wf = true → MemoryKept s u .nowhere))

/-- Shifts and rotates (43_logical.md R482 to R491) in every form, by a masked count `k` of the raw count: for `k` = 0
the operand is checked for a write and nothing changes at all; otherwise the result and the flags are those of the
operation by `k`, and nothing else changes. SHLD and SHRD shift bits of the source into the destination, up to the
width; above it destination and flags are free. -/
def Obligations.Shifts : Prop :=
  (∀ (op : ShiftOp) (f : UnaryForm) (c : ShiftCount) (s s1 : State) (l : Loc) (k : Nat),
     s.mem.wf = true → s.cur.lock = false →
     k = (match c with
       | .one => (1 : Byte)
       | .cl => s.regs.read .b8 .ecx
       | .imm v => v).toNat % 32 →
     locate (f.width s) f.operand true (k != 0) s.entered = .ok l s1 →
     (k = 0 → exec (op.instr f c) s = .next (s.through s1)) ∧
     (∀ (a : Val (f.width s)) (s2 : State), readLoc (f.width s) l s1 = .ok a s2 → 0 < k →
       ∃ t, exec (op.instr f c) s = .next t ∧
         t = State.stored ((s.through s2).effect (op.flags a s.flags.cf k)) _ l (op.result a s.flags.cf k) ∧
         MemoryKept s2 t l ∧ (s.cr0.pg = false → MemoryKept s t l))) ∧
  (∀ (left : Bool) (rm : RM) (r : Reg) (cl : Bool) (imm : Byte) (s s1 : State) (l : Loc) (k : Nat),
     s.mem.wf = true → s.cur.lock = false →
     k = (if cl then s.regs.read .b8 .ecx else imm).toNat % 32 →
     let i : Instr := if left then (if cl then .shldEvGvCl rm r else .shldEvGvIb rm r imm)
       else (if cl then .shrdEvGvCl rm r else .shrdEvGvIb rm r imm)
     let b : Val s.opw := s.regs.read s.opw r
     locate s.opw rm true (k != 0) s.entered = .ok l s1 →
     (k = 0 → exec i s = .next (s.through s1)) ∧
     (∀ (a : Val s.opw) (s2 : State), readLoc s.opw l s1 = .ok a s2 → 0 < k → k ≤ s.opw.bits →
       ∃ v : Val s.opw,
         (left = true → v.toNat = (a.toNat * 2 ^ k + b.toNat / 2 ^ (s.opw.bits - k)) % 2 ^ s.opw.bits) ∧
         (left = false → v.toNat = (a.toNat / 2 ^ k + b.toNat * 2 ^ (s.opw.bits - k)) % 2 ^ s.opw.bits) ∧
         exec i s = .next (((s.through s2).effect (shiftDoubleFlags left a b k)).stored s.opw l v) ∧
         MemoryKept s2 (((s.through s2).effect (shiftDoubleFlags left a b k)).stored s.opw l v) l) ∧
     (∀ (a : Val s.opw) (s2 : State), readLoc s.opw l s1 = .ok a s2 → s.opw.bits < k →
       let t : State := (s.through s2).effect allUndef
       exec i s = .next (State.stored { t with free := t.free + 1 } s.opw l ((Config.freeValue t.free).setWidth _))))

/-- What the shifts and rotates compute (R482 to R491) at each operand width. SHL multiplies and SHR divides by a power
of two, SAR divides a signed value and rounds down, ROL and ROR move bit i by the count around the operand, and RCL and
RCR do so around the operand with CF above it. CF is the last bit shifted out (UNDEF after SHL and SHR by more than the
width), after ROL and ROR the bit moved to the lowest and to the highest place, and after RCL and RCR the bit moved into
it. OF is UNDEF but for a count of 1, where it says that the sign changed, and for RCR that the sign and CF differed. A
shift sets SF, ZF and PF from its result and leaves AF UNDEF; a rotate keeps these four. SHLD and SHRD set the flags of
a shift. -/
def Obligations.ShiftResults : Prop :=
  ∀ (w : Width) (a : Val w) (cf : Bool) (k : Nat), 1 ≤ k → k ≤ 31 →
    let n := w.bits
    ((ShiftOp.shl.result a cf k).toNat = a.toNat * 2 ^ k % 2 ^ n ∧
    (ShiftOp.shr.result a cf k).toNat = a.toNat / 2 ^ k ∧
    (ShiftOp.sar.result a cf k).toInt = a.toInt / 2 ^ k ∧
    (∀ i < n, (ShiftOp.rol.result a cf k).getLsbD ((i + k) % n) = a.getLsbD i) ∧
    (∀ i < n, (ShiftOp.ror.result a cf k).getLsbD i = a.getLsbD ((i + k) % n)) ∧
    (∀ i < n, ∀ j < n, (i + k) % (n + 1) = j → (ShiftOp.rcl.result a cf k).getLsbD j = a.getLsbD i) ∧
    (∀ i < n, ∀ j < n, (i + k) % (n + 1) = j → (ShiftOp.rcr.result a cf k).getLsbD i = a.getLsbD j) ∧
    (∀ j < n, (n + k) % (n + 1) = j → (ShiftOp.rcl.result a cf k).getLsbD j = cf) ∧
    (∀ i < n, (i + k) % (n + 1) = n → (ShiftOp.rcr.result a cf k).getLsbD i = cf)) ∧
    (let e (op : ShiftOp) : FlagEffect := op.flags a cf k
     let r (op : ShiftOp) : Val w := op.result a cf k
     let odd (x : Int) : FlagVal := .set (decide (x % 2 = 1))
     let signs (x : Val w) : FlagVal := if k = 1 then .set (decide (x.toInt < 0) != decide (a.toInt < 0)) else .undef
     (∀ op : ShiftOp, op = .shl ∨ op = .shr ∨ op = .sar → e op = (e op).szp (r op) ∧ (e op).af = .undef) ∧
     (∀ op : ShiftOp, op = .rol ∨ op = .ror ∨ op = .rcl ∨ op = .rcr →
       (e op).sf = .keep ∧ (e op).zf = .keep ∧ (e op).pf = .keep ∧ (e op).af = .keep) ∧
     (e .shl).cf = (if k ≤ n then odd (a.toNat / 2 ^ (n - k) : Nat) else .undef) ∧
     (e .shr).cf = (if k ≤ n then odd (a.toNat / 2 ^ (k - 1) : Nat) else .undef) ∧
     (e .sar).cf = odd (a.toInt / 2 ^ (k - 1)) ∧
     (e .rol).cf = .set ((r .rol).getLsbD 0) ∧ (e .ror).cf = .set ((r .ror).getLsbD (n - 1)) ∧
     (∀ i < n, (i + k) % (n + 1) = n → (e .rcl).cf = .set (a.getLsbD i)) ∧
     (∀ i < n, (n + k) % (n + 1) = i → (e .rcr).cf = .set (a.getLsbD i)) ∧
     (k % (n + 1) = 0 → (e .rcl).cf = .set cf ∧ (e .rcr).cf = .set cf) ∧
     (e .shl).ov = signs (r .shl) ∧ (e .shr).ov = signs (r .shr) ∧ (e .sar).ov = signs (r .sar) ∧
     (e .rol).ov = signs (r .rol) ∧ (e .ror).ov = signs (r .ror) ∧ (e .rcl).ov = signs (r .rcl) ∧
     (e .rcr).ov = (if k = 1 then .set (decide (a.toInt < 0) != cf) else .undef) ∧
     (∀ (left : Bool) (b v : Val w), k ≤ n →
       v.toNat = (if left then a.toNat * 2 ^ k + b.toNat / 2 ^ (n - k) else a.toNat / 2 ^ k + b.toNat * 2 ^ (n - k)) % 2 ^ n →
       shiftDoubleFlags left a b k = FlagEffect.szp
         { cf := if left then odd (a.toNat / 2 ^ (n - k) : Nat) else odd (a.toNat / 2 ^ (k - 1) : Nat)
           af := .undef, ov := signs v } v))

/-! ## Data movement and the stack -/

/-- MOV, MOVZX, MOVSX (40_data_movement.md R401, R413, R414) and XLAT (47_segment_misc.md R632) in every form: an r/m
operand or a moffs holds the register's value or the immediate; a register holds the value read, widened by zeros or by
its sign; no flag, no other register and no other byte of memory changes. -/
def Obligations.Move : Prop :=
  ((∀ (f : StoreForm) (rm : RM) (s u : State) (l : Loc), s.mem.wf = true → s.cur.lock = false →
     locate (f.width s) rm true true s.entered = .ok l u →
     let t := (s.through u).stored (f.width s) l (f.value s (f.width s))
     exec (f.instr rm) s = .next t ∧ MemoryKept u t l ∧ (s.cr0.pg = false → MemoryKept s t l)) ∧
   (∀ (off : Word32) (byte : Bool) (s u : State) (l : Loc), s.mem.wf = true → s.cur.lock = false →
     let w : Width := if byte then .b8 else s.opw
     memLoc w (s.segOr .ds) off true true s.entered = .ok l u →
     let t := (s.through u).stored w l (s.regs.read w .eax)
     exec (if byte then .movObAl off else .movOvEax off) s = .next t ∧ MemoryKept u t l ∧
       (s.cr0.pg = false → MemoryKept s t l))) ∧
  ((∀ (f : LoadForm) (r : Reg) (rm : RM) (s u : State) (v : Val (f.widths s).2), s.cur.lock = false →
     readRM (f.widths s).2 rm s.entered = .ok v u →
     exec (f.instr r rm) s = .next ((s.through u).withReg (f.widths s).1 r (f.widen _ v)) ∧
       (s.cr0.pg = false → s.mem.wf = true → MemoryKept s u .nowhere)) ∧
   (∀ (r : Reg) (s : State), s.cur.lock = false →
     (∀ imm, exec (.movR8Ib r imm) s = .next (s.entered.withReg .b8 r imm)) ∧
     (∀ imm : Word32, exec (.movRvIv r imm) s = .next (s.entered.withReg s.opw r (imm.setWidth _)))) ∧
   (∀ (off : Word32) (byte : Bool) (s u : State), s.cur.lock = false →
     let w : Width := if byte then .b8 else s.opw
     ∀ v : Val w, segRead w (s.segOr .ds) off s.entered = .ok v u →
       exec (if byte then .movAlOb off else .movEaxOv off) s = .next ((s.through u).withReg w .eax v) ∧
         (s.cr0.pg = false → s.mem.wf = true → MemoryKept s u .nowhere)) ∧
   (∀ (s u : State) (v : Byte), s.cur.lock = false →
     let sum := s.regs.ebx + (s.regs.read .b8 .eax).setWidth 32
     segRead .b8 (s.segOr .ds) (if s.cur.addrSize = .s16 then sum &&& 0xFFFF else sum) s.entered = .ok v u →
       exec .xlat s = .next ((s.through u).withReg .b8 .eax v) ∧ (s.cr0.pg = false → s.mem.wf = true → MemoryKept s u .nowhere)))

/-- XCHG (R402): the operand and the register trade their values, and nothing else changes. With a memory operand LOCK#
is asserted from the read to the end of the write, prefix or not (20_memory.md R127, R128): of what other bus masters
are about to write only what precedes the read is written meanwhile. -/
def Obligations.Exchange : Prop :=
  (∀ (byte : Bool) (rm : RM) (r : Reg) (s s1 s2 : State) (l : Loc), s.mem.wf = true →
    (s.cur.lock = true → isMem rm = true) →
    let w : Width := if byte then .b8 else s.opw
    ∀ v : Val w, locate w rm true true s.entered = .ok l s1 → readLoc w l (s1.lockedIf (isMem rm)) = .ok v s2 →
      let t := ((s.through s2).writtenBack (isMem rm) w l (s.regs.read w r)).withReg w r v
      exec (if byte then .xchgEbGb rm r else .xchgEvGv rm r) s = .next t ∧ MemoryKept s2 t l ∧
        (s.cr0.pg = false → MemoryKept s t l) ∧
        (isMem rm = true → s.busLock = false → t.masters = s1.masters.tail)) ∧
  (∀ s : State, s.cur.lock = false →
    ∀ p ∈ [(Reg.ecx, Instr.xchgEaxEcx), (.edx, .xchgEaxEdx), (.ebx, .xchgEaxEbx), (.esp, .xchgEaxEsp),
        (.ebp, .xchgEaxEbp), (.esi, .xchgEaxEsi), (.edi, .xchgEaxEdi)],
      exec p.2 s = .next ((s.entered.withReg s.opw p.1 (s.regs.read s.opw .eax)).withReg s.opw .eax
        (s.regs.read s.opw p.1)))

/-- CBW, CWDE, CWD and CDQ (R409 to R412), LEA and NOP (47_segment_misc.md R630, R631): the accumulator is sign-extended
in place or into (E)DX, LEA loads the offset of its operand cut to OpSize, and NOP does nothing; no flag and no memory
changes. -/
def Obligations.ConvertAndAddress : Prop :=
  ∀ s : State, s.cur.lock = false →
    (∃ v : Word16, v.toInt = (s.regs.read .b8 .eax).toInt ∧ exec .cbw s = .next (s.entered.withReg .b16 .eax v)) ∧
    (∃ v : Word32, v.toInt = (s.regs.read .b16 .eax).toInt ∧ exec .cwde s = .next (s.entered.withReg .b32 .eax v)) ∧
    (∃ v : Word16, (v ++ s.regs.read .b16 .eax).toInt = (s.regs.read .b16 .eax).toInt ∧
      exec .cwd s = .next (s.entered.withReg .b16 .edx v)) ∧
    (∃ v : Word32, (v ++ s.regs.read .b32 .eax).toInt = (s.regs.read .b32 .eax).toInt ∧
      exec .cdq s = .next (s.entered.withReg .b32 .edx v)) ∧
    (∀ (r : Reg) (m : Mem),
      exec (.leaGvM r m) s = .next (s.entered.withReg s.opw r ((effAddr s.regs m).setWidth _))) ∧
    exec .nop s = .next s.entered

/-- PUSH in every form, and PUSHF (R403, R404; 46_block_flag.md R607): the value goes to the bytes below the top of the
stack, (E)SP goes down by its width, and nothing else changes. -/
def Obligations.PushInstructions : Prop :=
  ∀ (f : PushForm) (s s1 s2 : State) (pas : List Word32) (v : Val (f.width s)), s.mem.wf = true → s.cur.lock = false →
    f.source s (f.width s) s.entered = .ok v s1 →
    segResolve .ss (s.stackAt (-distOf (f.width s))) (f.width s).bytes true true s1 = .ok pas s2 →
    let t := ((s.through s2).stored (f.width s) (.mem pas) v).moveSP (-distOf (f.width s))
    exec f.instr s = .next t ∧ MemoryKept s2 t (.mem pas) ∧ (s.cr0.pg = false → MemoryKept s t (.mem pas))

/-- POP to a register or an r/m operand (R406), and POPF (46_block_flag.md R608): the value at the top of the stack goes
to the destination, whose address is computed with (E)SP already up by the width; POPF leaves RF and VM, changes IF only
where CPL is at most IOPL, and IOPL only at CPL 0. -/
def Obligations.PopInstructions : Prop :=
  ∀ (s u : State), s.mem.wf = true → s.cur.lock = false →
    (∀ v : Val s.opw, stackRead s.opw 0 s.entered = .ok v u →
      let up := (s.through u).moveSP (distOf s.opw)
      (∀ r : Reg, exec (.popRv r) s = .next (up.withReg s.opw r v)) ∧
      (∀ (rm : RM) (l : Loc) (x : State), locate s.opw rm true true up = .ok l x →
        let t := (up.rollback x).stored s.opw l v
        exec (.popEv rm) s = .next t ∧ MemoryKept x t l ∧ (s.cr0.pg = false → MemoryKept s t l))) ∧
    (∀ (wide : Bool) (v : Val (if wide then .b32 else .b16)),
      stackRead (if wide then .b32 else .b16) 0 s.entered = .ok v u →
      let n := Flags.ofImage (v.setWidth 32)
      let up := (s.through u).moveSP (distOf (if wide then .b32 else .b16))
      exec (if wide then .popfd else .popf) s = .next { up with
        flags := { n with rf := s.flags.rf, vm := s.flags.vm, ie := if s.cpl ≤ s.flags.iopl then n.ie else s.flags.ie,
                          iopl := if s.cpl = 0 then n.iopl else s.flags.iopl }
        cur := { up.cur with keepRf := true } }) ∧
    (∀ v : Val s.opw, stackRead s.opw 0 s.entered = .ok v u → s.cr0.pg = false → MemoryKept s u .nowhere)

/-- PUSHA and POPA (40_data_movement.md R405, R408), ENTER and LEAVE (46_block_flag.md R590, R591). The eight registers
are pushed in the order EAX, ECX, EDX, EBX, ESP as it was, EBP, ESI, EDI; popping takes eight values and discards the
one for ESP. ENTER pushes (E)BP, copies `level` - 1 pointers of the enclosing frames and pushes the frame pointer where
the level (modulo 32) is not 0, sets (E)BP to the frame and lowers (E)SP by the size; LEAVE sets (E)SP to (E)BP and pops
(E)BP. Each value pushed is stored in the next slot below the top of the stack, the eight slots of PUSHA being checked
before the first store, and no other byte of memory changes. No flag changes. A fault while ENTER pushes is taken from
the registers as changed so far (93_implementation_defined.md U10; the model's reading, DEDUCED, log 45). That the frame
pointer that ENTER pushes and puts into EBP has zeros above SP, where OpSize is 32 and the stack pointer SP, is the
model's choice (DESIGN CHOICE, log 46; R590 is silent). -/
def Obligations.StackFrames : Prop :=
  (∀ (wide : Bool) (s : State), s.cur.lock = false →
     let w : Width := if wide then .b32 else .b16
     let i : Instr := if wide then .pushad else .pusha
     let values : List (Val w) := ([.eax, .ecx, .edx, .ebx, .esp, .ebp, .esi, .edi] : List Reg).map (s.regs.read w)
     (∀ (u t : State) (pas : List Word32), Probed s.user w 8 s.entered u → Pushed s.user w values (u.partway true) t pas →
       exec i s = .next (t.partway false) ∧
         t.regs = s.regs.setSP s.stackSize (s.regs.esp - BitVec.ofNat 32 (8 * w.bytes)) ∧ t.flags = s.flags ∧
         t.eip = s.cur.next ∧
         (s.cr0.pg = false → s.mem.wf = true → pas = s.slots w 8 ∧ MemoryKept s t (.mem pas))) ∧
     (∀ (x : Exn) (u : State), ProbeFails s.user w 8 s.entered x u → exec i s = takeFault s u x) ∧
     (∀ (s1 s2 s3 s4 s5 s6 s7 s8 : State) (di si bp skip bx dx cx ax : Val w),
       pop w s.entered = .ok di s1 → pop w s1 = .ok si s2 → pop w s2 = .ok bp s3 → pop w s3 = .ok skip s4 →
       pop w s4 = .ok bx s5 → pop w s5 = .ok dx s6 → pop w s6 = .ok cx s7 → pop w s7 = .ok ax s8 →
       let up : State := (s.through s8).moveSP (BitVec.ofNat 32 (8 * w.bytes))
       exec (if wide then .popad else .popa) s =
         .next (((((((up.withReg w .edi di).withReg w .esi si).withReg w .ebp bp).withReg w .ebx bx).withReg w .edx
           dx).withReg w .ecx cx).withReg w .eax ax))) ∧
  (∀ s : State, s.cur.lock = false →
     (∀ (size : Word16) (level : Byte),
       let i : Instr := .enterIwIb size level
       let k := level.toNat % 32
       let bp : Val s.opw := s.regs.read s.opw .ebp
       (∀ (x : Exn) (b : State), PushFails s.user s.opw [bp] (s.entered.partway true) x b → exec i s = takeFault s b x) ∧
       (∀ (a : State) (p : List Word32), Pushed s.user s.opw [bp] (s.entered.partway true) a p →
         let frame : Val s.opw := (a.stackAt 0).setWidth s.opw.bits
         (∀ (b c : State) (q r : List Word32),
           (if k = 0 then c = a ∧ q = [] ∧ r = []
            else Displayed s.opw (k - 1) a b q ∧ Pushed s.user s.opw [frame] b c r) →
           exec i s = .next (((c.withReg s.opw .ebp frame).moveSP (-size.setWidth 32)).partway false) ∧
           c.flags = s.flags ∧ c.eip = s.cur.next ∧
           c.regs = { s.regs.setSP s.stackSize (s.regs.esp - BitVec.ofNat 32 ((k + 1) * s.opw.bytes)) with
                      ebp := c.regs.ebp } ∧
           (s.cr0.pg = false → s.mem.wf = true →
             p ++ (q ++ r) = s.slots s.opw (k + 1) ∧ MemoryKept s c (.mem (p ++ (q ++ r))))) ∧
         (∀ (x : Exn) (b : State), k ≠ 0 → DisplayFails s.opw (k - 1) a x b →
           exec i s = takeFault s b x ∧ b.cur.partway = true) ∧
         (∀ (x : Exn) (b c : State) (q : List Word32), k ≠ 0 → Displayed s.opw (k - 1) a b q →
           PushFails s.user s.opw [frame] b x c → exec i s = takeFault s c x ∧ c.cur.partway = true))) ∧
     (∀ (v : Val s.opw) (u : State),
       let down : State := { s.entered with regs := s.regs.setSP s.stackSize s.regs.ebp }
       stackRead s.opw 0 down = .ok v u →
       exec .leave s = .next (((down.rollback u).moveSP (distOf s.opw)).withReg s.opw .ebp v) ∧
         (s.cr0.pg = false → s.mem.wf = true → MemoryKept s u .nowhere)))

/-- The flag instructions, LAHF and SAHF (46_block_flag.md R600 to R606), HLT, CLI and STI (48_system.md R690 to R692;
21_translation_protection.md R235): each writes the flags it names, or AH, and nothing else. HLT at CPL 0 stops
execution at the next instruction; CLI and STI write IF where CPL is at most IOPL and raise #GP(0) elsewhere; after STI
with IF clear INTR waits one instruction. -/
def Obligations.FlagControl : Prop :=
  (∀ s : State, s.cur.lock = false →
     exec .stc s = .next { s.entered with flags := { s.flags with cf := true } } ∧
     exec .clc s = .next { s.entered with flags := { s.flags with cf := false } } ∧
     exec .cmc s = .next { s.entered with flags := { s.flags with cf := !s.flags.cf } } ∧
     exec .cld s = .next { s.entered with flags := { s.flags with df := false } } ∧
     exec .std s = .next { s.entered with flags := { s.flags with df := true } } ∧
     (∃ ah : Byte, exec .lahf s = .next (s.entered.withReg .b8 .esp ah) ∧
       ah.getLsbD 7 = s.flags.sf ∧ ah.getLsbD 6 = s.flags.zf ∧ ah.getLsbD 5 = false ∧ ah.getLsbD 4 = s.flags.af ∧
       ah.getLsbD 3 = false ∧ ah.getLsbD 2 = s.flags.pf ∧ ah.getLsbD 1 = true ∧ ah.getLsbD 0 = s.flags.cf) ∧
     (let ah : Byte := s.regs.read .b8 .esp
      exec .sahf s = .next { s.entered with flags := { s.flags with
        sf := ah.getLsbD 7, zf := ah.getLsbD 6, af := ah.getLsbD 4, pf := ah.getLsbD 2, cf := ah.getLsbD 0 } })) ∧
  (∀ s : State, s.cur.lock = false →
     (s.cpl = 0 → exec .hlt s = .next { s.entered with activity := .halted }) ∧
     (s.cpl ≤ s.flags.iopl → exec .cli s = .next { s.entered with flags := { s.flags with ie := false } }) ∧
     (s.cpl ≤ s.flags.iopl → exec .sti s = .next { s.entered with
       flags := { s.flags with ie := true }, stiShadow := s.stiShadow || !s.flags.ie }) ∧
     (s.flags.iopl < s.cpl → exec .cli s = takeFault s s.entered gp0 ∧ exec .sti s = takeFault s s.entered gp0))

/-! ## Control transfer -/

/-- JMP near and short, the conditional jumps, the loops and JCXZ (44_control_transfer.md R520 to R522, R540 to R544):
EIP becomes the next instruction's offset plus the signed displacement, or the operand's value, cut to OpSize; a target
beyond the code segment raises #GP(0). Where the condition fails the next instruction follows; the loops count (E)CX
down first, by AddrSize, without changing a flag. -/
def Obligations.Jumps : Prop :=
  (∀ s : State, s.cur.lock = false →
     (∀ imm : Byte, JumpsTo (.jmpJbShort imm) s s.entered (s.nextIp + imm.signExtend 32)) ∧
     (∀ imm : Word32, JumpsTo (.jmpJvNear imm) s s.entered (s.nextIp + relWord s.cur.opSize imm)) ∧
     (∀ (rm : RM) (v : Val s.opw) (u : State), readRM s.opw rm s.entered = .ok v u →
       JumpsTo (.jmpEvNear rm) s u (v.setWidth 32) ∧ (s.cr0.pg = false → s.mem.wf = true → MemoryKept s u .nowhere))) ∧
  (∀ s : State, s.cur.lock = false →
     let w := s.cur.addrSize.width
     let n : Val w := s.regs.read w .ecx - 1
     let counted : State := s.entered.withReg w .ecx n
     let loop (i : Instr) (imm : Byte) (ok : Bool) : Prop :=
       let target := cutTarget s.cur.opSize (s.nextIp + imm.signExtend 32)
       (n = 0 ∨ ok = false → exec i s = .next counted) ∧
       (n ≠ 0 → ok = true → target.toNat ≤ s.cs.limit.toNat → exec i s = .next (counted.jumped target)) ∧
       (n ≠ 0 → ok = true → s.cs.limit.toNat < target.toNat → exec i s = takeFault s counted gp0)
     (∀ (c : Cond) (d : RelDisp),
       (c.holds s.flags = false → exec (c.jump d) s = .next s.entered) ∧
       (c.holds s.flags = true → JumpsTo (c.jump d) s s.entered (s.nextIp + (match d with
         | .short v => v.signExtend 32
         | .near v => relWord s.cur.opSize v)))) ∧
     (∀ imm : Byte, loop (.loopJb imm) imm true ∧ loop (.loopeJb imm) imm s.flags.zf ∧
       loop (.loopneJb imm) imm (!s.flags.zf)) ∧
     (∀ imm : Byte,
       (s.regs.read .b16 .ecx ≠ 0 → exec (.jcxzJb imm) s = .next s.entered) ∧
       (s.regs.read .b16 .ecx = 0 → JumpsTo (.jcxzJb imm) s s.entered (s.nextIp + imm.signExtend 32)) ∧
       (s.regs.read .b32 .ecx ≠ 0 → exec (.jecxzJb imm) s = .next s.entered) ∧
       (s.regs.read .b32 .ecx = 0 → JumpsTo (.jecxzJb imm) s s.entered (s.nextIp + imm.signExtend 32))))

/-- CALL near and RET near (R524, R535): CALL checks the target, pushes the next instruction's offset and goes there;
RET goes to the offset popped and releases `imm` more bytes; a target beyond the code segment raises #GP(0) with the
stack pointer as it was. -/
def Obligations.NearCallReturn : Prop :=
  ∀ s : State, s.mem.wf = true → s.cur.lock = false →
    (∀ (i : Instr) (target : Word32) (u : State),
      ((∃ imm, i = .callJvNear imm ∧ target = s.nextIp + relWord s.cur.opSize imm ∧ u = s.entered) ∨
        (∃ (rm : RM) (v : Val s.opw), i = .callEvNear rm ∧ readRM s.opw rm s.entered = .ok v u ∧ target = v.setWidth 32)) →
      let cut := cutTarget s.cur.opSize target
      (s.cs.limit.toNat < cut.toNat → exec i s = takeFault s (s.through u) gp0) ∧
      (∀ (pas : List Word32) (x : State), cut.toNat ≤ s.cs.limit.toNat →
        segResolve .ss (s.stackAt (-distOf s.opw)) s.opw.bytes true true u = .ok pas x →
        let t := (((s.through x).stored s.opw (.mem pas) (s.nextIp.setWidth _)).moveSP (-distOf s.opw)).jumped cut
        exec i s = .next t ∧ MemoryKept x t (.mem pas) ∧ (s.cr0.pg = false → MemoryKept s t (.mem pas)))) ∧
    (∀ (v : Val s.opw) (u : State), stackRead s.opw 0 s.entered = .ok v u →
      let target : Word32 := v.setWidth 32
      let back (i : Instr) (extra : Word16) : Prop :=
        (target.toNat ≤ s.cs.limit.toNat →
          exec i s = .next (((s.through u).moveSP (distOf s.opw + extra.setWidth 32)).jumped target)) ∧
        (s.cs.limit.toNat < target.toNat → exec i s = takeFault s (s.through u) gp0)
      back .retNear 0 ∧ (∀ imm, back (.retIwNear imm) imm) ∧ (s.cr0.pg = false → s.mem.wf = true → MemoryKept s u .nowhere))

/-- Far JMP and CALL, direct or through memory, in real-address mode (R523, R525, R531): CS takes the selector and the
base 16 times it, EIP the offset cut to OpSize; CALL pushes CS and the next instruction's offset first, each of OpSize,
below the top of the stack, both slots being checked before anything is stored, and changes no other byte of memory; a
target beyond the limit of CS raises #GP(0). That the second part of an operand in memory lies at the sum of its address
and the length of the first, wrapped at 2^32 and not cut to 16 bits, is the model's choice (DESIGN CHOICE, log 54). So
is that the offset is read before the selector (DESIGN CHOICE, log 57: the rules give no order). That a real-mode load
of CS leaves the valid bit of the hidden part as it was is the model's choice (DESIGN CHOICE, log 56). -/
def Obligations.FarTransferReal : Prop :=
  ∀ (jmp call : Instr) (off : Word32) (sel : Word16) (s a : State), s.cr0.pe = false → s.cur.lock = false →
    FarPair s jmp call off sel a →
    let target := cutTarget s.cur.opSize off
    (target.toNat ≤ s.cs.limit.toNat → exec jmp s = .next ((s.through a).realFar sel target) ∧
      (∀ (u : State) (pas : List Word32), PushesReturn s s.opw a u pas →
        exec call s = .next (u.realFar sel target) ∧ ReturnPushed s s.opw u pas) ∧
      (∀ (x : Exn) (u : State), ProbeFails s.user s.opw 2 a x u → exec call s = takeFault s u x)) ∧
    (s.cs.limit.toNat < target.toNat → exec jmp s = takeFault s a gp0 ∧ exec call s = takeFault s a gp0)

/-- A far JMP or CALL, direct or through memory, in protected mode to a code segment (21_translation_protection.md R191;
R526, R527): with the privilege condition met and the target inside the segment, CS takes the selector with CPL as its
RPL and the descriptor's base, limit and attributes, EIP takes the offset, and CPL stays; CALL pushes CS and the next
instruction's offset first, each of OpSize, below the top of the stack, after both slots have been checked. A null
selector raises #GP(0), a descriptor that is no code segment, call gate, task gate or TSS and a privilege condition not
met #GP(selector), a segment not present #NP(selector), no room for the pushes #SS(0), and a target beyond the segment
#GP(0). That the second part of an operand in memory lies at the sum of its address and the length of the first, wrapped
at 2^32 and not cut to 16 bits, is the model's choice (DESIGN CHOICE, log 54). So is that the offset is read before the
selector (DESIGN CHOICE, log 57: the rules give no order). That slots which go on below offset 0 at the top of the stack
pointer's width count as room is the model's choice (DESIGN CHOICE, log 42). -/
def Obligations.FarTransferProtected : Prop :=
  ∀ (jmp call : Instr) (off : Word32) (sel : Word16) (s a : State), s.cr0.pe = true → s.cur.lock = false →
    FarPair s jmp call off sel a →
    let target := cutTarget s.cur.opSize off
    let both (x : Exn) (u : State) : Prop := exec jmp s = takeFault s u x ∧ exec call s = takeFault s u x
    (selNull sel = true → both gp0 a) ∧
    (∀ (x : Exn) (u : State), selNull sel = false → readDesc sel (gpFault sel) a = .error (.exc x) u → both x u) ∧
    (∀ (d : Desc) (u : State), selNull sel = false → readDesc sel (gpFault sel) a = .ok d u →
      let ok : Prop := d.dpl ≤ s.cpl ∧ d.attr.conforming = true ∨
        d.dpl = s.cpl ∧ rpl sel ≤ s.cpl ∧ d.attr.conforming = false
      let room : Prop := stackRoom true s.ss s.regs.esp s.opw 2 = true
      (d.attr.code = false → (∀ t : BitVec 4, t = 1 ∨ t = 3 ∨ t = 4 ∨ t = 5 ∨ t = 9 ∨ t = 0xC → d.isSys t = false) →
        both (gpFault sel) u) ∧
      (d.attr.code = true →
        (¬ ok → both (gpFault sel) u) ∧ (ok → d.present = false → both (npFault sel) u) ∧
        (ok → d.present = true →
          (¬ room → exec call s = takeFault s u ss0) ∧
          (d.limit.toNat < target.toNat → exec jmp s = takeFault s u gp0 ∧ (room → exec call s = takeFault s u gp0)) ∧
          (target.toNat ≤ d.limit.toNat →
            (∀ v : State, setAccessed sel d u = .ok () v →
              exec jmp s = .next ({ s.through v with cs := d.seg (withRpl sel s.cpl) }.jumped target)) ∧
            (∀ (x : Exn) (v : State), room → ProbeFails s.user s.opw 2 u x v → exec call s = takeFault s v x) ∧
            (∀ (v : State) (pas : List Word32), room → PushesReturn s s.opw u v pas →
              ReturnPushed s s.opw v pas ∧
              ∀ x : State, setAccessed sel d v = .ok () x →
                exec call s = .next ({ x with cs := d.seg (withRpl sel s.cpl) }.jumped target))))))

/-- Far JMP and CALL through a call gate (21_translation_protection.md R193, R196, R197; R528, R529). A gate whose DPL
is below CPL or the RPL of its selector raises #GP(selector), one not present #NP(selector), and one whose own selector
is null #GP(0), or names no code segment #GP of that selector. JMP, and CALL to code at the same level, go to the gate's
selector and offset at that level, CALL pushing CS and the next instruction's offset as doublewords. CALL to an inner
level ends at the gate's target, at the target's level, on the stack the TSS names for that level, whose checks raise
#TS and #SS; SS and ESP as they were, the parameters, the one highest in memory first, CS and the next instruction's
offset are pushed there, each as a doubleword at supervisor level (20_memory.md R120, R132). A target with the wrong
privilege raises #GP, one not present #NP, no room for the pushes #SS(0), an offset beyond the target #GP(0). That EIP
takes the whole offset of the gate, whatever OpSize is, is the model's choice (DESIGN CHOICE, log 23), that a same-level
CALL pushes doublewords its reading (DEDUCED, log 23); so are that a parameter's offset is cut to 16 bits where the old
stack pointer is SP (DESIGN CHOICE, log 42), and that a fault among the pushes on the new stack keeps that stack
(93_implementation_defined.md U10; DEDUCED, log 45). That ESP is read from the TSS before SS is the model's choice
(DESIGN CHOICE, log 51). That the second part of an operand in memory lies at the sum of its address and the length of
the first, wrapped at 2^32 and not cut to 16 bits, is the model's choice (DESIGN CHOICE, log 54). So is that the offset
is read before the selector (DESIGN CHOICE, log 57: the rules give no order). That slots which go on below offset 0 at
the top of the stack pointer's width count as room is the model's choice (DESIGN CHOICE, log 42). -/
def Obligations.CallGates : Prop :=
  ∀ (jmp call : Instr) (off : Word32) (sel : Word16) (g : Desc) (s a s1 : State), s.cr0.pe = true → s.cur.lock = false →
    FarPair s jmp call off sel a → selNull sel = false → readDesc sel (gpFault sel) a = .ok g s1 →
    g.attr.code = false → g.isSys 0xC = true →
    (∀ (x : Exn) (u : State), (gateTargetCheck sel g s.cpl).Fails s1 x u →
      exec jmp s = takeFault s u x ∧ exec call s = takeFault s u x) ∧
    (∀ (c : Desc) (s2 : State), (gateTargetCheck sel g s.cpl).Passes s1 c s2 →
      let ok : Prop := c.attr.conforming = true ∧ c.dpl ≤ s.cpl ∨ c.attr.conforming = false ∧ c.dpl = s.cpl
      let inner : Prop := c.attr.conforming = false ∧ c.dpl < s.cpl
      let inside : Prop := g.gateOff.toNat ≤ c.limit.toNat
      (¬ ok → exec jmp s = takeFault s s2 (gpFault g.gateSel)) ∧
      (¬ ok → ¬ inner → exec call s = takeFault s s2 (gpFault g.gateSel)) ∧
      (c.present = false → (ok → exec jmp s = takeFault s s2 (npFault g.gateSel)) ∧
        (ok ∨ inner → exec call s = takeFault s s2 (npFault g.gateSel))) ∧
      (c.present = true → ok →
        let room : Prop := stackRoom true s.ss s.regs.esp .b32 2 = true
        (¬ inside → exec jmp s = takeFault s s2 gp0) ∧
        (∀ v : State, inside → setAccessed g.gateSel c s2 = .ok () v →
          exec jmp s = .next ({ s.through v with cs := c.seg (withRpl g.gateSel s.cpl) }.jumped g.gateOff)) ∧
        (¬ room → exec call s = takeFault s s2 ss0) ∧ (room → ¬ inside → exec call s = takeFault s s2 gp0) ∧
        (∀ (x : Exn) (v : State), room → inside → ProbeFails s.user .b32 2 s2 x v → exec call s = takeFault s v x) ∧
        (∀ (v : State) (pas : List Word32), room → inside → PushesReturn s .b32 s2 v pas →
          ReturnPushed s .b32 v pas ∧
          ∀ x : State, setAccessed g.gateSel c v = .ok () x →
            exec call s = .next ({ x with cs := c.seg (withRpl g.gateSel s.cpl) }.jumped g.gateOff))) ∧
      (c.present = true → inner →
        (∀ (x : Exn) (u : State), InnerStackFails c.dpl s2 x u → exec call s = takeFault s u x) ∧
        (∀ (nss : Word16) (nesp : Word32) (d : Desc) (s3 : State), InnerStack c.dpl s2 nss nesp d s3 →
          let room : Prop := stackRoom true (d.seg nss) nesp .b32 (4 + g.gateCount) = true
          (¬ room → exec call s = takeFault s s3 ss0) ∧ (room → ¬ inside → exec call s = takeFault s s3 gp0) ∧
          (∀ (params : List Word32) (y : Nat → State) (s5 : State), room → inside → params.length = g.gateCount →
            y 0 = s3 → (∀ i (h : i < params.length), stackRead .b32 (BitVec.ofNat 32 (4 * i)) (y i) = .ok params[i] (y (i + 1))) →
            setAccessed nss d (y params.length) = .ok () s5 →
            let on : State := { s5 with ss := d.seg nss, regs := { s.regs with esp := nesp }, cpl := c.dpl }
            let values : List Word32 :=
              [s.ss.sel.setWidth 32, s.regs.esp] ++ (params.reverse ++ [s.cs.sel.setWidth 32, s.nextIp])
            (∀ (x : Exn) (b : State), PushFails false .b32 values (on.partway true) x b →
              exec call s = takeFault s b x ∧ b.cur.partway = true) ∧
            (∀ (p : State) (pas : List Word32), Pushed false .b32 values (on.partway true) p pas →
              (s.cr0.pg = false → s.mem.wf = true →
                pas = on.slots .b32 (4 + g.gateCount) ∧ MemoryKept on p (.mem pas)) ∧
              (∀ t : State, setAccessed g.gateSel c p = .ok () t →
                exec call s = .next (({ t with cs := c.seg (withRpl g.gateSel c.dpl) }.jumped g.gateOff).partway false) ∧
                  t.cpl = c.dpl ∧ t.ss = d.seg nss ∧ t.flags = s.flags ∧
                  t.regs = { s.regs with
                    esp := (Regs.setSP { s.regs with esp := nesp } (stackSizeOf true (d.seg nss))
                             (nesp - BitVec.ofNat 32 (4 * (4 + g.gateCount)))).esp }))))))

/-- RET far (R536, R537; 21_translation_protection.md R199, R200): in real-address mode CS:EIP are popped and `imm` more
bytes released; in protected mode to the same level CS takes the selector popped and its descriptor; to an outer level
CPL becomes the selector's RPL, SS:ESP are popped too, and the data segments that the outer level may not use are
nulled. A target beyond the code segment raises #GP(0), a frame outside the stack segment #SS(0); the code selector and,
to an outer level, the stack selector are checked, each failing test raising its exception. That the offset of each slot
of a frame is cut to 16 bits where the stack pointer is SP, so that a frame that runs past FFFFH goes on at offset 0 and
raises nothing for that, is the model's choice (DESIGN CHOICE, log 42). That a nulled data segment register holds 0000H,
of the null selectors 0000H to 0003H, is the model's choice (DESIGN CHOICE, log 55). That a real-mode load of CS leaves
the valid bit of the hidden part as it was is the model's choice (DESIGN CHOICE, log 56). -/
def Obligations.FarReturn : Prop :=
  ∀ (s : State) (imm : Word16), s.cur.lock = false →
    let extra : Word32 := imm.setWidth 32
    let i : Instr := .retIwFar imm
    (imm = 0 → exec .retFar s = exec i s) ∧
    (∀ (ip sel : Val s.opw) (u v : State), s.cr0.pe = false → pop s.opw s.entered = .ok ip u → pop s.opw u = .ok sel v →
      ((ip.setWidth 32 : Word32).toNat ≤ s.cs.limit.toNat →
        exec i s = .next ((v.realFar (sel.setWidth 16) (ip.setWidth 32)).moveSP extra)) ∧
      (s.cs.limit.toNat < (ip.setWidth 32 : Word32).toNat → exec i s = takeFault s v gp0)) ∧
    (s.cr0.pe = true → stackHolds s 0 s.opw 2 = false → exec i s = takeFault s s.entered ss0) ∧
    (∀ (ip : Val s.opw) (sel : Word16) (u v : State), s.cr0.pe = true → stackHolds s 0 s.opw 2 = true →
      stackRead s.opw 0 s.entered = .ok ip u → stackRead .b16 (distOf s.opw) u = .ok sel v →
      let off : Word32 := ip.setWidth 32
      (∀ (e : Exn) (x : State), (returnCodeCheck sel s.cpl).Fails v e x → exec i s = takeFault s x e) ∧
      (∀ (c : Desc) (x : State), (returnCodeCheck sel s.cpl).Passes v c x →
        (rpl sel = s.cpl → c.limit.toNat < off.toNat → exec i s = takeFault s x gp0) ∧
        (rpl sel = s.cpl → off.toNat ≤ c.limit.toNat → ∀ y : State, setAccessed sel c x = .ok () y →
          exec i s =
            .next (({ s.through y with cs := c.seg sel }.jumped off).moveSP (2 * distOf s.opw + extra))) ∧
        (s.cpl < rpl sel → stackHolds s (2 * distOf s.opw + extra) s.opw 2 = false → exec i s = takeFault s x ss0) ∧
        (s.cpl < rpl sel → stackHolds s (2 * distOf s.opw + extra) s.opw 2 = true →
          ∀ (nesp : Val s.opw) (nss : Word16) (y z : State), stackRead s.opw (2 * distOf s.opw + extra) x = .ok nesp y →
          stackRead .b16 (3 * distOf s.opw + extra) y = .ok nss z →
          (∀ (e : Exn) (a : State), (returnStackCheck nss (rpl sel)).Fails z e a → exec i s = takeFault s a e) ∧
          (∀ (d : Desc) (a : State), (returnStackCheck nss (rpl sel)).Passes z d a →
            (c.limit.toNat < off.toNat → exec i s = takeFault s a gp0) ∧
            (∀ b t : State, off.toNat ≤ c.limit.toNat → setAccessed sel c a = .ok () b →
              setAccessed nss d ({ b with cs := c.seg sel, cpl := rpl sel }.jumped off) = .ok () t →
              exec i s = .next { s.through t with
                cs := c.seg sel, cpl := rpl sel, eip := off, modeStale := false, ss := d.seg nss
                regs := s.regs.setSP (stackSizeOf true (d.seg nss)) (nesp.setWidth 32 + extra)
                ds := s.ds.keepOrNull (rpl sel), es := s.es.keepOrNull (rpl sel), fs := s.fs.keepOrNull (rpl sel)
                gs := s.gs.keepOrNull (rpl sel) })))))

/-! ## Interrupts and exceptions -/

/-- Interrupts in real-address mode. Delivery (23_real_address_mode.md R297): FLAGS, CS and IP are pushed in that order,
each as a word in the next slot below the top of the stack, and where one of them cannot be pushed the processor shuts
down (60_exceptions.md R758), with the registers as they were (DESIGN CHOICE, log 20), a software interrupt then not
being completed, so that it arms no single-step trap (DESIGN CHOICE, log 15); IF and TF are cleared, and CS:IP come from
entry `n` of the interrupt table, the offset at the lower address; RF is cleared too (60_exceptions.md R785); an entry
beyond the limit of the table raises exception 8 (R298). IRET (44_control_transfer.md R545): IP, CS and FLAGS are popped
in that order, as doublewords by IRETD, and the NMI latch is cleared (60_exceptions.md R783). That a real-mode load of
CS leaves the valid bit of the hidden part as it was is the model's choice (DESIGN CHOICE, log 56). -/
def Obligations.RealModeInterrupts : Prop :=
  ((∀ (e : Event) (s : State), s.cr0.pe = false → s.cur.committed = false → s.cur.partway = false →
     e.vec.toNat * 4 + 3 ≤ s.idtr.limit.toNat →
     let values : List Word16 := [low16 s.flags.image, s.cs.sel, low16 e.ret]
     (∀ (x : Exn) (t : State), PushFails false .b16 values s x t →
       deliver e s = .ok () { s.rollback t with activity := .shutdown, cur := { s.cur with incomplete := true } }) ∧
     (∀ (c x y : State) (pas : List Word32) (ip sel : Word16), Pushed false .b16 values s c pas →
       let masked : State := { c with flags := { s.flags with ie := false, tf := false, rf := false } }
       let entry : Word32 := s.idtr.base + 4 * e.vec.setWidth 32
       linRead .b16 entry false masked = .ok ip x → linRead .b16 (entry + 2) false x = .ok sel y →
       deliver e s = .ok () (y.realFar sel (ip.setWidth 32)) ∧
         (s.cr0.pg = false → s.mem.wf = true → pas = s.slots .b16 3 ∧ MemoryKept s c (.mem pas)))) ∧
   (∀ (e : Event) (s : State), s.cr0.pe = false → s.idtr.limit.toNat < e.vec.toNat * 4 + 3 →
     deliverOnce e s = .error (.exc ⟨8, .none⟩) s)) ∧
  (∀ (wide : Bool) (s a b c : State), s.cr0.pe = false → s.cur.lock = false →
     let sz : Size := if wide then .s32 else .s16
     ∀ ip sel fl : Val sz.width, pop sz.width s.entered = .ok ip a → pop sz.width a = .ok sel b → pop sz.width b = .ok fl c →
       (ip.setWidth 32 : Word32).toNat ≤ s.cs.limit.toNat →
       exec (if wide then .iretd else .iret) s = .next { c.realFar (sel.setWidth 16) (ip.setWidth 32) with
         flags := { Flags.ofImage (fl.setWidth 32) with
           vm := s.flags.vm, rf := if wide then (Flags.ofImage (fl.setWidth 32)).rf else s.flags.rf }
         nmiLatch := false, cur := { c.cur with keepRf := true } })

/-- INT n, INT 3, INTO and BOUND (44_control_transfer.md R550 to R553): the event delivered has the identifier n, 3 or
4, comes from software, saves the next instruction's offset and has no error code; INTO with OF = 0 does nothing. A
signed index inside the bounds of BOUND changes nothing, and one outside raises #BR. That the second part of the operand
of BOUND lies at the sum of its address and the length of the first, wrapped at 2^32 and not cut to 16 bits, is the
model's choice (DESIGN CHOICE, log 54). -/
def Obligations.SoftwareInterrupts : Prop :=
  (∀ s t : State, s.cur.lock = false →
     let event (n : Byte) : Event := { vec := n, src := .soft, ret := s.nextIp, code := .none, rf := false }
     (∀ n : Byte, deliver (event n) s.entered = .ok () t → exec (.intIb n) s = .next t) ∧
     (deliver (event 3) s.entered = .ok () t → exec .int3 s = .next t) ∧
     (s.flags.ov = true → deliver (event 4) s.entered = .ok () t → exec .into s = .next t) ∧
     (s.flags.ov = false → exec .into s = .next s.entered)) ∧
  (∀ (r : Reg) (m : Mem) (s u v : State) (lo hi : Val s.opw), s.cur.lock = false →
     segRead s.opw (s.segOr (defaultSeg m)) (effAddr s.regs m) s.entered = .ok lo u →
     segRead s.opw (s.segOr (defaultSeg m)) (effAddr s.regs m + distOf s.opw) u = .ok hi v →
     let x : Int := (s.regs.read s.opw r).toInt
     (lo.toInt ≤ x ∧ x ≤ hi.toInt → exec (.boundGvMa r m) s = .next (s.through v)) ∧
     (x < lo.toInt ∨ hi.toInt < x → exec (.boundGvMa r m) s = takeFault s (s.through v) br) ∧
     (s.cr0.pg = false → s.mem.wf = true → MemoryKept s v .nowhere))

/-- Delivery through an interrupt or trap gate to a handler at the same level (60_exceptions.md R760, R763, R765): with
no room for the pushes #SS(0) is raised, for an offset beyond the handler's segment #GP(0), and where a slot fails the
checks of a write what it raises, before anything is pushed (00_scope.md R13); else the flags image, CS, the return
offset and the error code, if any, are pushed as doublewords; CS takes the gate's selector with CPL as its RPL, EIP the
gate's offset; TF, NT and RF are cleared, and IF by an interrupt gate only. The pushes are at supervisor level
(20_memory.md R132), which is the model's reading of R132 (DEDUCED, log 48). That slots which go on below offset 0 at
the top of the stack pointer's width count as room is the model's choice (DESIGN CHOICE, log 42). -/
def Obligations.GateDeliverySameLevel : Prop :=
  ∀ (e : Event) (g c : Desc) (s s1 s2 : State), s.cr0.pe = true → s.cur.committed = false → s.cur.partway = false →
    e.vec.toNat * 8 + 7 ≤ s.idtr.limit.toNat → readPair (s.idtr.base + 8 * e.vec.setWidth 32) s = .ok g s1 →
    (g.isSys 0xE = true ∨ g.isSys 0xF = true) → (e.src = .soft → s.cpl ≤ g.dpl) → g.present = true →
    selNull g.gateSel = false → readDesc g.gateSel (gpFault g.gateSel) s1 = .ok c s2 → c.attr.code = true →
    c.dpl ≤ s.cpl → c.present = true → (c.attr.conforming = true ∨ c.dpl = s.cpl) →
    let k : Nat := if e.code.pushes then 4 else 3
    let room : Prop := stackRoom true s.ss s.regs.esp .b32 k = true
    let inside : Prop := g.gateOff.toNat ≤ c.limit.toNat
    (¬ room → deliverOnce e s = .error (.exc ss0) s2) ∧ (room → ¬ inside → deliverOnce e s = .error (.exc gp0) s2) ∧
    (∀ (x : Exn) (u : State), room → inside → ProbeFails false .b32 k s2 x u → deliverOnce e s = .error (.exc x) u) ∧
    (∀ (s3 s5 s6 : State) (pas more : List Word32), room → inside → Probed false .b32 k s2 s3 →
      Pushed false .b32 [({ s.flags with rf := e.rf }).image, s.cs.sel.setWidth 32, e.ret] s3 s5 pas →
      (if e.code.pushes then
        Pushed false .b32 [errImage e.code (Config.freeValue s5.free)] { s5 with free := s5.free + 1 } s6 more
       else s6 = s5 ∧ more = []) →
      (s.cr0.pg = false → s.mem.wf = true →
        pas ++ more = s.slots .b32 k ∧ MemoryKept s s6 (.mem (pas ++ more))) ∧
      (∀ s7 : State, setAccessed g.gateSel c s6 = .ok () s7 →
        deliver e s = .ok () ({ s7 with
          cs := c.seg (withRpl g.gateSel s.cpl)
          flags := { s.flags with tf := false, nt := false, rf := false, ie := s.flags.ie && g.isSys 0xF } }.jumped
            g.gateOff)))

/-- Delivery through a gate to an inner level (R763, R764; 21_translation_protection.md R196): the stack that the TSS
names for that level is checked, its checks raising #TS and #SS, no room for the pushes #SS(0), and an offset beyond the
handler's segment #GP(0); it ends at the gate's target with CPL the target's DPL, on that stack; SS and ESP as they
were, the flags image, CS, the return offset and the error code, if any, are pushed there in that order, each as a
doubleword at supervisor level (20_memory.md R132): 20 bytes, or 24 with an error code. That a fault among these pushes
keeps the new stack is the model's reading of 93_implementation_defined.md U10 (DEDUCED, log 45). That ESP is read from
the TSS before SS is the model's choice (DESIGN CHOICE, log 51). That slots which go on below offset 0 at the top of the
stack pointer's width count as room is the model's choice (DESIGN CHOICE, log 42). -/
def Obligations.GateDeliveryInner : Prop :=
  ∀ (e : Event) (g c : Desc) (s s1 s2 : State),
    s.cr0.pe = true → s.cur.committed = false → s.cur.partway = false → e.vec.toNat * 8 + 7 ≤ s.idtr.limit.toNat →
    readPair (s.idtr.base + 8 * e.vec.setWidth 32) s = .ok g s1 → (g.isSys 0xE = true ∨ g.isSys 0xF = true) →
    (e.src = .soft → s.cpl ≤ g.dpl) → g.present = true → selNull g.gateSel = false →
    readDesc g.gateSel (gpFault g.gateSel) s1 = .ok c s2 → c.attr.code = true → c.present = true → c.dpl < s.cpl →
    c.attr.conforming = false →
    (∀ (x : Exn) (u : State), InnerStackFails c.dpl s2 x u → deliverOnce e s = .error (.exc x) u) ∧
    (∀ (nss : Word16) (nesp : Word32) (d : Desc) (s3 : State), InnerStack c.dpl s2 nss nesp d s3 →
      let k : Nat := if e.code.pushes then 6 else 5
      let room : Prop := stackRoom true (d.seg nss) nesp .b32 k = true
      let inside : Prop := g.gateOff.toNat ≤ c.limit.toNat
      (¬ room → deliverOnce e s = .error (.exc ss0) s3) ∧ (room → ¬ inside → deliverOnce e s = .error (.exc gp0) s3) ∧
      (∀ s4 : State, room → inside → setAccessed nss d s3 = .ok () s4 →
        let on : State := { s4 with ss := d.seg nss, regs := { s.regs with esp := nesp }, cpl := c.dpl }
        let values : List Word32 :=
          [s.ss.sel.setWidth 32, s.regs.esp, ({ s.flags with rf := e.rf }).image, s.cs.sel.setWidth 32, e.ret]
        (∀ (x : Exn) (b : State), PushFails false .b32 values (on.partway true) x b →
          deliverOnce e s = .error (.exc x) b ∧ b.cur.partway = true) ∧
        (∀ (p5 p6 : State) (pas more : List Word32), Pushed false .b32 values (on.partway true) p5 pas →
          (if e.code.pushes then
            Pushed false .b32 [errImage e.code (Config.freeValue p5.free)] { p5 with free := p5.free + 1 } p6 more
           else p6 = p5 ∧ more = []) →
          (s.cr0.pg = false → s.mem.wf = true →
            pas ++ more = on.slots .b32 k ∧ MemoryKept on p6 (.mem (pas ++ more))) ∧
          (∀ t : State, setAccessed g.gateSel c p6 = .ok () t →
            deliver e s = .ok () (({ t with
              cs := c.seg (withRpl g.gateSel c.dpl)
              flags := { s.flags with tf := false, nt := false, rf := false, ie := s.flags.ie && g.isSys 0xF } }.jumped
                g.gateOff).partway false) ∧
              t.cpl = c.dpl ∧ t.ss = d.seg nss ∧
              t.regs = { s.regs with
                esp := (Regs.setSP { s.regs with esp := nesp } (stackSizeOf true (d.seg nss))
                         (nesp - BitVec.ofNat 32 (4 * k))).esp }))))

/-- The checks of a delivery and error codes (60_exceptions.md R738, R752, R760, R762): an identifier beyond the limit
of the IDT, an entry that is no gate, and a software interrupt through a gate whose DPL is numerically below CPL raise
#GP, and a gate not present raises #NP, with the identifier and the I bit in the error code; a gate whose selector is
null raises #GP(0), and one that names no code segment of CPL or a level inside it #GP of that selector, #NP if it is
not present. A selector code has bits 1:0 clear, with bit 0 (EXT) set when the exception arose while delivering an event
that no software interrupt caused; a page fault's code has P, W/R and U/S in bits 0, 1 and 2; what is pushed has the
code in its low half. A gate of 80286 format is refused (00_scope.md R5). That an entry with S = 1 is none, whatever its
type, and raises #GP is the model's choice (DESIGN CHOICE, log 53). -/
def Obligations.DeliveryChecks : Prop :=
  (∀ (e : Event) (s : State), s.cr0.pe = true →
     let code (v : Byte) : Exn := ⟨v, .sel (8 * e.vec.setWidth 16 + 2)⟩
     (s.idtr.limit.toNat < e.vec.toNat * 8 + 7 → deliverOnce e s = .error (.exc (code 13)) s) ∧
     (∀ (g : Desc) (u : State), e.vec.toNat * 8 + 7 ≤ s.idtr.limit.toNat →
       readPair (s.idtr.base + 8 * e.vec.setWidth 32) s = .ok g u →
       (g.isSys 6 = true ∨ g.isSys 7 = true → deliverOnce e s = .error (.refuse .desc286) u) ∧
       (g.isSys 6 = false → g.isSys 7 = false →
       (g.isSys 5 = false → g.isSys 0xE = false → g.isSys 0xF = false → deliverOnce e s = .error (.exc (code 13)) u) ∧
       (g.isSys 5 = true ∨ g.isSys 0xE = true ∨ g.isSys 0xF = true →
         (e.src = .soft → g.dpl < s.cpl → deliverOnce e s = .error (.exc (code 13)) u) ∧
         ((e.src = .soft → s.cpl ≤ g.dpl) → g.present = false → deliverOnce e s = .error (.exc (code 11)) u)) ∧
       (g.isSys 0xE = true ∨ g.isSys 0xF = true → (e.src = .soft → s.cpl ≤ g.dpl) → g.present = true →
         let target : Check := {
           before := [(!selNull g.gateSel, gp0)]
           sel := g.gateSel
           beyond := gpFault g.gateSel
           tests := fun c => [(c.attr.code, gpFault g.gateSel), (decide (c.dpl ≤ s.cpl), gpFault g.gateSel),
             (c.present, npFault g.gateSel)] }
         ∀ (x : Exn) (v : State), target.Fails u x v → deliverOnce e s = .error (.exc x) v)))) ∧
  ((∀ (sel : Word16) (u : Word32) (ext : Bool),
     let pushed := errImage ((selCode sel).withExt ext) u
     pushed.getLsbD 0 = ext ∧ pushed.getLsbD 1 = false ∧ (∀ i, 2 ≤ i → i < 16 → pushed.getLsbD i = sel.getLsbD i) ∧
       (∀ i, 16 ≤ i → i < 32 → pushed.getLsbD i = u.getLsbD i)) ∧
   (∀ (la u : Word32) (p w us : Bool) (s : State),
     ∃ code, (pageFault la p w us : M Unit) s = .error (.exc ⟨14, code⟩) { s with cr2 := la } ∧
       (errImage code u).getLsbD 0 = p ∧ (errImage code u).getLsbD 1 = w ∧ (errImage code u).getLsbD 2 = us))

/-- The double fault and shutdown (R758, R759, R760): the class of an event (that every software interrupt is benign is
the model's choice, DESIGN CHOICE, log 44), and which pairs of an event and an exception raised in delivering it cannot
be served in sequence. Such a pair gives exception 8 with error code 0; the offset and RF image it saves are free
(DEDUCED, log 28). Any other gives the second exception with the same saved offset (DEDUCED, log 14), in real-address
mode after a software interrupt that of the instruction (23_real_address_mode.md R301). An exception in delivering a
double fault shuts the processor down, with the registers of before that delivery, or, part-way through the pushes on a
new stack, those changed so far (93_implementation_defined.md U10; log 45), or, past the commit point of the switch of
its own task gate, those of the incoming task: which registers shutdown keeps is the model's choice (DESIGN CHOICE, log
20). An exception past the commit point of the task switch of a delivery is taken in the incoming task, with its EIP
(22_multitasking.md R262, R263; log 21). -/
def Obligations.DoubleFault : Prop :=
  (∀ x y : ExnClass, doubleFault x y = true ↔
    (x = .contributory ∧ y = .contributory) ∨ (x = .page ∧ (y = .contributory ∨ y = .page))) ∧
  (∀ x : Exn, (x.cls = .page ↔ x.vec = 14) ∧ (x.cls = .contributory ↔ x.vec = 0 ∨ 9 ≤ x.vec ∧ x.vec ≤ 13)) ∧
  (∀ e : Event, e.cls = if e.src = .exc then Exn.cls ⟨e.vec, e.code⟩ else .benign) ∧
  (∀ (e : Event) (x : Exn) (fuel : Nat) (s t : State), s.cur.committed = false → s.cur.partway = false →
    deliverOnce e s = .error (.exc x) t →
    let back : State :=
      if t.cur.committed then { t with cur := { t.cur with committed := false, incomplete := true } }
      else if t.cur.partway then { t with eip := s.eip, cur := { t.cur with partway := false, incomplete := true } }
      else { s.rollback t with cur := { s.cur with incomplete := true } }
    let ret : Word32 := if t.cur.committed then t.eip else if s.cr0.pe = false ∧ e.src = .soft then s.cur.start else e.ret
    (e.vec = 8 → e.src = .exc → deliverChain (fuel + 1) e s = .ok () { back with activity := .shutdown }) ∧
    (¬ (e.vec = 8 ∧ e.src = .exc) → doubleFault e.cls x.cls = true →
      ∃ u rf, deliverChain (fuel + 1) e s =
        deliverChain fuel { vec := 8, src := .exc, ret := u, code := .sel 0, rf := rf } { back with free := back.free + 2 }) ∧
    (¬ (e.vec = 8 ∧ e.src = .exc) → doubleFault e.cls x.cls = false →
      deliverChain (fuel + 1) e s = deliverChain fuel (faultEvent x ret (e.src != .soft)) back))

/-- An exception of an instruction is a fault (60_exceptions.md R741, R745): it is delivered from the state before the
instruction, so that every register is as before it, with the offset of the instruction's first byte saved and RF set in
the image (R785); part-way through ENTER, PUSHA or the pushes on a new stack the registers changed so far are kept, and
EIP is not (93_implementation_defined.md U10; log 45), and past the commit point of a task switch it is taken in the
incoming task, with the EIP loaded so far (22_multitasking.md R262, R263; log 21). The fetch is part of the instruction
(30_encoding.md R314, R315, R353; 21_translation_protection.md R184): a sixteenth byte and an offset beyond the limit of
CS raise #GP(0), a page fault of a byte is the instruction's, bytes that are no instruction raise #UD, and a step in
which the fetch raises an exception takes it; prefixes are executed one by one before the instruction they belong to.
-/
def Obligations.FaultIsTaken : Prop :=
  (∀ (x : Exn) (s u t : State),
    let back : State :=
      if u.cur.committed then { u with cur := { u.cur with committed := false, incomplete := true } }
      else if u.cur.partway then { u with eip := s.eip, cur := { u.cur with partway := false, incomplete := true } }
      else { s.rollback u with cur := { s.cur with incomplete := true } }
    let ret : Word32 := if u.cur.committed then u.eip else s.cur.start
    deliver { vec := x.vec, src := .exc, ret := ret, code := x.code, rf := true } back = .ok () t →
    takeFault s u x = .next t) ∧
  (∀ s : State,
    (15 ≤ (s.cur.next - s.cur.start).toNat → fetchByte s = .error (.exc gp0) s) ∧
    ((s.cur.next - s.cur.start).toNat < 15 → s.cs.limit.toNat < s.cur.next.toNat → fetchByte s = .error (.exc gp0) s) ∧
    (∀ (x : Exn) (t : State), (s.cur.next - s.cur.start).toNat < 15 → s.cur.next.toNat ≤ s.cs.limit.toNat →
      linResolve (s.cs.base + s.cur.next) 1 false s.user true s = .error (.exc x) t → fetchByte s = .error (.exc x) t) ∧
    (∀ (n : Nat) (bytes : List Byte),
      (decode s.cur.opSize s.cur.addrSize bytes = .error .undefinedOpcode ∨
          decode s.cur.opSize s.cur.addrSize bytes = .error .registerForm →
        fetchMore n bytes s = .error (.exc ud) s) ∧
      (∀ (x : Exn) (t : State), decode s.cur.opSize s.cur.addrSize bytes = .error .more →
        fetchByte s = .error (.exc x) t → fetchMore (n + 1) bytes s = .error (.exc x) t) ∧
      (∀ (b : Byte) (t : State), decode s.cur.opSize s.cur.addrSize bytes = .error .more → fetchByte s = .ok b t →
        fetchMore (n + 1) bytes s = fetchMore n (bytes ++ [b]) t))) ∧
  (∀ (fuel : Nat) (tf : Bool) (s t u : State),
    (∀ x : Exn, fetchMore 16 [] s = .error (.exc x) t → executeFrom fuel tf s = finish tf (takeFault t t x)) ∧
    (∀ p : Instr, fetchMore 16 [] s = .ok p t → isPrefix p = true → exec p t = .next u →
      executeFrom (fuel + 1) tf s = executeFrom fuel tf u) ∧
    (∀ i : Instr, fetchMore 16 [] s = .ok i t → isPrefix i = false → executeFrom fuel tf s = finish tf (exec i t))) ∧
  (∀ s : State, s.absorb.flags.vm = false → s.absorb.pending = none → s.absorb.activity = .running →
    let a : State := { s.absorb with inhibit := false, stiShadow := false, debugTrap := false }
    step s = executeFrom 15 a.flags.tf a.startInstr)

/-- The privileged instructions (21_translation_protection.md R201): at a privilege level other than 0 each raises
#GP(0) and has no effect. LLDT and LTR check the mode first, and MOV to and from a test register its number. -/
def Obligations.PrivilegedInstructions : Prop :=
  ∀ s : State, s.cpl ≠ 0 → s.cur.lock = false →
    (∀ i : Instr, (i = .clts ∨ i = .hlt ∨ (∃ m, i = .lgdtM m) ∨ (∃ m, i = .lidtM m) ∨ (∃ rm, i = .lmswEw rm) ∨
        (∃ r n, i = .movR32Crn r n) ∨ (∃ n r, i = .movCrnR32 n r) ∨ (∃ r n, i = .movR32Drn r n) ∨
        (∃ n r, i = .movDrnR32 n r) ∨ (∃ r n, (n = 6 ∨ n = 7) ∧ i = .movR32Trn r n) ∨
        (∃ n r, (n = 6 ∨ n = 7) ∧ i = .movTrnR32 n r)) →
      exec i s = takeFault s s.entered gp0) ∧
    (s.cr0.pe = true → ∀ rm : RM,
      exec (.lldtEw rm) s = takeFault s s.entered gp0 ∧ exec (.ltrEw rm) s = takeFault s s.entered gp0)

/-- The invalid-opcode exception (60_exceptions.md R800): instructions that real-address mode does not have
(23_real_address_mode.md R296); the opcodes 82H, D6H and F1H, which take the exception in every state (30_encoding.md
R353); the two-byte opcodes and the members of groups that are undefined, and the register forms of instructions that
take a memory operand (R353, R354), which the decoder refuses; and a LOCK prefix before every instruction but ADD, ADC,
SUB, SBB, AND, OR, XOR, INC, DEC, NOT, NEG, XCHG, BTS, BTR and BTC with a memory destination (20_memory.md R127). -/
def Obligations.InvalidOpcodes : Prop :=
  (∀ (s : State) (rm : RM) (r : Reg), s.cr0.pe = false → s.cur.lock = false →
     ∀ i ∈ [Instr.verrEw rm, .verwEw rm, .larGvEw r rm, .lslGvEw r rm, .ltrEw rm, .strEw rm, .lldtEw rm, .sldtEw rm,
         .arplEwGw rm r],
       exec i s = takeFault s s.entered ud) ∧
  ((∀ s t : State, ∀ i ∈ [Instr.undef82, .undefD6, .undefF1],
     exec i s = takeFault s (if s.cur.lock then s else s.entered) ud ∧
     (s.cur.committed = false → s.cur.partway = false →
       deliver { vec := 6, src := .exc, ret := s.cur.start, code := .none, rf := true }
         { s with cur := { s.cur with incomplete := true } } = .ok () t →
       exec i s = .next t)) ∧
   (∀ (osz asz : Size) (m : Byte) (rest : List Byte),
     let refused (r : DecodeStop) (bytes : List Byte) : Prop := decode osz asz (bytes ++ rest) = .error r
     let reg : Nat := (m.extractLsb' 3 3).toNat
     (∀ b : Byte, b.toNat ∉ [0x00, 0x01, 0x02, 0x03, 0x06, 0x20, 0x21, 0x22, 0x23, 0x24, 0x26, 0xA0, 0xA1, 0xA3, 0xA4, 0xA5,
         0xA8, 0xA9, 0xAB, 0xAC, 0xAD, 0xAF, 0xB2, 0xB3, 0xB4, 0xB5, 0xB6, 0xB7, 0xBA, 0xBB, 0xBC, 0xBD, 0xBE, 0xBF] →
       ¬ (0x80 ≤ b.toNat ∧ b.toNat ≤ 0x9F) → refused .undefinedOpcode [0x0F, b]) ∧
     (6 ≤ rest.length →
       (1 ≤ reg → refused .undefinedOpcode [0x8F, m] ∧ refused .undefinedOpcode [0xC6, m] ∧
         refused .undefinedOpcode [0xC7, m]) ∧
       (reg = 6 → ∀ op : Byte, op.toNat ∈ [0xC0, 0xC1, 0xD0, 0xD1, 0xD2, 0xD3] → refused .undefinedOpcode [op, m]) ∧
       (reg = 1 → refused .undefinedOpcode [0xF6, m] ∧ refused .undefinedOpcode [0xF7, m]) ∧
       (2 ≤ reg → refused .undefinedOpcode [0xFE, m]) ∧ (reg = 7 → refused .undefinedOpcode [0xFF, m]) ∧
       (6 ≤ reg → refused .undefinedOpcode [0x0F, 0x00, m]) ∧
       (reg = 5 ∨ reg = 7 → refused .undefinedOpcode [0x0F, 0x01, m]) ∧
       (reg < 4 → refused .undefinedOpcode [0x0F, 0xBA, m])) ∧
     (m.extractLsb' 6 2 = 3 →
       (∀ op : Byte, op.toNat ∈ [0x62, 0x8D, 0xC4, 0xC5] → refused .registerForm [op, m]) ∧
       (∀ op : Byte, op.toNat ∈ [0xB2, 0xB4, 0xB5] → refused .registerForm [0x0F, op, m]) ∧
       (reg = 3 ∨ reg = 5 → refused .registerForm [0xFF, m]) ∧ (reg < 4 → refused .registerForm [0x0F, 0x01, m])))) ∧
  (∀ (i : Instr) (s : State), s.cur.lock = true → isPrefix i = false →
     (¬ ((∃ (op : AluOp) (f : AluForm), i = op.instr f ∧ op.lockable f = true) ∨
         (∃ (op : UnaryOp) (f : UnaryForm), i = op.instr f ∧ isMem f.operand = true) ∨
         (∃ m, i = .notEb (.mem m) ∨ i = .notEv (.mem m)) ∨
         (∃ m r, i = .xchgEbGb (.mem m) r ∨ i = .xchgEvGv (.mem m) r) ∨
         (∃ (op : BitOp) (m : Mem), op.writes = true ∧ ((∃ r, i = op.byReg (.mem m) r) ∨ ∃ v, i = op.byImm (.mem m) v)))) →
     exec i s = takeFault s s ud)

/-- IRET in protected mode with NT = 0 (R545, R546; 21_translation_protection.md R199, R200): to the same level CS takes
the selector popped; to an outer level CPL becomes the selector's RPL, SS:ESP are popped too and data segments that
level may not use are nulled. The flags are those popped, but that VM stays, RF is loaded by IRETD only, IOPL changes at
CPL 0 only and IF where CPL is at most IOPL, with CPL that of before. A frame outside the stack segment raises #SS(0), a
target beyond the code segment #GP(0), and the code selector and, to an outer level, the stack selector are checked,
each failing test raising its exception; an image with VM set, popped by IRETD at CPL 0, is refused (00_scope.md R5).
That the offset of each slot of a frame is cut to 16 bits where the stack pointer is SP, so that a frame that runs past
FFFFH goes on at offset 0 and raises nothing for that, is the model's choice (DESIGN CHOICE, log 42). That a nulled data
segment register holds 0000H, of the null selectors 0000H to 0003H, is the model's choice (DESIGN CHOICE, log 55). -/
def Obligations.InterruptReturnProtected : Prop :=
  ∀ (wide : Bool) (s : State), s.cr0.pe = true → s.flags.nt = false → s.cur.lock = false →
    let sz : Size := if wide then .s32 else .s16
    let i : Instr := if wide then .iretd else .iret
    let n := distOf sz.width
    (stackHolds s 0 sz.width 3 = false → exec i s = takeFault s s.entered ss0) ∧
    (∀ (ip fl : Val sz.width) (sel : Word16) (a b x : State), stackHolds s 0 sz.width 3 = true →
      stackRead sz.width 0 s.entered = .ok ip a → stackRead .b16 n a = .ok sel b → stackRead sz.width (2 * n) b = .ok fl x →
      let off : Word32 := ip.setWidth 32
      let image := Flags.ofImage (fl.setWidth 32)
      let flags : Flags := { image with
        vm := s.flags.vm, rf := if wide then image.rf else s.flags.rf
        ie := if s.cpl ≤ s.flags.iopl then image.ie else s.flags.ie
        iopl := if s.cpl = 0 then image.iopl else s.flags.iopl }
      let vm : Prop := wide = true ∧ fl.getLsbD 17 = true ∧ s.cpl = 0
      (vm → exec i s = .refused .virtual8086) ∧
      (∀ (e : Exn) (y : State), ¬ vm → (returnCodeCheck sel s.cpl).Fails x e y → exec i s = takeFault s y e) ∧
      (∀ (c : Desc) (y : State), ¬ vm → (returnCodeCheck sel s.cpl).Passes x c y →
        (rpl sel = s.cpl → c.limit.toNat < off.toNat → exec i s = takeFault s y gp0) ∧
        (rpl sel = s.cpl → off.toNat ≤ c.limit.toNat → ∀ z : State, setAccessed sel c y = .ok () z →
          exec i s = .next { ({ s.through z with cs := c.seg sel }.jumped off).moveSP (3 * n) with
            flags := flags, nmiLatch := false, cur := { s.cur with keepRf := true } }) ∧
        (s.cpl < rpl sel → stackHolds s 0 sz.width 5 = false → exec i s = takeFault s y ss0) ∧
        (s.cpl < rpl sel → stackHolds s 0 sz.width 5 = true →
          ∀ (nesp : Val sz.width) (nss : Word16) (z v : State), stackRead sz.width (3 * n) y = .ok nesp z →
          stackRead .b16 (4 * n) z = .ok nss v →
          (∀ (e : Exn) (w : State), (returnStackCheck nss (rpl sel)).Fails v e w → exec i s = takeFault s w e) ∧
          (∀ (d : Desc) (w : State), (returnStackCheck nss (rpl sel)).Passes v d w →
            (c.limit.toNat < off.toNat → exec i s = takeFault s w gp0) ∧
            (∀ p t : State, off.toNat ≤ c.limit.toNat → setAccessed sel c w = .ok () p →
              setAccessed nss d { ({ p with cs := c.seg sel, cpl := rpl sel }.jumped off) with flags := flags } = .ok () t →
              exec i s = .next { s.through t with
                cs := c.seg sel, cpl := rpl sel, eip := off, modeStale := false, ss := d.seg nss, flags := flags
                regs := s.regs.setSP (stackSizeOf true (d.seg nss)) (nesp.setWidth 32)
                ds := s.ds.keepOrNull (rpl sel), es := s.es.keepOrNull (rpl sel), fs := s.fs.keepOrNull (rpl sel)
                gs := s.gs.keepOrNull (rpl sel), nmiLatch := false, cur := { s.cur with keepRf := true } })))))

/-- Nulling after a return to an outer level (21_translation_protection.md R200): exactly a data segment register that
refers to a segment more privileged than the new CPL, conforming code excepted, takes the null selector and becomes
invalid; every other stays. That a nulled data segment register holds 0000H, of the null selectors 0000H to 0003H, is
the model's choice (DESIGN CHOICE, log 55). -/
def Obligations.OuterReturnNulls : Prop :=
  ∀ (s : State) (r : SReg), r = .ds ∨ r = .es ∨ r = .fs ∨ r = .gs →
    let g := s.seg r
    let h := s.nullOuter.seg r
    (g.valid = true → g.attr.conforming = false → g.attr.dpl < s.cpl → h.sel = 0 ∧ h.valid = false) ∧
    (g.valid = false ∨ g.attr.conforming = true ∨ s.cpl ≤ g.attr.dpl → h = g) ∧
    s.nullOuter.regs = s.regs ∧ s.nullOuter.cs = s.cs ∧ s.nullOuter.ss = s.ss

/-- A task switch (22_multitasking.md R261, R262, R263, R264, R271, R273; 20_memory.md R141). The incoming TSS is
checked, tests 1 to 3; one of 80286 format is refused (R262). Where the busy bit of the outgoing task, after JMP and
IRET, or a field of its TSS cannot be written, that is raised before anything is written, the busy bit first. The
outgoing task's general registers, selectors, EFLAGS (with NT clear for IRET) and EIP are stored in its TSS, its busy
bit clear after JMP and IRET; TR names the incoming TSS, whose busy bit is set but for IRET, and TS is set; the fields
of the incoming TSS are read; CALL and an interrupt store the old TR in its back link; CR3, EIP, EFLAGS, the general
registers, the selectors and the LDT selector are those read, a CR3 that differs flushing the TLB, NT set by CALL and an
interrupt, and CPL is the RPL of CS; an image with VM set is refused; tests 4 to 16 are made, each raising its
exception, and the LDT, CS, SS and the data segments are loaded in that order; the switch completes exactly so. An
exception from the busy bit on is raised with TR naming the incoming TSS, past the commit point. The model's readings:
the outgoing TSS is probed before it is written, its limit is not checked, EFLAGS is saved as it is, CR3 is compared
with the register, its low twelve bits clear, and one that differs flushes the TLB with paging off too (DEDUCED, log
32); CPL is set before tests 4 to 16, and the T bit is read after them (DESIGN CHOICE, log 32); an exception past the
commit point is taken in the incoming task (DEDUCED, log 21); setting a busy bit raises the exception where it is set
already (DESIGN CHOICE, log 43); a selector of the incoming TSS is read with the reserved half of its doubleword (DESIGN
CHOICE, log 49); and LDTR, CS and SS are loaded each after its own tests, the data segments after test 16 (DESIGN
CHOICE, log 50). -/
def Obligations.TaskSwitch : Prop :=
  (∀ (sel : Word16) (k : TaskKind) (ret : Word32) (s : State),
    let bad : Exn := if k = .iret then tsFault sel else gpFault sel
    let chained : Bool := k = .call ∨ k = .int
    (∀ (d : Desc) (u : State), selTI sel = false → selNull sel = false → readDesc sel bad s = .ok d u → d.tss286 = true →
      taskSwitch sel k ret s = .error (.refuse .desc286) u) ∧
    ((∀ (d : Desc) (u : State), selTI sel = false → selNull sel = false → readDesc sel bad s = .ok d u →
        d.tss286 = false) → ∀ (x : Exn) (u : State), (tssCheck sel k).Fails s x u →
      taskSwitch sel k ret s = .error (.exc x) u ∧ u.cur.committed = s.cur.committed) ∧
    (∀ (d : Desc) (s1 : State), (tssCheck sel k).Passes s d s1 → ∀ (x : Exn) (y : State), TaskSaveFails k s s1 x y →
      taskSwitch sel k ret s = .error (.exc x) y ∧ y.cur.committed = s.cur.committed) ∧
    (∀ (d : Desc) (s1 on : State), (tssCheck sel k).Passes s d s1 → TaskSaved sel k ret s s1 d on →
      let raised (x : Exn) (y : State) : Prop := taskSwitch sel k ret s = .error (.exc x) y ∧ y.cur.committed = true ∧
        y.tr = { sel := sel, base := d.base, limit := d.limit, type := 0xB }
      (∀ (x : Exn) (y : State), k ≠ .iret → setBusy sel bad on = .error (.exc x) y → raised x y) ∧
      (∀ busy : State, (if k = .iret then busy = on else setBusy sel bad on = .ok () busy) →
        let ready : State := { busy with cr0 := { s.cr0 with ts := true } }
        (∀ (x : Exn) (y : State), readFields d.base tssOffsets ready = .error (.exc x) y → raised x y) ∧
        (∀ (img : List Word32) (s6 : State), readFields d.base tssOffsets ready = .ok img s6 →
          let f (i : Nat) : Word32 := img.getD i 0
          (∀ (x : Exn) (y : State), chained = true → linWrite .b16 d.base s.tr.sel false s6 = .error (.exc x) y → raised x y) ∧
          (∀ s7 : State, (chained = true → linWrite .b16 d.base s.tr.sel false s6 = .ok () s7) → (chained = false → s7 = s6) →
            ((f 1).getLsbD 17 = true → ∃ y, taskSwitch sel k ret s = .error (.refuse .virtual8086) y) ∧
            ((f 1).getLsbD 17 = false →
              let new : State := s7.incoming k f
              (∀ (x : Exn) (y : State), TaskTestFails f new x y →
                raised x y ∧ y.eip = f 2 ∧ y.cpl = rpl (low16 (f 12)) ∧ y.flags = new.flags ∧ y.regs = new.regs) ∧
              (∀ t : State, TaskTestsPass f new t →
                (∀ (x : Exn) (y : State), linRead .b16 (d.base + 0x64) false t = .error (.exc x) y → raised x y) ∧
                (∀ (word : Word16) (u : State), linRead .b16 (d.base + 0x64) false t = .ok word u →
                  taskSwitch sel k ret s = .ok (word.getLsbD 0) u))))))) ∧
    (∀ (trap : Bool) (u : State), taskSwitch sel k ret s = .ok trap u →
      ∃ (d : Desc) (img : List Word32) (s1 on busy s6 s7 t : State) (word : Word16),
        let f (i : Nat) : Word32 := img.getD i 0
        (tssCheck sel k).Passes s d s1 ∧ TaskSaved sel k ret s s1 d on ∧
        (if k = .iret then busy = on else setBusy sel bad on = .ok () busy) ∧
        readFields d.base tssOffsets { busy with cr0 := { s.cr0 with ts := true } } = .ok img s6 ∧
        (chained = true → linWrite .b16 d.base s.tr.sel false s6 = .ok () s7) ∧ (chained = false → s7 = s6) ∧
        (f 1).getLsbD 17 = false ∧ TaskTestsPass f (s7.incoming k f) t ∧
        linRead .b16 (d.base + 0x64) false t = .ok word u ∧ trap = word.getLsbD 0 ∧
        u.tr = { sel := sel, base := d.base, limit := d.limit, type := 0xB } ∧ u.cr0 = { s.cr0 with ts := true } ∧
        u.cr3 = f 17 &&& 0xFFFFF000 ∧ u.eip = f 2 ∧
        u.flags = { Flags.ofImage (f 1) with nt := chained || (f 1).getLsbD 14 } ∧ u.flags.vm = false ∧
        u.cpl = rpl u.cs.sel ∧
        u.regs = { eax := f 3, ecx := f 4, edx := f 5, ebx := f 6, esp := f 7, ebp := f 8, esi := f 9, edi := f 10 } ∧
        u.es.sel = low16 (f 11) ∧ u.cs.sel = low16 (f 12) ∧ u.ss.sel = low16 (f 13) ∧ u.ds.sel = low16 (f 14) ∧
        u.fs.sel = low16 (f 15) ∧ u.gs.sel = low16 (f 16) ∧ u.ldtr.sel = low16 (f 0))) ∧
  (∀ (sel : Word16) (base : Word32) (s : State), s.cr0.pg = false → s.plat.map = [] → s.masters = [] → s.mem.wf = true →
    (∀ fields : List (Word32 × Word32),
      (fields.Pairwise fun p q => 4 ≤ (p.1 - q.1).toNat ∧ 4 ≤ (q.1 - p.1).toNat) →
      ∃ t : State, writeFields base fields s = .ok () t ∧ (∀ p ∈ fields, peek32 t (base + p.1) = p.2) ∧
        MemoryKept s t (.mem (fields.flatMap fun p => addrs (base + p.1) 4))) ∧
    probeBusy sel s = .ok () s ∧ (∀ offs : List Word32, probeFields base offs s = .ok () s) ∧
    (∀ offs : List Word32, readFields base offs s = .ok (offs.map fun o => peek32 s (base + o)) s) ∧
    (∀ (x : Exn) (a : Word32), descAddr s sel = some a →
      let old := peek32 s (a + 4)
      (∃ t : State, clearBusy sel s = .ok () t ∧ peek32 t (a + 4) = old &&& 0xFFFFFDFF ∧
        MemoryKept s t (.mem (addrs (a + 4) 4))) ∧
      (old.getLsbD 9 = true → ∃ t : State, setBusy sel x s = .error (.exc x) t ∧ MemoryKept s t .nowhere) ∧
      (old.getLsbD 9 = false → ∃ t : State, setBusy sel x s = .ok () t ∧ peek32 t (a + 4) = old ||| 0x200 ∧
        MemoryKept s t (.mem (addrs (a + 4) 4)))))

/-- A far JMP or CALL, direct or through memory, to an available TSS or to a task gate (44_control_transfer.md R526,
R530), an event through a task gate (60_exceptions.md R766) and IRET with NT = 1 (R545) make a task switch and go on in
the incoming task; its EIP must lie in its code segment, beyond which #GP(0) is raised there, and then its T bit arms a
debug trap (22_multitasking.md R267). An exception of the switch is the instruction's, or the event's; that IRET then
keeps the NMI latch is the model's reading (DEDUCED, log 32). The error code of an event is pushed on the stack of the
incoming task (R766), as a doubleword at supervisor level, which is the model's reading of 20_memory.md R132 (DEDUCED,
log 48). A descriptor whose DPL is below CPL or RPL raises #GP(selector), a task gate not present #NP(selector). The
limit of CS is checked after the error code has been pushed, and before the T bit's trap is armed. That the second part
of an operand in memory lies at the sum of its address and the length of the first, wrapped at 2^32 and not cut to 16
bits, is the model's choice (DESIGN CHOICE, log 54). So is that the offset is read before the selector (DESIGN CHOICE,
log 57: the rules give no order). -/
def Obligations.TransferToTask : Prop :=
  let done (trap : Bool) (t : State) : State :=
    if trap then { t with debugTrap := true, dbg := { t.dbg with dr6 := t.dbg.dr6 ||| 0x8000 } } else t
  (∀ (s u : State), s.cr0.pe = true → s.cur.lock = false →
    let switches (i : Instr) (dest : Word16) (k : TaskKind) (finish : State → State) : Prop :=
      (∀ (trap : Bool) (t : State), taskSwitch dest k s.nextIp u = .ok trap t →
        (t.eip.toNat ≤ t.cs.limit.toNat → exec i s = .next (finish (done trap t))) ∧
        (t.cs.limit.toNat < t.eip.toNat → exec i s = takeFault s t gp0)) ∧
      (∀ (x : Exn) (t : State), taskSwitch dest k s.nextIp u = .error (.exc x) t → exec i s = takeFault s t x)
    (∀ (jmp call : Instr) (off : Word32) (sel : Word16) (d : Desc) (a : State), FarPair s jmp call off sel a →
      selNull sel = false → readDesc sel (gpFault sel) a = .ok d u →
      let goes (dest : Word16) : Prop := switches jmp dest .jmp id ∧ switches call dest .call id
      let both (x : Exn) : Prop := exec jmp s = takeFault s u x ∧ exec call s = takeFault s u x
      (d.isSys 9 = true ∨ d.isSys 5 = true → d.dpl < s.cpl ∨ d.dpl < rpl sel → both (gpFault sel)) ∧
      (d.isSys 9 = true → s.cpl ≤ d.dpl → rpl sel ≤ d.dpl → goes sel) ∧
      (d.isSys 5 = true → s.cpl ≤ d.dpl → rpl sel ≤ d.dpl →
        (d.present = false → both (npFault sel)) ∧ (d.present = true → goes d.gateSel))) ∧
    (∀ link : Word16, s.flags.nt = true → linRead .b16 s.tr.base false s.entered = .ok link u →
      let finish (t : State) : State := { t with nmiLatch := false, cur := { t.cur with keepRf := true } }
      switches .iret link .iret finish ∧ switches .iretd link .iret finish)) ∧
  (∀ (e : Event) (g : Desc) (s u : State), s.cr0.pe = true → s.cur.committed = false → s.cur.partway = false →
    e.vec.toNat * 8 + 7 ≤ s.idtr.limit.toNat → readPair (s.idtr.base + 8 * e.vec.setWidth 32) s = .ok g u →
    g.isSys 5 = true → (e.src = .soft → s.cpl ≤ g.dpl) → g.present = true →
    (∀ (x : Exn) (t : State), taskSwitch g.gateSel .int e.ret u = .error (.exc x) t →
      deliverOnce e s = .error (.exc x) t) ∧
    (∀ (trap : Bool) (t v : State), taskSwitch g.gateSel .int e.ret u = .ok trap t →
      (if e.code.pushes then
        ∃ pas, Pushed false .b32 [errImage e.code (Config.freeValue t.free)] { t with free := t.free + 1 } v pas else v = t) →
      (v.eip.toNat ≤ v.cs.limit.toNat → deliver e s = .ok () (done trap v)) ∧
      (v.cs.limit.toNat < v.eip.toNat → deliverOnce e s = .error (.exc gp0) v)))

/-! ## Strings, ports and the coprocessor -/

/-- Repetition of a string instruction (45_string.md R571, R572): without a repeat prefix the primitive is done once;
with one and (E)CX = 0 nothing is done; else the primitive is done, (E)CX goes down by one, and EIP stays at the
instruction until (E)CX is 0 or, for CMPS and SCAS, ZF ends the repetition. -/
def Obligations.RepeatedStrings : Prop :=
  ∀ (op : StringOp) (w : Width) (s : State), s.cur.lock = false →
    (∀ t : State, s.cur.rep = none → op.once w s.entered = .ok () t → exec (op.instr w) s = .next t) ∧
    (∀ p : Rep, s.cur.rep = some p → s.regs.read s.addrw .ecx = 0 → exec (op.instr w) s = .next s.entered) ∧
    (∀ (p : Rep) (t : State), s.cur.rep = some p → s.regs.read s.addrw .ecx ≠ 0 → op.once w s.entered = .ok () t →
      let n := s.regs.read s.addrw .ecx - 1
      let counted : State := t.withReg s.addrw .ecx n
      let ended : Prop := n = 0 ∨ op.compares = true ∧ (p = .repe ∧ t.flags.zf = false ∨ p = .repne ∧ t.flags.zf = true)
      (ended → exec (op.instr w) s = .next counted) ∧
      (¬ ended → exec (op.instr w) s = .next { counted with eip := s.cur.start }))

/-- One iteration of MOVS, CMPS, SCAS, LODS and STOS (R573 to R577): the source is at the segment in force and (E)SI,
the destination at ES and (E)DI; the index registers used move by one element; CMPS and SCAS set the flags of a
subtraction; no other flag, register or byte of memory changes. -/
def Obligations.StringPrimitives : Prop :=
  ∀ (w : Width) (s u x : State) (a b : Val w) (pas : List Word32), s.mem.wf = true →
    let si : Word32 := (s.regs.read s.addrw .esi).setWidth 32
    let kept (t : State) : Prop := s.cr0.pg = false → MemoryKept s t .nowhere
    let di : Word32 := (s.regs.read s.addrw .edi).setWidth 32
    (segRead w (s.segOr .ds) si s = .ok a u →
      loadString w s = .ok () (((s.rollback u).withReg w .eax a).stepped w .esi) ∧ kept u ∧
      (segResolve .es di w.bytes true true u = .ok pas x →
        let t := (((s.rollback x).stored w (.mem pas) a).stepped w .esi).stepped w .edi
        moveString w s = .ok () t ∧ MemoryKept x t (.mem pas) ∧ (s.cr0.pg = false → MemoryKept s t (.mem pas))) ∧
      (segRead w .es di u = .ok b x →
        compareString w s = .ok () ((((s.rollback x).effect (subFlags a b false)).stepped w .esi).stepped w .edi) ∧
          kept x)) ∧
    (segRead w .es di s = .ok b u →
      scanString w s = .ok () (((s.rollback u).effect (subFlags (s.regs.read w .eax) b false)).stepped w .edi) ∧
        kept u) ∧
    (segResolve .es di w.bytes true true s = .ok pas u →
      let t := ((s.rollback u).stored w (.mem pas) (s.regs.read w .eax)).stepped w .edi
      storeString w s = .ok () t ∧ MemoryKept u t (.mem pas) ∧ (s.cr0.pg = false → MemoryKept s t (.mem pas)))

/-- The right to use a port (21_translation_protection.md R235, R237; 49_io_coprocessor.md R700): in real-address mode
and where CPL is at most IOPL it is given; in protected mode below that, a task register with no 80386 TSS, or a bit map
beyond its limit, raises #GP(0). Otherwise the bits of the ports are looked up in order, a byte of the map at a time, or
a word (20_memory.md R107): a byte read beyond the limit of the TSS, or a bit set, raises #GP(0), and with every bit
clear the access is made. Ports past FFFFH are refused (20_memory.md R115). -/
def Obligations.PortPermission : Prop :=
  ∀ (port : Word16) (n : Nat) (s : State),
    (s.cr0.pe = false ∨ s.cpl ≤ s.flags.iopl →
      (port.toNat + n ≤ 0x10000 → ioCheck port n s = .ok () s) ∧
      (0x10000 < port.toNat + n → ioCheck port n s = .error (.refuse .portPastEnd) s)) ∧
    (s.cr0.pe = true → s.flags.iopl < s.cpl → s.tr.type ≠ 9 → s.tr.type ≠ 0xB →
      ioCheck port n s = .error (.exc gp0) s) ∧
    (∀ (map : Word16) (u : State), s.cr0.pe = true → s.flags.iopl < s.cpl → (s.tr.type = 9 ∨ s.tr.type = 0xB) →
      linRead .b16 (s.tr.base + 0x66) false s = .ok map u →
      (s.tr.limit.toNat ≤ map.toNat → ioCheck port n s = .error (.exc gp0) u) ∧
      (map.toNat < s.tr.limit.toNat →
        let w : Width := if s.plat.ioBitmapWordRead then .b16 else .b8
        let off (i : Nat) : Nat := map.toNat + (port.toNat + i) / 8
        ∀ (b : Nat → Val w) (t : Nat → State), t 0 = u →
          let reads (i : Nat) : Prop := off i + (w.bytes - 1) ≤ s.tr.limit.toNat ∧
            linRead w (s.tr.base + BitVec.ofNat 32 (off i)) false (t i) = .ok (b i) (t (i + 1))
          let clear (i : Nat) : Prop := (b i).getLsbD ((port.toNat + i) % 8) = false
          (port.toNat + n ≤ 0x10000 → (∀ i < n, reads i ∧ clear i) → ioCheck port n s = .ok () (t n)) ∧
          (∀ k < n, (∀ i < k, reads i ∧ clear i) →
            (reads k → ¬ clear k → ioCheck port n s = .error (.exc gp0) (t (k + 1))) ∧
            (s.tr.limit.toNat < off k + (w.bytes - 1) → ioCheck port n s = .error (.exc gp0) (t k)))))

/-- IN, OUT, INS and OUTS (49_io_coprocessor.md R701 to R704; 20_memory.md R115). IN puts the value the port answers in
AL, AX or EAX, OUT sends it there. One iteration of INS stores what the port DX answers at ES and (E)DI, whose write is
checked before the port is read; OUTS sends the element at the segment in force and (E)SI to it; the index register
moves. An aligned access is one bus access. That a misaligned one is two, the first of which ends at the next boundary
of the operand's size, and that the two come in either order, is the model's choice (DESIGN CHOICE, log 47: R700 and
R115 say that it takes more accesses than one). No flag, no other register and no memory changes but what other bus
masters write and INS stores. -/
def Obligations.Ports : Prop :=
  ((∀ (w : Width) (port : Word16) (s : State), s.mem.wf = true →
     let k : Nat := w.bytes - port.toNat % w.bytes
     let high : Word16 := port + BitVec.ofNat 16 k
     let only (t : State) : Prop := MemoryKept s t .nowhere ∧
       t = { s with mem := t.mem, prefetch := t.prefetch, masters := t.masters, events := t.events, free := t.free }
     let made (t : State) (one : BusEvent) (low other : BusEvent) : Prop :=
       (k = w.bytes → t.events = one :: s.events) ∧
       (k < w.bytes → t.events = other :: low :: s.events ∨ t.events = low :: other :: s.events)
     (∃ (v : Val w) (x y : Word32) (t : State), portIn w port s = .ok v t ∧ only t ∧
       (k < w.bytes → v = (x ||| y <<< (8 * k)).setWidth _ ∧ x.toNat < 2 ^ (8 * k) ∧ y.toNat < 2 ^ (8 * (w.bytes - k))) ∧
       made t (.portIn port k (v.setWidth 32)) (.portIn port k x) (.portIn high (w.bytes - k) y)) ∧
     (∀ v : Val w, ∃ t : State, portOut w port v s = .ok () t ∧ only t ∧
       made t (.portOut port k (v.setWidth 32)) (.portOut port k ((v.setWidth (8 * k)).setWidth 32))
         (.portOut high (w.bytes - k) (((v >>> (8 * k)).setWidth (8 * (w.bytes - k))).setWidth 32)))) ∧
   (∀ (byte dx : Bool) (imm : Byte) (s u : State), s.cur.lock = false →
     let w : Width := if byte then .b8 else s.opw
     let port : Word16 := if dx then s.regs.read .b16 .edx else imm.setWidth 16
     ioCheck port w.bytes s.entered = .ok () u →
     (∃ (v : Val w) (t : State), portIn w port u = .ok v t ∧
       exec (match byte, dx with
         | true, true => .inAlDx
         | true, false => .inAlIb imm
         | false, true => .inEaxDx
         | false, false => .inEaxIb imm) s = .next ((s.through t).withReg w .eax v) ∧
         (s.cr0.pg = false → s.mem.wf = true → MemoryKept s t .nowhere)) ∧
     (∃ t : State, portOut w port (s.regs.read w .eax) u = .ok () t ∧
       exec (match byte, dx with
         | true, true => .outDxAl
         | true, false => .outIbAl imm
         | false, true => .outDxEax
         | false, false => .outIbEax imm) s = .next (s.through t) ∧
         (s.cr0.pg = false → s.mem.wf = true → MemoryKept s t .nowhere)))) ∧
  (∀ (w : Width) (s u x : State), s.mem.wf = true →
     let port : Word16 := s.regs.read .b16 .edx
     ioCheck port w.bytes s = .ok () u →
     (∀ pas : List Word32, segResolve .es ((s.regs.read s.addrw .edi).setWidth 32) w.bytes true true u = .ok pas x →
       ∃ (v : Val w) (y : State), portIn w port x = .ok v y ∧
         let t := ((s.rollback y).stored w (.mem pas) v).stepped w .edi
         inputString w s = .ok () t ∧ MemoryKept y t (.mem pas) ∧
            (s.cr0.pg = false → MemoryKept s t (.mem pas))) ∧
     (∀ v : Val w, segRead w (s.segOr .ds) ((s.regs.read s.addrw .esi).setWidth 32) u = .ok v x →
       ∃ y : State, portOut w port v x = .ok () y ∧ outputString w s = .ok () ((s.rollback y).stepped w .esi) ∧
          (s.cr0.pg = false → MemoryKept s y .nowhere)))

/-- ESC and WAIT (49_io_coprocessor.md R710, R711, R712; 92_eei_decisions.md D12): EM or TS makes ESC raise #NM, and MP
with TS makes WAIT raise it; with no coprocessor both are otherwise without effect (R710; D12); with one, a pending
error raises #MF, and an ESC that is not trapped is refused (D12; 00_scope.md R5). That WAIT stays at the instruction
while BUSY# is active, each time as a step that does not complete it, is the model's choice (DESIGN CHOICE, log 35; log
15). -/
def Obligations.Coprocessor : Prop :=
  ∀ (op n : BitVec 3) (rm : RM) (s : State), s.cur.lock = false →
    (s.cr0.em = true ∨ s.cr0.ts = true → exec (.esc op n rm) s = takeFault s s.entered nm) ∧
    (s.cr0.em = false → s.cr0.ts = false → s.plat.coproc = .none → exec (.esc op n rm) s = .next s.entered) ∧
    (s.cr0.em = false → s.cr0.ts = false → s.plat.coproc ≠ .none → s.errorLine = true →
      exec (.esc op n rm) s = takeFault s s.entered mf) ∧
    (s.cr0.em = false → s.cr0.ts = false → s.plat.coproc ≠ .none → s.errorLine = false →
      exec (.esc op n rm) s = .refused .coprocessor) ∧
    (s.cr0.mp = true → s.cr0.ts = true → exec .wait s = takeFault s s.entered nm) ∧
    (s.cr0.mp = false ∨ s.cr0.ts = false →
      (s.plat.coproc = .none → exec .wait s = .next s.entered) ∧
      (s.plat.coproc ≠ .none → s.busyLine = true →
        exec .wait s = .next { s with eip := s.cur.start, cur := { s.cur with incomplete := true } }) ∧
      (s.plat.coproc ≠ .none → s.busyLine = false → s.errorLine = true → exec .wait s = takeFault s s.entered mf) ∧
      (s.plat.coproc ≠ .none → s.busyLine = false → s.errorLine = false → exec .wait s = .next s.entered))

/-! ## Segment registers and the system registers -/

/-- Loading a segment register (47_segment_misc.md R621 to R628; 23_real_address_mode.md R291): in real-address mode the
base becomes 16 times the selector; in protected mode a null selector marks a data segment register invalid and is
refused to SS, and otherwise the descriptor is checked, for presence last, and its base, limit and attributes are
loaded. MOV, POP, LDS, LES, LFS, LGS and LSS load so; MOV and POP to SS inhibit events at the next boundary
(60_exceptions.md R784); CS and the reserved numbers raise #UD. A descriptor is read at eight times the index in its
table (21_translation_protection.md R153, R155): with no LDT loaded a selector of the LDT raises #GP(selector), and one
beyond the limit of its table the exception the instruction names. Where the descriptor was read with its accessed bit
clear, that bit is set in memory, and nothing else there changes (R166). That the second part of an operand in memory
lies at the sum of its address and the length of the first, wrapped at 2^32 and not cut to 16 bits, is the model's
choice (DESIGN CHOICE, log 54). That a load in real-address mode leaves the valid bit of the hidden part as it was is
the model's choice (DESIGN CHOICE, log 56). -/
def Obligations.SegmentLoad : Prop :=
  ((∀ (r : SReg) (sel : Word16) (s : State),
     (s.cr0.pe = false → loadSeg r sel s = .ok () (s.setSeg r { s.seg r with sel := sel, base := realBase sel })) ∧
     (s.cr0.pe = true → selNull sel = true →
       (r = .ss → loadSeg r sel s = .error (.exc gp0) s) ∧
       (r ≠ .ss → loadSeg r sel s = .ok () (s.setSeg r { s.seg r with sel := sel, valid := false }))) ∧
     (∀ (d : Desc) (u : State), s.cr0.pe = true → selNull sel = false → readDesc sel (gpFault sel) s = .ok d u →
       let good : Prop := if r = .ss then rpl sel = s.cpl ∧ d.attr.writable = true ∧ d.dpl = s.cpl
         else d.attr.readable = true ∧ (d.attr.conforming = true ∨ s.cpl ≤ d.dpl ∧ rpl sel ≤ d.dpl)
       (¬ good → loadSeg r sel s = .error (.exc (gpFault sel)) u) ∧
       (good → d.present = false → loadSeg r sel s = .error (.exc (if r = .ss then ssFault sel else npFault sel)) u) ∧
       (∀ v : State, good → d.present = true → setAccessed sel d u = .ok () v →
         loadSeg r sel s = .ok () (v.setSeg r (d.seg sel))))) ∧
   (∀ (sel : Word16) (e : Exn) (s : State),
     let index : Nat := sel.toNat / 8
     let ldt : Prop := sel.getLsbD 2 = true
     let base : Word32 := if sel.getLsbD 2 then s.ldtr.base else s.gdtr.base
     let limit : Nat := if sel.getLsbD 2 then s.ldtr.limit.toNat else s.gdtr.limit.toNat
     (ldt → s.ldtr.valid = false → readDesc sel e s = .error (.exc (gpFault sel)) s) ∧
     ((ldt → s.ldtr.valid = true) → limit < 8 * index + 7 → readDesc sel e s = .error (.exc e) s) ∧
     ((ldt → s.ldtr.valid = true) → 8 * index + 7 ≤ limit → ∀ (lo hi : Word32) (u v : State),
       linRead .b32 (base + BitVec.ofNat 32 (8 * index)) false s = .ok lo u →
       linRead .b32 (base + BitVec.ofNat 32 (8 * index) + 4) false u = .ok hi v →
       readDesc sel e s = .ok { lo := lo, hi := hi } v) ∧
     (∀ d : Desc, d.hi.getLsbD 8 = true → setAccessed sel d s = .ok () s) ∧
     (∀ d : Desc, d.hi.getLsbD 8 = false → (ldt → s.ldtr.valid = true) → 8 * index + 7 ≤ limit → s.cr0.pg = false →
       s.plat.map = [] → s.masters = [] → s.mem.wf = true →
       let high : Word32 := base + BitVec.ofNat 32 (8 * index) + 4
       ∃ t : State, setAccessed sel d s = .ok () t ∧ peek32 t high = peek32 s high ||| 0x100 ∧
         MemoryKept s t (.mem (addrs high 4)) ∧ t = { s with mem := t.mem, prefetch := t.prefetch }))) ∧
  (∀ s : State, s.cur.lock = false →
     let inhibited (r : SReg) (t : State) : State := if r = .ss then { t with inhibit := true } else t
     (∀ (n : BitVec 3) (rm : RM), (n.toNat = 1 ∨ 6 ≤ n.toNat) → exec (.movSregEw n rm) s = takeFault s s.entered ud) ∧
     (∀ (n : BitVec 3) (r : SReg) (rm : RM) (v : Word16) (u t : State), sregOf n = some r → r ≠ .cs →
       readRM .b16 rm s.entered = .ok v u → loadSeg r v u = .ok () t →
       exec (.movSregEw n rm) s = .next (inhibited r t)) ∧
     (∀ (v : Val s.opw) (u t : State), stackRead s.opw 0 s.entered = .ok v u →
       ∀ p ∈ [(SReg.es, Instr.popEs), (.ss, .popSs), (.ds, .popDs), (.fs, .popFs), (.gs, .popGs)],
         loadSeg p.1 (v.setWidth 16) u = .ok () t →
         exec p.2 s =
           .next (inhibited p.1 { t with regs := t.regs.setSP s.stackSize (t.regs.esp + distOf s.opw) })) ∧
     (∀ (r : Reg) (m : Mem) (off : Val s.opw) (sel : Word16) (u v t : State),
       segRead s.opw (s.segOr (defaultSeg m)) (effAddr s.regs m) s.entered = .ok off u →
       segRead .b16 (s.segOr (defaultSeg m)) (effAddr s.regs m + distOf s.opw) u = .ok sel v →
       ∀ p ∈ [(SReg.ds, Instr.ldsGvMp r m), (.es, .lesGvMp r m), (.fs, .lfsGvMp r m), (.gs, .lgsGvMp r m),
           (.ss, .lssGvMp r m)],
         loadSeg p.1 sel v = .ok () t → exec p.2 s = .next (t.withReg s.opw r off)))

/-- The instructions that store a selector or the machine status word (47_segment_misc.md R621; 48_system.md R665, R667,
R669, R680): MOV from a segment register, SLDT, STR and SMSW store sixteen bits in memory or in a 16-bit register; a
32-bit register takes a selector zero-extended, and from SMSW free bits in its upper half. MOV from the reserved numbers
6 and 7 raises #UD (30_encoding.md R354). -/
def Obligations.SelectorStores : Prop :=
  ((∀ (n : BitVec 3) (rm : RM) (s : State), 6 ≤ n.toNat → s.cur.lock = false →
     exec (.movEwSreg rm n) s = takeFault s s.entered ud) ∧
   (∀ (s : State) (v : Word16) (i : RM → Instr), s.mem.wf = true → s.cur.lock = false →
     ((∃ (n : BitVec 3) (r : SReg), sregOf n = some r ∧ v = (s.seg r).sel ∧ i = fun rm => .movEwSreg rm n) ∨
       (s.cr0.pe = true ∧ v = s.ldtr.sel ∧ i = Instr.sldtEw) ∨ (s.cr0.pe = true ∧ v = s.tr.sel ∧ i = Instr.strEw)) →
     (∀ r : Reg, exec (i (.reg r)) s = .next (match s.cur.opSize with
       | .s16 => s.entered.withReg .b16 r v
       | .s32 => s.entered.withReg .b32 r (v.setWidth 32))) ∧
     (∀ (m : Mem) (l : Loc) (u : State), locate .b16 (.mem m) true true s.entered = .ok l u →
       let t := (s.through u).stored .b16 l v
       exec (i (.mem m)) s = .next t ∧ MemoryKept u t l ∧ (s.cr0.pg = false → MemoryKept s t l)))) ∧
  (∀ s : State, s.mem.wf = true → s.cur.lock = false →
     let word : Word16 := low16 (s.cr0.image (Config.freeValue s.free))
     let drawn : State := { s.entered with free := s.free + 1 }
     (word.getLsbD 0 = s.cr0.pe ∧ word.getLsbD 1 = s.cr0.mp ∧ word.getLsbD 2 = s.cr0.em ∧ word.getLsbD 3 = s.cr0.ts ∧
       word.getLsbD 4 = s.cr0.et) ∧
     (∀ r : Reg, s.cur.opSize = .s16 → exec (.smswEw (.reg r)) s = .next (drawn.withReg .b16 r word)) ∧
     (∀ r : Reg, s.cur.opSize = .s32 → ∃ high : Word16,
       exec (.smswEw (.reg r)) s = .next ({ drawn with free := s.free + 2 }.withReg .b32 r (high ++ word))) ∧
     (∀ (m : Mem) (l : Loc) (u : State), locate .b16 (.mem m) true true drawn = .ok l u →
       exec (.smswEw (.mem m)) s = .next ((drawn.rollback u).stored .b16 l word) ∧
       MemoryKept u ((drawn.rollback u).stored .b16 l word) l))

/-- LGDT, LIDT, SGDT and SIDT (R660 to R663): the limit is in the low word of the 6-byte operand and the base above it;
with OpSize 16 a load takes 24 bits of base, and a store leaves the top byte free. That the second part of an operand in
memory lies at the sum of its address and the length of the first, wrapped at 2^32 and not cut to 16 bits, is the
model's choice (DESIGN CHOICE, log 54). -/
def Obligations.DescriptorTables : Prop :=
  ∀ (m : Mem) (s : State), s.mem.wf = true → s.cur.lock = false →
    let r := s.segOr (defaultSeg m)
    let ea := effAddr s.regs m
    (∀ (limit : Word16) (base : Word32) (u v : State), s.cpl = 0 → segRead .b16 r ea s.entered = .ok limit u →
      segRead .b32 r (ea + 2) u = .ok base v →
      let table : TableReg := { base := if s.cur.opSize = .s16 then base &&& 0x00FFFFFF else base, limit := limit }
      exec (.lgdtM m) s = .next { s.through v with gdtr := table } ∧
        exec (.lidtM m) s = .next { s.through v with idtr := table } ∧
        (s.cr0.pg = false → MemoryKept s v .nowhere)) ∧
    (∀ (p q : Loc) (u v : State), memLoc .b16 r ea true true { s.entered with free := s.free + 1 } = .ok p u →
      memLoc .b32 r (ea + 2) true true u = .ok q v →
      let stores (i : Instr) (table : TableReg) : Prop :=
        ∃ base : Word32, base.setWidth 24 = table.base.setWidth 24 ∧ (s.cur.opSize = .s32 → base = table.base) ∧
          let t := ((s.through v).stored .b16 p table.limit).stored .b32 q base
          exec i s = .next t ∧ (∀ x, ¬ p.covers x → ¬ q.covers x → ¬ v.outside x → t.mem.get x = v.mem.get x)
      stores (.sgdtM m) s.gdtr ∧ stores (.sidtM m) s.idtr)

/-- LLDT and LTR (R664, R666): LLDT loads LDTR from an LDT descriptor of the GDT, or with a null selector marks it
empty; LTR loads TR from an available TSS descriptor of the GDT and marks it busy there. A selector of the LDT, and a
descriptor of another type, raise #GP(selector), one not present #NP(selector). LTR of a TSS of 80286 format is refused,
available, as R666 says, or busy: that a busy one is refused too is the model's reading of 21_translation_protection.md
R163 and 92_eei_decisions.md D10 (DEDUCED, log 34), where R666 names type 1 only and sends every other type but 9 to
#GP(selector). -/
def Obligations.LoadTableSelectors : Prop :=
  ∀ (rm : RM) (sel : Word16) (s u : State), s.cr0.pe = true → s.cpl = 0 → s.cur.lock = false →
    readRM .b16 rm s.entered = .ok sel u →
    (selNull sel = true →
      exec (.lldtEw rm) s = .next { s.through u with ldtr := { s.ldtr with sel := sel, valid := false } } ∧
      exec (.ltrEw rm) s = takeFault s (s.through u) gp0) ∧
    (selNull sel = false → selTI sel = true → exec (.lldtEw rm) s = takeFault s (s.through u) (gpFault sel) ∧
      exec (.ltrEw rm) s = takeFault s (s.through u) (gpFault sel)) ∧
    (∀ (d : Desc) (v : State), selNull sel = false → selTI sel = false → readDesc sel (gpFault sel) u = .ok d v →
      let stops (i : Instr) (x : Exn) : Prop := exec i s = takeFault s (s.through v) x
      (d.isSys 2 = false → stops (.lldtEw rm) (gpFault sel)) ∧
      (d.isSys 2 = true → d.present = false → stops (.lldtEw rm) (npFault sel)) ∧
      (d.isSys 2 = true → d.present = true →
        exec (.lldtEw rm) s =
          .next { s.through v with ldtr := { sel := sel, base := d.base, limit := d.limit, valid := true } }) ∧
      (d.isSys 1 = true ∨ d.isSys 3 = true → exec (.ltrEw rm) s = .refused .desc286) ∧
      (d.isSys 1 = false → d.isSys 3 = false → d.isSys 9 = false → stops (.ltrEw rm) (gpFault sel)) ∧
      (d.isSys 9 = true → d.present = false → stops (.ltrEw rm) (npFault sel)) ∧
      (∀ x : State, d.isSys 9 = true → d.present = true → setBusy sel (gpFault sel) v = .ok () x →
        exec (.ltrEw rm) s =
          .next { s.through x with tr := { sel := sel, base := d.base, limit := d.limit, type := 0xB } }))

/-- MOV to and from the control registers, LMSW and CLTS (R668, R675, R680): CR0, CR2 and CR3 are read and written at
CPL 0; a load of CR3 takes bits 31:12 and flushes the TLB, and instruction bytes that the old tables gave may still be
used (20_memory.md R138; log 11); CR0 with PG and without PE is refused; LMSW sets MP, EM and TS, can set PE and not
clear it; the moves leave the status flags free. Other numbers raise #UD. -/
def Obligations.ControlRegisters : Prop :=
  ∀ (r : Reg) (s : State), s.cpl = 0 → s.cur.lock = false →
    let value : Word32 := s.regs.read .b32 r
    let drawn : State := { s.entered with free := s.free + 1 }
    (exec (.movR32Crn r 2) s = .next ((drawn.withReg .b32 r s.cr2).effect allUndef) ∧
      exec (.movR32Crn r 3) s = .next ((drawn.withReg .b32 r s.cr3).effect allUndef) ∧
      ∃ v : Word32, exec (.movR32Crn r 0) s = .next ((drawn.withReg .b32 r v).effect allUndef) ∧
        v.getLsbD 0 = s.cr0.pe ∧ v.getLsbD 1 = s.cr0.mp ∧ v.getLsbD 2 = s.cr0.em ∧ v.getLsbD 3 = s.cr0.ts ∧
        v.getLsbD 4 = s.cr0.et ∧ v.getLsbD 31 = s.cr0.pg) ∧
    exec (.movCrnR32 2 r) s = .next ({ s.entered with cr2 := value }.effect allUndef) ∧
    (∃ queue : List Stale,
      exec (.movCrnR32 3 r) s =
        .next ({ s.entered with cr3 := value &&& 0xFFFFF000, tlb := [], prefetch := queue }.effect allUndef) ∧
      (s.cr0.pg = false → queue = s.prefetch) ∧
      (∀ x ∈ queue, x ∈ s.prefetch ∨
        ∃ off pa, s.peekPhys (s.cs.base + off) = some pa ∧ x.old = s.mem.get pa.toNat)) ∧
    (value.getLsbD 31 = true → value.getLsbD 0 = false → exec (.movCrnR32 0 r) s = .refused .pagingInRealMode) ∧
    (value.getLsbD 31 = false ∨ value.getLsbD 0 = true → ∃ t : State, exec (.movCrnR32 0 r) s = .next t ∧
      t.cr0 = { pe := value.getLsbD 0, mp := value.getLsbD 1, em := value.getLsbD 2, ts := value.getLsbD 3,
                et := value.getLsbD 4, pg := value.getLsbD 31 } ∧
      t = { s.entered with cr0 := t.cr0, flags := t.flags, prefetch := t.prefetch, modeStale := t.modeStale,
                           free := s.free + 1 } ∧
      t.flags = s.flags.apply allUndef (Config.freeValue s.free)) ∧
    (∀ n : BitVec 3, n ≠ 0 → n ≠ 2 → n ≠ 3 →
      exec (.movCrnR32 n r) s = takeFault s s.entered ud ∧ exec (.movR32Crn r n) s = takeFault s drawn ud) ∧
    exec .clts s = .next { s.entered with cr0 := { s.cr0 with ts := false } } ∧
    (∀ (rm : RM) (v : Word16) (u : State), readRM .b16 rm s.entered = .ok v u → ∃ stale : Bool,
      exec (.lmswEw rm) s = .next { s.through u with
        cr0 := { s.cr0 with pe := s.cr0.pe || v.getLsbD 0, mp := v.getLsbD 1, em := v.getLsbD 2, ts := v.getLsbD 3 }
        modeStale := stale })

/-- MOV to and from the debug and test registers (R682, R683) at CPL 0: DR0 to DR3, DR6 and DR7 hold what is written,
DR4 and DR5 being other names of DR6 and DR7; a value of DR7 that enables a breakpoint is refused; TR7 holds what is
written, TR6 can be read, and a write of TR6 is refused. The status flags become free. TR0 to TR5 raise #UD at every
privilege level. -/
def Obligations.DebugAndTestRegisters : Prop :=
  ∀ (r : Reg) (s : State), s.cur.lock = false →
    let value : Word32 := s.regs.read .b32 r
    (s.cpl = 0 →
      (∀ n : BitVec 3, exec (.movR32Drn r n) s = .next ((s.entered.withReg .b32 r (s.dbg.get n)).effect allUndef)) ∧
      (∀ n : BitVec 3, (n = 5 ∨ n = 7) → value.setWidth 8 ≠ 0#8 → exec (.movDrnR32 n r) s = .refused .breakpoint) ∧
      (∀ n : BitVec 3, ¬ ((n = 5 ∨ n = 7) ∧ value.setWidth 8 ≠ 0#8) → ∃ d : DebugRegs,
        exec (.movDrnR32 n r) s = .next ({ s.entered with dbg := d }.effect allUndef) ∧ d.get n = value ∧
          (∀ k : BitVec 3, k ≠ n → ¬ (4 ≤ k.toNat ∧ k.toNat + 2 = n.toNat) → ¬ (4 ≤ n.toNat ∧ n.toNat + 2 = k.toNat) →
            d.get k = s.dbg.get k)) ∧
      exec (.movR32Trn r 6) s = .next ((s.entered.withReg .b32 r s.test.tr6).effect allUndef) ∧
      exec (.movR32Trn r 7) s = .next ((s.entered.withReg .b32 r s.test.tr7).effect allUndef) ∧
      exec (.movTrnR32 7 r) s = .next ({ s.entered with test := { s.test with tr7 := value } }.effect allUndef) ∧
      exec (.movTrnR32 6 r) s = .refused .tlbTest) ∧
    (∀ n : BitVec 3, n ≠ 6 → n ≠ 7 →
      exec (.movR32Trn r n) s = takeFault s s.entered ud ∧ exec (.movTrnR32 n r) s = takeFault s s.entered ud)

/-- ARPL, LAR, LSL, VERR and VERW (R670 to R674) in protected mode: ARPL raises the RPL of its operand to that of the
register and says in ZF whether it did; the others set ZF when the selector names a descriptor that CPL and RPL may see
and whose type admits the question, and LAR and LSL then load its access rights or its limit. LAR takes code and data
segments and the system types 1, 2, 3, 4, 5, 9, B and C, LSL code and data segments and the types 1, 2, 3, 9 and B. No
other flag changes. A page fault in reading the descriptor is raised, which is the model's choice (DESIGN CHOICE, log
52). -/
def Obligations.PointerValidation : Prop :=
  ∀ (s : State), s.cr0.pe = true → s.mem.wf = true → s.cur.lock = false →
    (∀ (rm : RM) (r : Reg) (p l : Loc) (d : Word16) (u v x : State), locate .b16 rm true false s.entered = .ok p u →
      readRM .b16 rm u = .ok d v →
      let want : BitVec 2 := (s.regs.read .b16 r).setWidth 2
      let zf (b : Bool) : Flags := { s.flags with zf := b }
      (want ≤ d.setWidth 2 → exec (.arplEwGw rm r) s = .next { s.through v with flags := zf false }) ∧
      (d.setWidth 2 < want → locate .b16 rm true true v = .ok l x →
        let t : State := { (s.through x).stored .b16 l (d.extractLsb' 2 14 ++ want) with flags := zf true }
        exec (.arplEwGw rm r) s = .next t ∧ MemoryKept x t l)) ∧
    (∀ (rm : RM) (r : Reg) (sel : Word16) (x : Exn) (u v : State), readRM .b16 rm s.entered = .ok sel u →
      selNull sel = false → findDesc sel u = .error (.exc x) v →
      ∀ i ∈ ([.verrEw rm, .verwEw rm, .larGvEw r rm, .lslGvEw r rm] : List Instr), exec i s = takeFault s v x) ∧
    (∀ (rm : RM) (r : Reg) (sel : Word16) (found : Option Desc) (u v : State), readRM .b16 rm s.entered = .ok sel u →
      (if selNull sel then found = none ∧ v = u else findDesc sel u = .ok found v) →
      let lar (d : Desc) : Bool := d.s || decide (d.type ∈ ([1, 2, 3, 4, 5, 9, 0xB, 0xC] : List (BitVec 4)))
      let lsl (d : Desc) : Bool := d.s || decide (d.type ∈ ([1, 2, 3, 9, 0xB] : List (BitVec 4)))
      let seen (ok : Desc → Bool) : Bool := match found with
        | some d => ok d && (d.attr.conforming || (decide (s.cpl ≤ d.dpl) && decide (rpl sel ≤ d.dpl)))
        | none => false
      let t (ok : Desc → Bool) : State := { s.through v with flags := { s.flags with zf := seen ok } }
      exec (.verrEw rm) s = .next (t fun d => d.attr.readable) ∧ exec (.verwEw rm) s = .next (t fun d => d.attr.writable) ∧
      (seen lar = false → exec (.larGvEw r rm) s = .next (t lar)) ∧
      (seen lsl = false → exec (.lslGvEw r rm) s = .next (t lsl)) ∧
      (∀ d : Desc, found = some d → seen lar = true → exec (.larGvEw r rm) s =
        .next ((t lar).withReg s.opw r ((d.hi &&& (if s.cur.opSize = .s16 then 0xFF00 else 0x00F0FF00)).setWidth _))) ∧
      (∀ d : Desc, found = some d → seen lsl = true →
        exec (.lslGvEw r rm) s = .next ((t lsl).withReg s.opw r (d.limit.setWidth _))))

/-- The prefixes (30_encoding.md R312, R313, R316): each sets its attribute of the instruction that follows and nothing
else; of two of one group the later counts, and the size overrides select the size that the code segment does not. -/
def Obligations.Prefixes : Prop :=
  ∀ s : State,
    (∀ p ∈ [(SReg.es, Instr.pfxEs), (.cs, .pfxCs), (.ss, .pfxSs), (.ds, .pfxDs), (.fs, .pfxFs), (.gs, .pfxGs)],
      exec p.2 s = .next { s with cur := { s.cur with seg := some p.1 } }) ∧
    exec .pfxOpSize s = .next { s with cur := { s.cur with opSize := s.cur.code.other } } ∧
    exec .pfxAddrSize s = .next { s with cur := { s.cur with addrSize := s.cur.code.other } } ∧
    exec .pfxLock s = .next { s with cur := { s.cur with lock := true } } ∧
    exec .pfxRepne s = .next { s with cur := { s.cur with rep := some .repne } } ∧
    exec .pfxRep s = .next { s with cur := { s.cur with rep := some .repe } }

/-! ## Registers, memory and translation -/

/-- The parts of the general registers (10_state.md R31, R32, numbered as R33 says): the 16-bit names are bits 15:0 of
the registers, and the byte names 0 to 3 bits 7:0, and 4 to 7 bits 15:8, of EAX, ECX, EDX and EBX. A write to a register
of a width changes its bits and no others: reading it gives the value, every other register keeps its 32 bits, and a
16-bit or byte write keeps the bits outside it. -/
def Obligations.RegisterParts : Prop :=
  (∀ (g : Regs) (n : BitVec 3),
    let named : Reg := Reg.ofBits n
    let first : Reg := Reg.ofBits (n &&& 3)
    named.toBits = n ∧ g.read .b32 named = g.get named ∧
    (∀ i < 16, (g.read .b16 named).getLsbD i = (g.get named).getLsbD i) ∧
    (∀ i < 8, (g.read .b8 named).getLsbD i = (g.get first).getLsbD (if 4 ≤ n.toNat then i + 8 else i))) ∧
  (∀ (g : Regs) (w : Width) (r : Reg) (v : Val w),
    (g.write w r v).read w r = v ∧
    (∀ q : Reg, q ≠ (if w = .b8 then (byteReg r).1 else r) → (g.write w r v).get q = g.get q) ∧
    (w = .b16 → ∀ i, 16 ≤ i → ((g.write w r v).get r).getLsbD i = (g.get r).getLsbD i) ∧
    (w = .b8 → ∀ i, (i < 8 ∨ 16 ≤ i ∨ (byteReg r).2 = false) → (8 ≤ i ∨ (byteReg r).2 = true) →
      ((g.write w r v).get (byteReg r).1).getLsbD i = (g.get (byteReg r).1).getLsbD i))

/-- Multi-byte data in memory (20_memory.md R102, R103, R112, R113): a value stored at consecutive addresses has byte i,
bits 8i+7 to 8i, at the address plus i wherever there is RAM; reading there gives it back, every other byte of memory is
as it was, and neither a register nor anything else but the prefetch record and what devices observe changes. A ROM and
an empty address drop a write, and a device observes it; memory does not change. Other bus masters (R106, R125, R127,
R145): before each bus cycle that LOCK# does not protect the next of their writes is made, and none while it is
asserted; an operand that lies in two doublewords takes two cycles; they change RAM and nothing else. That the writes of
the others are a list with one entry for each such cycle is the model's form of them (DESIGN CHOICE, log 9). -/
def Obligations.StoredBytes : Prop :=
  (∀ (w : Width) (a : Word32) (v : Val w) (s : State), s.mem.wf = true → s.masters = [] ∨ s.busLock = true →
     let at' (k : Nat) : Word32 := a + BitVec.ofNat 32 k
     let ram (k : Nat) : Prop := regionKind s.plat.map (at' k).toNat = .ram
     let l : Loc := .mem (addrs a w.bytes)
     let t := s.stored w l v
     (∀ k < w.bytes, ram k → t.mem.get (at' k).toNat = v.extractLsb' (8 * k) 8) ∧
     (∀ x, (∀ k < w.bytes, ram k → (at' k).toNat ≠ x) → t.mem.get x = s.mem.get x) ∧
     t = { s with mem := t.mem, prefetch := t.prefetch, events := t.events, free := t.free } ∧
     ((∀ k < w.bytes, regionKind s.plat.map (at' k).toNat ≠ .device) → t.events = s.events ∧ t.free = s.free) ∧
     ((∀ k < w.bytes, ram k) → readLoc w l t = .ok v t)) ∧
  (∀ (a : Word32) (v : Byte) (s : State), s.masters = [] ∨ s.busLock = true →
     let t := s.stored .b8 (.mem [a]) v
     (regionKind s.plat.map a.toNat = .rom ∨ regionKind s.plat.map a.toNat = .absent → t = s) ∧
     (regionKind s.plat.map a.toNat = .device → t = { s with events := .devWrite a [v] :: s.events })) ∧
  ((∀ (w : Width) (a : Word32) (v : Val w) (s : State),
     let t := s.stored w (.mem (addrs a w.bytes)) v
     (s.busLock = true → t.masters = s.masters) ∧
     (s.busLock = false → t.masters = s.masters.drop (if a.toNat % 4 + w.bytes ≤ 4 then 1 else 2)) ∧
     (s.busLock = false → a.toNat % 4 + w.bytes ≤ 4 → ∀ (cells : List (Word32 × Byte)) (rest : List (List (Word32 × Byte))),
       s.masters = cells :: rest →
       t = { State.stored { cells.foldl State.masterByte { s with masters := rest } with busLock := true } w
               (.mem (addrs a w.bytes)) v with busLock := false })) ∧
   (∀ (a : Word32) (v : Byte) (s : State), s.mem.wf = true →
     let t := s.masterByte (a, v)
     (regionKind s.plat.map a.toNat ≠ .ram → t = s) ∧
     (regionKind s.plat.map a.toNat = .ram → t.mem.get a.toNat = v ∧ MemoryKept s t (.mem [a]) ∧
       t = { s with mem := t.mem, prefetch := t.prefetch })))

/-- The checks of an access through a segment register (20_memory.md R110; 21_translation_protection.md R180 to R183,
R185): in protected mode the register must be valid, and readable, or for a write a writable data segment; in both modes
every byte must lie inside the limit; a violation raises #SS(0) for SS and #GP(0) for the others before anything is
accessed; with paging off the access is then made at the base plus the offset. That a validity or type violation through
SS raises #SS(0) too is the model's reading (DEDUCED, log 17): R110 says so, and R182 says #GP(0). That in real-address
mode the limit alone counts, also for a segment that protected mode left expand-down, is the model's choice (DESIGN
CHOICE, log 58: R292 and R300 of 23_real_address_mode.md differ). -/
def Obligations.SegmentChecks : Prop :=
  ∀ (r : SReg) (off : Word32) (n : Nat) (write : Bool) (s : State), 0 < n → n ≤ 4 →
    let g := s.seg r
    let typed : Prop := s.cr0.pe = true → g.valid = true ∧
      (if write then g.attr.writable = true else g.attr.data = true ∨ g.attr.code = true ∧ g.attr.type.getLsbD 1 = true)
    let inside : Prop := if s.cr0.pe = true ∧ g.attr.expandDown = true
      then g.limit.toNat < off.toNat ∧ off.toNat + n ≤ (if g.attr.db then 0x100000000 else 0x10000)
      else off.toNat + n ≤ g.limit.toNat + 1
    (¬ (typed ∧ inside) → segResolve r off n write true s = .error (.exc (if r = .ss then ⟨12, .sel 0⟩ else ⟨13, .sel 0⟩)) s) ∧
    (typed ∧ inside → s.cr0.pg = false →
      segResolve r off n write true s = .ok ((List.range n).map fun k => g.base + off + BitVec.ofNat 32 k) s)

/-- Page translation (21_translation_protection.md R212 to R216, R220 to R222; 60_exceptions.md R738; 20_memory.md
R141). A walk finds the directory entry and the table entry by bits 31:22 and 21:12 of the linear address; an entry with
P = 0, or an access the two entries together do not admit, raises a page fault with the address in CR2; otherwise the
frame is that of the table entry, A is set in both entries and D in the table entry for a write, and the answer is
cached. With nothing cached for the page, or where every cached entry agrees with the tables, the answer is the walk's;
otherwise it is the walk's or that of a cached entry, whose attributes decide, a write through one that is not dirty
walking the tables: that an agreeing entry is the same as a walk, and that any disagreeing one may be used, is the
model's reading (DEDUCED, log 10; 92_eei_decisions.md D18). An operand in two pages has both translated before it is
accessed; that a fault of its second page reports that page's first address in CR2 is the model's choice (DESIGN CHOICE,
log 41), and so is that the accessed and dirty bits which the walk of the first page has set then stay set (DESIGN
CHOICE, log 12). With paging off nothing is translated. -/
def Obligations.PageTranslation : Prop :=
  (∀ (la : Word32) (write user : Bool) (s : State), s.masters = [] ∨ s.busLock = true →
     let word (m : Memory) (a : Word32) : Word32 := ofBytes .b32 ((addrs a 4).map fun b => m.get b.toNat)
     let pdeAt := (s.cr3 &&& 0xFFFFF000) + 4 * (la >>> 22)
     let pde := word s.mem pdeAt
     let pteAt := (pde &&& 0xFFFFF000) + 4 * ((la >>> 12) &&& 0x3FF)
     let pte := word s.mem pteAt
     let ram (a : Word32) : Prop := ∀ k < 4, regionKind s.plat.map (a + BitVec.ofNat 32 k).toNat = .ram
     let allowed : Prop := user = false ∨ pde.getLsbD 2 = true ∧ pte.getLsbD 2 = true ∧
       (write = false ∨ pde.getLsbD 1 = true ∧ pte.getLsbD 1 = true)
     let fault (p : Bool) : EStateM.Result Stop State (BitVec 20) :=
       .error (.exc ⟨14, .page (BitVec.ofBool user ++ (BitVec.ofBool write ++ BitVec.ofBool p))⟩) { s with cr2 := la }
     ram pdeAt → ram pteAt →
     (pde.getLsbD 0 = false ∨ pte.getLsbD 0 = false → walk la write user true s = fault false) ∧
     (pde.getLsbD 0 = true → pte.getLsbD 0 = true → ¬ allowed → walk la write user true s = fault true) ∧
     (pde.getLsbD 0 = true → pte.getLsbD 0 = true → allowed → ∃ t : State,
       walk la write user true s = .ok (pte.extractLsb' 12 20) t ∧ t = { s with mem := t.mem, prefetch := t.prefetch, tlb := t.tlb } ∧
       (∃ e : TlbEntry, e = { page := la.extractLsb' 12 20, frame := pte.extractLsb' 12 20,
                              user := pde.getLsbD 2 && pte.getLsbD 2, write := pde.getLsbD 1 && pte.getLsbD 1,
                              dirty := write } ∧ e ∈ t.tlb ∧ ∀ x, x ∈ t.tlb ↔ x = e ∨ x ∈ s.tlb) ∧
       (s.mem.wf = true →
         let set : Word32 := if write then 0x60 else 0x20
         word t.mem pdeAt = pde ||| 0x20 ||| (if pteAt = pdeAt then set else 0) ∧ word t.mem pteAt = pte ||| set ∧
         MemoryKept s t (.mem (addrs pdeAt 4 ++ addrs pteAt 4))))) ∧
  (∀ (la : Word32) (n : Nat) (write user commit : Bool) (s : State),
     ((∀ e ∈ s.tlb, e.page = frameOf la → e.agrees s la = true) →
       translate la write user commit s = walk la write user commit s) ∧
     (let drawn : State := { s with free := s.free + 1 }
      translate la write user commit s = walk la write user commit s ∨
      translate la write user commit s = walk la write user commit drawn ∨
      ∃ e ∈ s.tlb, e.page = frameOf la ∧
        let ok : Prop := user = false ∨ e.user = true ∧ (write = false ∨ e.write = true)
        let fault : Exn := ⟨14, .page (BitVec.ofBool user ++ (BitVec.ofBool write ++ BitVec.ofBool true))⟩
        (¬ ok → translate la write user commit s = .error (.exc fault) { drawn with cr2 := la }) ∧
        (ok → write = true → e.dirty = false → translate la write user commit s = walk la write user commit drawn) ∧
        (ok → write = false ∨ e.dirty = true → translate la write user commit s = .ok e.frame drawn)) ∧
     (∀ (f : BitVec 20) (t : State), s.cr0.pg = true → translate la write user commit s = .ok f t →
       linResolve la 1 write user commit s = .ok [f ++ la.extractLsb' 0 12] t ∧
       (let last := la + BitVec.ofNat 32 (n - 1)
        frameOf last ≠ frameOf la →
        (∀ (x : Exn) (u : State), translate (last &&& 0xFFFFF000) write user commit t = .error (.exc x) u →
          linResolve la n write user commit s = .error (.exc x) u) ∧
        (∀ (g : BitVec 20) (u : State), translate (last &&& 0xFFFFF000) write user commit t = .ok g u →
          linResolve la n write user commit s = .ok ((addrs la n).map fun a =>
            (if frameOf a = frameOf la then f else g) ++ a.extractLsb' 0 12) u))) ∧
     (s.cr0.pg = false → linResolve la n write user commit s = .ok (addrs la n) s))

/-! ## The step, the boundary and RESET -/

/-- A step runs the decoded instruction (30_encoding.md R313 to R316; 00_scope.md R17; 60_exceptions.md R745, R785,
R795): with no event to take, paging off and no other bus master about to write, and at CS:EIP, inside the limit of CS,
some prefixes and the bytes of an instruction, fifteen bytes or fewer, the step is that instruction's meaning, in the
state with the prefixes' attributes and the offset after the last byte as that of the next instruction; after it RF is
cleared unless the instruction loaded it or did not complete, and, if TF was set as it began and it completed, a
single-step trap is pending with BS set. -/
def Obligations.StepRunsDecoded : Prop :=
  ∀ (s : State) (ps : List Instr) (bytes : List Byte) (i : Instr),
    let a : State := { s.absorb with inhibit := false, stiShadow := false, debugTrap := false }
    let z : Size := if a.cr0.pe = true ∧ a.cs.attr.db = true then .s32 else .s16
    let t := { a with cur := a.curAt z }.prefixed ps
    let all := ps.flatMap (encode .s16 .s16) ++ bytes
    s.absorb.flags.vm = false → s.absorb.pending = none → a.activity = .running → a.modeStale = false →
    a.cr0.pg = false → a.prefetch = [] → a.masters = [] → (∀ p ∈ ps, isPrefix p = true) → isPrefix i = false →
    decode t.cur.opSize t.cur.addrSize bytes = .ok (i, []) → all.length ≤ 15 →
    (∀ k (h : k < all.length), (a.eip + BitVec.ofNat 32 k).toNat ≤ a.cs.limit.toNat ∧
      regionKind a.plat.map (a.cs.base + (a.eip + BitVec.ofNat 32 k)).toNat = .ram ∧
      a.mem.get (a.cs.base + (a.eip + BitVec.ofNat 32 k)).toNat = all[k]) →
    step s = (match exec i { t with cur := { t.cur with next := a.eip + BitVec.ofNat 32 all.length } } with
      | .next u =>
        let trap := a.flags.tf && !u.cur.incomplete
        .next { u with
          cur := .idle
          flags := { u.flags with rf := u.flags.rf && (u.cur.keepRf || u.cur.incomplete) }
          debugTrap := u.debugTrap || trap
          dbg := { u.dbg with dr6 := u.dbg.dr6 ||| (if trap then 0x4000 else 0) } }
      | .fault r => .fault r
      | .refused r => .refused r)

/-- What a boundary takes (60_exceptions.md R745, R747, R780 to R784; 48_system.md R690, R692; 00_scope.md R5): a debug
trap before an NMI before INTR; none of them at the boundary an inhibit covers, an NMI only outside the NMI handler,
INTR only with IF set and outside the shadow of STI; an event ends a halt; without one a halted processor stays as it
is, and a shut down processor is left by an NMI alone. A state with VM = 1 is refused. -/
def Obligations.BoundaryEvents : Prop :=
  ∀ s : State, s.inputs = [] →
    let idle : State := { s with inhibit := false, stiShadow := false, debugTrap := false }
    let awake : State := { idle with activity := .running }
    let takes (v : Byte) (src : Source) (u : State) : Prop :=
      ∀ t, deliver { vec := v, src := src, ret := s.eip, code := .none, rf := false } u = .ok () t →
        step s = .next { t with cur := .idle }
    let nmi : State := { awake with nmiPending := false, nmiLatch := true }
    (s.flags.vm = true → step s = .refused .virtual8086) ∧
    (s.flags.vm = false → s.activity ≠ .shutdown →
      (s.debugTrap = true → s.inhibit = false → takes 1 .exc awake) ∧
      (s.debugTrap = false → s.inhibit = false → s.nmiPending = true → s.nmiLatch = false → takes 2 .ext nmi) ∧
      (∀ n : Byte, s.intr = some n → s.debugTrap = false → s.inhibit = false → s.stiShadow = false → s.flags.ie = true →
        (s.nmiPending = false ∨ s.nmiLatch = true) → takes n .ext { awake with intr := none }) ∧
      (s.inhibit = true ∨ (s.debugTrap = false ∧ (s.nmiPending = false ∨ s.nmiLatch = true) ∧
        (s.intr = none ∨ s.flags.ie = false ∨ s.stiShadow = true)) →
        s.pending = none ∧ (s.activity = .halted → step s = .next idle))) ∧
    (s.flags.vm = false → s.activity = .shutdown →
      (s.nmiPending = true → s.nmiLatch = false → takes 2 .ext nmi) ∧
      (s.nmiPending = false ∨ s.nmiLatch = true → step s = .next idle))

/-- What a signal on RESET leaves (10_state.md R90), from any state, and that `State.reset` is such a state. The visible
selector of CS is a parameter of the platform, F000H by default. Memory as it was is R821 (70_reset_and_hazards.md);
that nothing else outside R90's table changes with it, and that EAX holds 0 after a self-test, a unit that passes it
(R90 lets a faulty one leave another value; 92_eei_decisions.md D17), is the model's choice (log 37), and so is that
memory holds nothing in `State.reset` (DESIGN CHOICE, log 6). -/
def Obligations.ResetValues : Prop :=
  let fresh (t : State) : Prop :=
    t.flags.image = 2 ∧ t.eip = 0x0000FFF0 ∧ t.cs.sel = t.plat.resetCs ∧ t.cs.base = 0xFFFF0000 ∧ t.cs.limit = 0xFFFF ∧
    t.cs.valid = true ∧ t.cs.attr.present = true ∧ t.cs.attr.code = true ∧ t.cs.attr.readable = true ∧
    (∀ r : SReg, r ≠ .cs → (t.seg r).sel = 0 ∧ (t.seg r).base = 0 ∧ (t.seg r).limit = 0xFFFF ∧ (t.seg r).valid = true ∧
      (t.seg r).attr.present = true ∧ (t.seg r).attr.writable = true ∧ (t.seg r).attr.expandDown = false) ∧
    t.idtr = { base := 0, limit := 0x3FF } ∧
    t.cr0 = { pe := false, mp := false, em := false, ts := false, et := decide (t.plat.coproc = .i387), pg := false } ∧
    t.regs.edx.extractLsb' 8 8 = 3 ∧ t.regs.edx.extractLsb' 0 8 = t.plat.revDl ∧
    (t.plat.selfTest = true → t.regs.eax = 0) ∧ t.cpl = 0 ∧ t.nmiLatch = false ∧
    t.inhibit = false ∧ t.intr = none ∧ t.activity = .running
  fresh State.reset ∧ State.reset.mem = [] ∧ State.reset.cs.sel = 0xF000 ∧
    ∀ (s : State) (rest : List Input), s.inputs = .reset :: rest →
      fresh s.absorb ∧ s.absorb.mem = s.mem ∧ s.absorb.plat = s.plat ∧ s.absorb.inputs = rest

/-! ## The machine as a whole -/

/-- The invariant holds after RESET. -/
def Obligations.ResetSafe : Prop :=
  State.reset.Inv ∧ ∀ s : State, s.mem.wf = true → (s.receive .reset).Inv

/-- Every step keeps the invariant (`State.Inv`), whatever arrives from outside, whatever instruction is executed and
whatever exception it raises: memory keeps its canonical form, real-address mode runs at CPL 0, VM stays 0, paging is on
in protected mode only, and bits 11:0 of CR3 stay 0. -/
def Obligations.StepKeepsInvariant : Prop :=
  ∀ s t : State, s.Inv → step s = .next t → t.Inv

/-- Decoding and encoding agree (30_encoding.md R312, R320 to R326, R350 to R352): whatever follows it, the encoding of
a well-formed instruction, at either operand size and either address size, with every operand at every value, is decoded
as that instruction, and nothing of what follows is consumed. -/
def Obligations.DecodeEncode : Prop :=
  ∀ (i : Instr) (osz asz : Size) (rest : List Byte), i.wf osz asz = true →
    decode osz asz (encode osz asz i ++ rest) = .ok (i, rest)

/-- Words written out from the encodings of spec/ (30_encoding.md R350 to R352), one for each family of the opcode
table, decode to the instructions they stand for. -/
def Obligations.DecodeWords : Prop :=
  decodeTableWord 16 0xD800 = some (.addEbGb (.reg .eax) .ebx) ∧
  decodeTableWord 16 0x1204 = some (.addAlIb 0x12) ∧
  decodeTableWord 24 0x1234B8 = some (.movRvIv .eax 0x1234) ∧
  decodeTableWord 8 0x27 = some .daa ∧
  decodeTableWord 16 0xE0D1 = some (.shlEv (.reg .eax) .one) ∧
  decodeTableWord 24 0xC3A30F = some (.btEvGv (.reg .ebx) .eax) ∧
  decodeTableWord 40 0xF000FFF0EA = some (.jmpApFar 0xFFF0 0xF000) ∧
  decodeTableWord 16 0xFE74 = some (.je (.short 0xFE)) ∧
  decodeTableWord 16 0x21CD = some (.intIb 0x21) ∧
  decodeTableWord 8 0xA4 = some .movsb ∧
  decodeTableWord 32 0x010010C8 = some (.enterIwIb 0x10 1) ∧
  decodeTableWord 8 0xFB = some .sti ∧
  decodeTableWord 16 0x078E = some (.movSregEw 0 (.mem (.ind16 .bx .none))) ∧
  decodeTableWord 24 0x17010F = some (.lgdtM (.ind16 .bx .none)) ∧
  decodeTableWord 24 0xC0220F = some (.movCrnR32 0 .eax) ∧
  decodeTableWord 16 0x60E6 = some (.outIbAl 0x60) ∧
  decodeTableWord 16 0xE0DB = some (.esc 3 4 (.reg .eax)) ∧
  decodeTableWord 8 0xF0 = some .pfxLock ∧
  decodeTableWord 8 0xD6 = some .undefD6
end

