-- ==== Sys2Proof/Laws/Memory.lean ====
section
/-! SUPPORT. Memory.lean: the laws of physical memory: a read after a write, and the canonical form. -/

namespace Sys2Proof.Machine

/-! ## Reading after writing -/

/-- Reading a cell that was put in front. -/
theorem Memory.get_cons_self (m : Memory) (a : Nat) (v : Byte) (h : v = Memory.unlisted → m.get a = Memory.unlisted) :
    (Memory.cons a v m).get a = v := by
  unfold Memory.cons
  split
  · rename_i hv; rw [h hv, hv]
  · simp [Memory.get]

/-- Below the first address of a well-formed list nothing is listed. -/
theorem Memory.get_of_lt {lo : Nat} : ∀ {m : Memory}, Memory.wfFrom lo m = true → ∀ {a : Nat}, a < lo →
    m.get a = Memory.unlisted
  | [], _, _, _ => rfl
  | (b, v) :: rest, h, a, ha => by
    simp only [Memory.wfFrom, Bool.and_eq_true, decide_eq_true_eq] at h
    have : a < b := by omega
    simp [Memory.get, this]

/-- Reading the byte that was written gives its value. -/
theorem Memory.get_set_self {lo : Nat} : ∀ {m : Memory}, Memory.wfFrom lo m = true → ∀ (a : Nat) (v : Byte),
    (m.set a v).get a = v
  | [], _, a, v => by
    simp only [Memory.set]
    exact Memory.get_cons_self _ _ _ (fun _ => rfl)
  | (b, w) :: rest, h, a, v => by
    have hr : Memory.wfFrom (b + 1) rest = true := by
      simp only [Memory.wfFrom, Bool.and_eq_true] at h; exact h.2
    simp only [Memory.set]
    split
    · rename_i hab
      exact Memory.get_cons_self _ _ _ (fun _ => by simp [Memory.get, hab])
    · split
      · rename_i _ hab
        subst hab
        exact Memory.get_cons_self _ _ _ (fun _ => Memory.get_of_lt hr (by omega))
      · rename_i h1 h2
        simp only [Memory.get, h1, h2, if_false]
        exact Memory.get_set_self hr a v

/-- Reading any other byte gives what it gave. -/
theorem Memory.get_cons_other (m : Memory) {a b : Nat} (v : Byte) (h : b ≠ a)
    (hm : b < a → m.get b = Memory.unlisted) : (Memory.cons a v m).get b = m.get b := by
  unfold Memory.cons
  split
  · rfl
  · by_cases hb : b < a
    · simp [Memory.get, hb, hm hb]
    · simp [Memory.get, hb, h]

/-- A write leaves every other byte alone. -/
theorem Memory.get_set_other {lo : Nat} : ∀ {m : Memory}, Memory.wfFrom lo m = true → ∀ {a b : Nat} (v : Byte), b ≠ a →
    (m.set a v).get b = m.get b
  | [], _, a, b, v, h => by
    simp only [Memory.set]
    exact Memory.get_cons_other _ v h (fun _ => rfl)
  | (c, w) :: rest, hw, a, b, v, h => by
    have hr : Memory.wfFrom (c + 1) rest = true := by
      simp only [Memory.wfFrom, Bool.and_eq_true] at hw; exact hw.2
    simp only [Memory.set]
    split
    · rename_i hac
      refine Memory.get_cons_other _ v h (fun hba => ?_)
      have : b < c := by omega
      simp [Memory.get, this]
    · split
      · rename_i h1 hac
        subst hac
        have h2 : Memory.get ((a, w) :: rest) b = Memory.get rest b := by
          by_cases hba : b < a
          · simp [Memory.get, hba, Memory.get_of_lt hr (show b < a + 1 by omega)]
          · simp [Memory.get, hba, h]
        rw [h2]
        exact Memory.get_cons_other _ v h (fun hba => Memory.get_of_lt hr (by omega))
      · by_cases hbc : b < c
        · simp [Memory.get, hbc]
        · by_cases hbe : b = c
          · simp [Memory.get, hbe]
          · simp only [Memory.get, hbc, hbe, if_false]
            exact Memory.get_set_other hr v h

/-! ## The canonical form -/

/-- A well-formed list is well-formed from any lower address. -/
theorem Memory.wfFrom_mono {lo lo' : Nat} (h : lo' ≤ lo) : ∀ {m : Memory}, Memory.wfFrom lo m = true →
    Memory.wfFrom lo' m = true
  | [], _ => rfl
  | (a, v) :: rest, hm => by
    simp only [Memory.wfFrom, Bool.and_eq_true, decide_eq_true_eq] at hm ⊢
    exact ⟨⟨⟨by omega, hm.1.1.2⟩, hm.1.2⟩, hm.2⟩

/-- Putting a cell in front keeps the canonical form. -/
theorem Memory.wfFrom_cons {lo a : Nat} {v : Byte} {m : Memory} (hl : lo ≤ a) (ha : a < 4294967296)
    (hm : Memory.wfFrom (a + 1) m = true) : Memory.wfFrom lo (Memory.cons a v m) = true := by
  unfold Memory.cons
  split
  · exact Memory.wfFrom_mono (by omega) hm
  · rename_i hv
    simp only [Memory.wfFrom, Bool.and_eq_true, decide_eq_true_eq]
    refine ⟨⟨⟨hl, ha⟩, ?_⟩, hm⟩
    simpa [Memory.unlisted] using hv

/-- A write keeps the canonical form. -/
theorem Memory.wfFrom_set {lo : Nat} : ∀ {m : Memory}, Memory.wfFrom lo m = true → ∀ {a : Nat} (v : Byte), lo ≤ a →
    a < 4294967296 → Memory.wfFrom lo (m.set a v) = true
  | [], _, a, v, hl, ha => Memory.wfFrom_cons hl ha rfl
  | (b, w) :: rest, h, a, v, hl, ha => by
    have h0 := h
    simp only [Memory.wfFrom, Bool.and_eq_true, decide_eq_true_eq] at h
    simp only [Memory.set]
    split
    · rename_i hab
      refine Memory.wfFrom_cons hl ha ?_
      simp only [Memory.wfFrom, Bool.and_eq_true, decide_eq_true_eq]
      exact ⟨⟨⟨by omega, h.1.1.2⟩, h.1.2⟩, h.2⟩
    · split
      · rename_i _ hab
        subst hab
        exact Memory.wfFrom_cons hl ha h.2
      · simp only [Memory.wfFrom, Bool.and_eq_true, decide_eq_true_eq]
        exact ⟨⟨⟨h.1.1.1, h.1.1.2⟩, h.1.2⟩, Memory.wfFrom_set h.2 v (by omega) ha⟩

/-- A write at a physical address keeps the canonical form. -/
theorem Memory.wf_set {m : Memory} (h : m.wf = true) (a : Word32) (v : Byte) : (m.set a.toNat v).wf = true :=
  Memory.wfFrom_set h v (Nat.zero_le _) (by have := a.isLt; omega)

/-- Reading back at a physical address. -/
theorem Memory.get_set {m : Memory} (h : m.wf = true) (a b : Word32) (v : Byte) :
    (m.set a.toNat v).get b.toNat = if b = a then v else m.get b.toNat := by
  split
  · rename_i hb; subst hb; exact Memory.get_set_self h _ _
  · rename_i hb
    exact Memory.get_set_other h v (fun hc => hb (BitVec.eq_of_toNat_eq hc))

/-! ## The operations of Access.lean over memory -/

/-- A byte written to an array keeps the canonical form. -/
theorem State.writeByte_wf {s : State} (h : s.mem.wf = true) (a : Word32) (v : Byte) : (s.writeByte a v).mem.wf = true :=
  Memory.wf_set h a v

/-- Bytes written one after another keep the canonical form. -/
theorem writeBytes_wf : ∀ (l : List (Word32 × Byte)) {s : State}, s.mem.wf = true →
    (l.foldl (fun t c => t.writeByte c.1 c.2) s).mem.wf = true
  | [], _, h => h
  | c :: rest, s, h => by
    rw [List.foldl_cons]
    exact writeBytes_wf rest (State.writeByte_wf h c.1 c.2)

/-- Bytes written one after another leave every other byte alone. -/
theorem writeBytes_get_other : ∀ (l : List (Word32 × Byte)) {s : State}, s.mem.wf = true → ∀ {x : Nat},
    (∀ c ∈ l, c.1.toNat ≠ x) → (l.foldl (fun t c => t.writeByte c.1 c.2) s).mem.get x = s.mem.get x
  | [], _, _, _, _ => rfl
  | c :: rest, s, h, x, hx => by
    rw [List.foldl_cons, writeBytes_get_other rest (State.writeByte_wf h c.1 c.2) (fun d hd => hx d (by simp [hd]))]
    exact Memory.get_set_other h c.2 fun e => hx c (by simp) e.symm

/-! ## Bus cycles -/

theorem regionCons_flatten {α : Type} (map : List Region) (f : α → Word32) (a : α) (runs : List (List α)) :
    (regionCons map f a runs).flatten = a :: runs.flatten := by
  unfold regionCons
  split
  · split <;> rfl
  · rfl

/-- The parts of a bus cycle, one after the other, are its bytes. -/
@[simp] theorem regionRuns_flatten {α : Type} (map : List Region) (f : α → Word32) :
    ∀ p : List α, (regionRuns map f p).flatten = p
  | [] => rfl
  | a :: rest => (regionCons_flatten map f a _).trans (congrArg (a :: ·) (regionRuns_flatten map f rest))

/-- The parts of a bus cycle hold its bytes. -/
theorem mem_regionRuns {α : Type} {map : List Region} {f : α → Word32} {p : List α} {r : List α} {x : α}
    (h : r ∈ regionRuns map f p) (hx : x ∈ r) : x ∈ p := by
  rw [← regionRuns_flatten map f p]
  exact List.mem_flatten.mpr ⟨r, h, hx⟩

/-- What a run of bytes of one region does: it stores them, or changes no memory. -/
theorem State.writeRun_cases (s : State) (p : List (Word32 × Byte)) :
    s.writeRun p = p.foldl (fun t c => t.writeByte c.1 c.2) s ∨ ∃ ev, s.writeRun p = { s with events := ev } := by
  unfold State.writeRun
  split
  · exact .inl rfl
  · split
    · exact .inl rfl
    · exact .inr ⟨_, rfl⟩
    · exact .inr ⟨_, rfl⟩
    · exact .inr ⟨_, rfl⟩

theorem State.writeRun_wf {s : State} (h : s.mem.wf = true) (p : List (Word32 × Byte)) : (s.writeRun p).mem.wf = true := by
  rcases s.writeRun_cases p with e | ⟨ev, e⟩ <;> rw [e]
  · exact writeBytes_wf _ h
  · exact h

theorem State.writeRun_get_other {s : State} (h : s.mem.wf = true) (p : List (Word32 × Byte)) {x : Nat}
    (hx : ∀ c ∈ p, c.1.toNat ≠ x) : (s.writeRun p).mem.get x = s.mem.get x := by
  rcases s.writeRun_cases p with e | ⟨ev, e⟩ <;> rw [e]
  exact writeBytes_get_other _ h hx

theorem writeRuns_get_other : ∀ (rs : List (List (Word32 × Byte))) {s : State}, s.mem.wf = true → ∀ {x : Nat},
    (∀ r ∈ rs, ∀ c ∈ r, c.1.toNat ≠ x) →
    (rs.foldl State.writeRun s).mem.wf = true ∧ (rs.foldl State.writeRun s).mem.get x = s.mem.get x
  | [], _, h, _, _ => ⟨h, rfl⟩
  | r :: rest, s, h, x, hx => by
    have w := State.writeRun_wf h r
    obtain ⟨i, j⟩ := writeRuns_get_other rest w fun q hq => hx q (by simp [hq])
    exact ⟨i, j.trans (State.writeRun_get_other h r (hx r (by simp)))⟩

/-- A byte that another bus master writes keeps the canonical form, and leaves the others alone. -/
theorem State.masterByte_mem {s : State} (h : s.mem.wf = true) (c : Word32 × Byte) :
    (s.masterByte c).mem.wf = true ∧ ∀ x, c.1.toNat ≠ x → (s.masterByte c).mem.get x = s.mem.get x := by
  unfold State.masterByte
  split
  · exact ⟨State.writeByte_wf h _ _, fun x hx => writeBytes_get_other [c] h (by simpa using hx)⟩
  all_goals exact ⟨h, fun _ _ => rfl⟩

theorem masterBytes_mem : ∀ (cs : List (Word32 × Byte)) {s : State}, s.mem.wf = true →
    (cs.foldl State.masterByte s).mem.wf = true ∧
      ∀ x, (∀ c ∈ cs, c.1.toNat ≠ x) → (cs.foldl State.masterByte s).mem.get x = s.mem.get x
  | [], _, h => ⟨h, fun _ _ => rfl⟩
  | c :: rest, s, h => by
    obtain ⟨w, k⟩ := State.masterByte_mem h c
    obtain ⟨i, j⟩ := masterBytes_mem rest w
    exact ⟨i, fun x hx => (j x fun d hd => hx d (by simp [hd])).trans (k x (hx c (by simp)))⟩

/-- What other bus masters do before a bus cycle keeps the canonical form, and writes no byte they are not about to
write. -/
theorem State.cycle_mem {s : State} (h : s.mem.wf = true) :
    s.cycle.mem.wf = true ∧ ∀ x, ¬ s.outside x → s.cycle.mem.get x = s.mem.get x := by
  unfold State.cycle
  split
  · exact ⟨h, fun _ _ => rfl⟩
  · split
    · exact ⟨h, fun _ _ => rfl⟩
    · rename_i cells rest e
      obtain ⟨i, j⟩ := masterBytes_mem cells (s := { s with masters := rest }) h
      refine ⟨i, fun x hx => j x fun c hc e' => hx ⟨cells, ?_, c, hc, e'⟩⟩
      rw [e]; simp

/-- With no other bus master about to write, a bus cycle begins in the state it is made in. -/
@[simp] theorem State.cycle_quiet {s : State} (h : s.masters = []) : s.cycle = s := by
  unfold State.cycle
  split
  · rfl
  · rw [h]

/-- A bus cycle keeps the canonical form. -/
theorem State.writePiece_wf {s : State} (h : s.mem.wf = true) (p : List (Word32 × Byte)) :
    (s.writePiece p).mem.wf = true :=
  (writeRuns_get_other (x := 4294967296) _ (State.cycle_mem h).1 fun _ _ c _ => by have := c.1.isLt; omega).1

/-- A bus cycle leaves every byte outside it alone, but for those of other bus masters. -/
theorem State.writePiece_get_other {s : State} (h : s.mem.wf = true) (p : List (Word32 × Byte)) {x : Nat}
    (hx : ∀ c ∈ p, c.1.toNat ≠ x) (ho : ¬ s.outside x) : (s.writePiece p).mem.get x = s.mem.get x :=
  (writeRuns_get_other _ (State.cycle_mem h).1 fun _ hr c hc => hx c (mem_regionRuns hr hc)).2.trans
    ((State.cycle_mem h).2 x ho)

end Sys2Proof.Machine
end

