-- ==== Sys2Proof/Laws/Monad.lean ====
section
/-! SUPPORT. Monad.lean: what the primitive actions do, as rewriting rules, and a calculus for what an action keeps
however it ends. -/

namespace Sys2Proof.Machine

/-! ## Running an action -/

@[simp] theorem bind_run {α β : Type} (m : M α) (f : α → M β) (s : State) :
    (m >>= f) s = match m s with
      | .ok a t => f a t
      | .error x t => .error x t := by
  show EStateM.bind m f s = _
  unfold EStateM.bind
  split <;> simp_all

/-- An action followed by another, where the first one ends well. -/
theorem bind_ok {α β : Type} {m : M α} {f : α → M β} {s t : State} {a : α} (h : m s = .ok a t) :
    (m >>= f) s = f a t := by simp [h]

/-- An action followed by another, where the first one stops. -/
theorem bind_error {α β : Type} {m : M α} {f : α → M β} {s t : State} {x : Stop} (h : m s = .error x t) :
    (m >>= f) s = .error x t := by simp [h]

/-- A sequence answers exactly if both parts do. -/
theorem bind_eq_ok {α β : Type} {m : M α} {f : α → M β} {s u : State} {b : β} :
    (m >>= f) s = .ok b u ↔ ∃ a t, m s = .ok a t ∧ f a t = .ok b u := by
  rw [bind_run]
  cases m s with
  | error x t => simp
  | ok a t =>
    constructor
    · intro h; exact ⟨a, t, rfl, h⟩
    · rintro ⟨b, v, e, h⟩
      obtain ⟨rfl, rfl⟩ := EStateM.Result.ok.inj e
      exact h

/-- A sequence stops exactly if its first part does, or its second after the first has answered. -/
theorem bind_eq_error {α β : Type} {m : M α} {f : α → M β} {s u : State} {x : Stop} :
    (m >>= f) s = .error x u ↔ m s = .error x u ∨ ∃ a t, m s = .ok a t ∧ f a t = .error x u := by
  rw [bind_run]
  cases m s with
  | error y t => simp
  | ok a t =>
    constructor
    · intro h; exact .inr ⟨a, t, rfl, h⟩
    · rintro (e | ⟨b, v, e, h⟩)
      · simp at e
      · obtain ⟨rfl, rfl⟩ := EStateM.Result.ok.inj e
        exact h

@[simp] theorem pure_run {α : Type} (a : α) (s : State) : (pure a : M α) s = .ok a s := rfl
@[simp] theorem get_run (s : State) : (get : M State) s = .ok s s := rfl
@[simp] theorem modify_run (f : State → State) (s : State) : (modify f : M Unit) s = .ok () (f s) := rfl
@[simp] theorem raise_run {α : Type} (e : Exn) (s : State) : (raise e : M α) s = .error (.exc e) s := rfl
@[simp] theorem refuse_run {α : Type} (r : Refusal) (s : State) : (refuse r : M α) s = .error (.refuse r) s := rfl
@[simp] theorem require_run (c : Bool) (e : Exn) (s : State) :
    require c e s = if c then .ok () s else .error (.exc e) s := rfl
theorem require_eq_ok {c : Bool} {e : Exn} {s t : State} : require c e s = .ok () t ↔ c = true ∧ t = s := by
  rw [require_run]
  cases c <;> simp [eq_comm]

theorem require_eq_error {c : Bool} {e : Exn} {x : Stop} {s t : State} :
    require c e s = .error x t ↔ c = false ∧ x = .exc e ∧ t = s := by
  rw [require_run]
  cases c <;> simp [eq_comm]

@[simp] theorem draw_run (s : State) :
    draw s = .ok (Config.freeValue s.free) { s with free := s.free + 1 } := rfl
@[simp] theorem getReg_run (w : Width) (r : Reg) (s : State) : getReg w r s = .ok (s.regs.read w r) s := rfl
@[simp] theorem setReg_run (w : Width) (r : Reg) (v : Val w) (s : State) :
    setReg w r v s = .ok () { s with regs := s.regs.write w r v } := rfl
@[simp] theorem setFlags_run (f : Flags → Flags) (s : State) :
    setFlags f s = .ok () { s with flags := f s.flags } := rfl
@[simp] theorem jump_run (t : Word32) (s : State) :
    jump t s = .ok () { s with eip := t, prefetch := [], modeStale := false } := rfl

/-! ## What an action keeps -/

/-- The state an action ends in, however it ends. -/
def after {α : Type} : EStateM.Result Stop State α → State
  | .ok _ t => t
  | .error _ t => t

/-- The action relates the state it starts in to the one it ends in, however it ends. -/
structure Keeps {α : Type} (R : State → State → Prop) (m : M α) : Prop where
  run : ∀ s, R s (after (m s))

/-- A relation that actions in sequence keep. -/
structure Order (R : State → State → Prop) : Prop where
  refl : ∀ s, R s s
  trans : ∀ {s t u}, R s t → R t u → R s u

/-- What is kept and what follows from a property that is kept. -/
theorem Order.of_invariant (P : State → Prop) : Order (fun s t => P s → P t) :=
  ⟨fun _ h => h, fun h k p => k (h p)⟩

section
variable {α β : Type} {R : State → State → Prop}

theorem Keeps.pure (o : Order R) (a : α) : Keeps R (Pure.pure a : M α) := ⟨fun s => o.refl s⟩

/-- A sequence whose second part may use what is known of the state the first one ended well in. -/
theorem Keeps.bind' (o : Order R) {m : M α} {f : α → M β} (hm : Keeps R m)
    (hf : ∀ a s t, m s = .ok a t → R t (after (f a t))) : Keeps R (m >>= f) := ⟨fun s => by
  have h := hm.run s
  rw [bind_run]
  cases e : m s with
  | ok a t => rw [e] at h; exact o.trans h (hf a s t e)
  | error x t => rw [e] at h; exact h⟩

theorem Keeps.bind (o : Order R) {m : M α} {f : α → M β} (hm : Keeps R m) (hf : ∀ a, Keeps R (f a)) :
    Keeps R (m >>= f) := .bind' o hm fun a _ t _ => (hf a).run t

/-- A sequence whose second part may use what the first one found. -/
theorem Keeps.get_bind {f : State → M β} (hf : ∀ s, R s (after (f s s))) :
    Keeps R ((get : M State) >>= f) := ⟨fun s => hf s⟩

theorem Keeps.get (o : Order R) : Keeps R (MonadState.get : M State) := ⟨fun s => o.refl s⟩

theorem Keeps.modify {f : State → State} (h : ∀ s, R s (f s)) : Keeps R (modify f : M Unit) := ⟨fun s => h s⟩

theorem Keeps.ite {c : Prop} [Decidable c] {x y : M α} (hx : Keeps R x) (hy : Keeps R y) :
    Keeps R (if c then x else y) := by split <;> assumption

theorem Keeps.raise (o : Order R) (e : Exn) : Keeps R (Sys2Proof.Machine.raise e : M α) := ⟨fun s => o.refl s⟩

theorem Keeps.refuse (o : Order R) (r : Refusal) : Keeps R (Sys2Proof.Machine.refuse r : M α) := ⟨fun s => o.refl s⟩

theorem Keeps.require (o : Order R) (c : Bool) (e : Exn) : Keeps R (Sys2Proof.Machine.require c e) := ⟨fun s => by
  rw [require_run]; split <;> exact o.refl s⟩

/-- A stronger relation is kept by whatever keeps it. -/
theorem Keeps.mono {R' : State → State → Prop} {m : M α} (h : Keeps R m) (imp : ∀ s t, R s t → R' s t) : Keeps R' m :=
  ⟨fun s => imp _ _ (h.run s)⟩

end

end Sys2Proof.Machine
end

