-- ==== Sys2Proof/Laws/Access.lean ====
section
/-! SUPPORT. Access.lean: what an access to memory can change, however it ends: memory and its caches, CR2, the events and
the free values, and memory keeps its canonical form. -/

namespace Sys2Proof.Machine

/-- The writes of other bus masters still to come are some of those that were; all of them, while LOCK# is asserted. -/
def MastersWait (s t : State) : Prop := t.masters <:+ s.masters ∧ (s.busLock = true → t.masters = s.masters)

theorem MastersWait.of_eq {s t : State} (h : t.masters = s.masters) : MastersWait s t :=
  ⟨by simp [h], fun _ => h⟩

/-- Nothing changes but what an access changes (`State.rollback`), memory keeps its canonical form, and the writes of other
bus masters still to come are some of those that were. -/
def Access (s t : State) : Prop :=
  t = s.rollback t ∧ (s.mem.wf = true → t.mem.wf = true) ∧ MastersWait s t

theorem Access.order : Order Access where
  refl _ := ⟨rfl, id, .of_eq rfl⟩
  trans := by
    rintro s t u ⟨h1, h2, h3, h4⟩ ⟨k1, k2, k3, k4⟩
    have lock : t.busLock = s.busLock := by rw [h1]; rfl
    refine ⟨?_, k2 ∘ h2, k3.trans h3, fun l => (k4 (lock.trans l)).trans (h4 l)⟩
    rw [h1] at k1
    exact k1

/-- Memory and the prefetch record changed, in canonical form. -/
theorem Access.ofMem {s t : State} (h : t = { s with mem := t.mem, prefetch := t.prefetch, events := t.events })
    (hw : s.mem.wf = true → t.mem.wf = true) : Access s t := by
  refine ⟨?_, hw, ?_⟩
  · rw [h]; rfl
  · exact .of_eq (by rw [h])

/-- Only the model's own fields changed. -/
theorem Access.ofOwn {s t : State} (h : t = { s with events := t.events, free := t.free }) : Access s t := by
  refine ⟨?_, ?_, .of_eq ?_⟩ <;> rw [h]
  · rfl
  · exact id

theorem Access.writeByte (s : State) (a : Word32) (v : Byte) : Access s (s.writeByte a v) :=
  .ofMem rfl fun h => State.writeByte_wf h a v

theorem Access.writeBytes : ∀ (l : List (Word32 × Byte)) (s : State),
    Access s (l.foldl (fun t c => t.writeByte c.1 c.2) s)
  | [], s => Access.order.refl s
  | c :: rest, s => Access.order.trans (Access.writeByte s c.1 c.2) (Access.writeBytes rest _)

theorem Access.masterByte (s : State) (c : Word32 × Byte) : Access s (s.masterByte c) := by
  unfold State.masterByte
  split
  · exact Access.writeByte s _ _
  all_goals exact Access.order.refl s

theorem Access.masterBytes : ∀ (l : List (Word32 × Byte)) (s : State), Access s (l.foldl State.masterByte s)
  | [], s => Access.order.refl s
  | c :: rest, s => Access.order.trans (Access.masterByte s c) (Access.masterBytes rest _)

/-- What other bus masters do before a bus cycle. -/
theorem Access.cycle (s : State) : Access s s.cycle := by
  unfold State.cycle
  split
  · exact Access.order.refl s
  · rename_i lock
    split
    · exact Access.order.refl s
    · rename_i cells rest e
      refine Access.order.trans (t := { s with masters := rest }) ⟨rfl, id, ?_, fun l => absurd l lock⟩ (Access.masterBytes _ _)
      rw [e]; exact List.suffix_cons _ _

theorem masterBytes_rest : ∀ (l : List (Word32 × Byte)) (s : State),
    l.foldl State.masterByte s =
      { s with mem := (l.foldl State.masterByte s).mem, prefetch := (l.foldl State.masterByte s).prefetch }
  | [], _ => rfl
  | c :: rest, s => by
    rw [List.foldl_cons, masterBytes_rest rest]
    unfold State.masterByte
    split <;> rfl

/-- What other bus masters do before a bus cycle changes memory and the prefetch record, and what is still to come. -/
theorem State.cycle_rest (s : State) :
    s.cycle = { s with mem := s.cycle.mem, prefetch := s.cycle.prefetch, masters := s.cycle.masters } := by
  unfold State.cycle
  split
  · rfl
  · split
    · rfl
    · rw [masterBytes_rest]

@[simp] theorem State.cycle_tlb (s : State) : s.cycle.tlb = s.tlb := by rw [State.cycle_rest]
@[simp] theorem State.cycle_cr2 (s : State) : s.cycle.cr2 = s.cr2 := by rw [State.cycle_rest]
@[simp] theorem State.cycle_plat (s : State) : s.cycle.plat = s.plat := by rw [State.cycle_rest]

theorem Access.writeRun (s : State) (p : List (Word32 × Byte)) : Access s (s.writeRun p) := by
  rcases s.writeRun_cases p with e | ⟨ev, e⟩ <;> rw [e]
  · exact Access.writeBytes _ _
  · exact .ofOwn rfl

theorem Access.writeRuns : ∀ (l : List (List (Word32 × Byte))) (s : State), Access s (l.foldl State.writeRun s)
  | [], s => Access.order.refl s
  | r :: rest, s => Access.order.trans (Access.writeRun s r) (Access.writeRuns rest _)

theorem Access.writePiece (s : State) (p : List (Word32 × Byte)) : Access s (s.writePiece p) :=
  Access.order.trans (Access.cycle s) (Access.writeRuns _ _)

theorem draw_access : Keeps Access draw := ⟨fun _ => .ofOwn rfl⟩
theorem drawTlb_access : Keeps Access drawTlb := ⟨fun _ => .ofOwn rfl⟩
theorem drawPrefetch_access : Keeps Access drawPrefetch := ⟨fun _ => .ofOwn rfl⟩
theorem drawSplit_access : Keeps Access drawSplit := ⟨fun _ => .ofOwn rfl⟩
theorem getReg_access (w : Width) (r : Reg) : Keeps Access (getReg w r) := ⟨fun s => Access.order.refl s⟩

theorem busCycle_access : Keeps Access busCycle := .modify Access.cycle

theorem readRun_access (p : List Word32) : Keeps Access (readRun p) := by
  unfold readRun
  refine Keeps.bind Access.order (Keeps.get Access.order) fun s => ?_
  cases p with
  | nil => exact Keeps.pure Access.order _
  | cons a rest =>
    dsimp only
    split
    · exact Keeps.pure Access.order _
    · exact Keeps.pure Access.order _
    · exact Keeps.bind Access.order draw_access fun _ => Keeps.pure Access.order _
    · exact Keeps.bind Access.order draw_access fun _ =>
        Keeps.bind Access.order (Keeps.modify fun _ => .ofOwn rfl) fun _ => Keeps.pure Access.order _

theorem readRuns_access : ∀ rs : List (List Word32), Keeps Access (readRuns rs)
  | [] => Keeps.pure Access.order _
  | r :: rest =>
    Keeps.bind Access.order (readRun_access r) fun _ =>
      Keeps.bind Access.order (readRuns_access rest) fun _ => Keeps.pure Access.order _

theorem readPiece_access (p : List Word32) : Keeps Access (readPiece p) :=
  Keeps.bind Access.order busCycle_access fun _ =>
    Keeps.bind Access.order (Keeps.get Access.order) fun _ => readRuns_access _

theorem secondFirst_access (pas : List Word32) : Keeps Access (secondFirst pas) := by
  unfold secondFirst
  refine Keeps.bind Access.order (Keeps.get Access.order) fun s => ?_
  split
  · exact drawSplit_access
  · exact Keeps.pure Access.order _

theorem physRead_access (pas : List Word32) : Keeps Access (physRead pas) := by
  unfold physRead
  repeat' first
    | split
    | exact readPiece_access _
    | exact secondFirst_access _
    | exact Keeps.pure Access.order _
    | apply Keeps.bind Access.order
    | intro _
    | dsimp only

theorem physWrite_access (cells : List (Word32 × Byte)) : Keeps Access (physWrite cells) := by
  unfold physWrite
  repeat' first
    | split
    | exact secondFirst_access _
    | exact Keeps.pure Access.order _
    | exact Keeps.modify fun s => Access.writePiece s _
    | exact Keeps.modify fun s => Access.order.trans (Access.writePiece s _) (Access.writePiece _ _)
    | apply Keeps.bind Access.order
    | intro _
    | dsimp only

theorem memRead32_access (pa : Word32) : Keeps Access (memRead32 pa) :=
  Keeps.bind Access.order (physRead_access _) fun _ => Keeps.pure Access.order _

/-- What is done from the state with LOCK# asserted, LOCK# then as before. -/
theorem Access.unlock {s t : State} (h : Access s.lockBus t) : Access s { t with busLock := s.busLock } := by
  obtain ⟨h1, h2, h3, h4⟩ := h
  obtain ⟨c1, c2, c3, c4⟩ := Access.cycle s
  refine ⟨?_, h2 ∘ c2, h3.trans c3, fun l => (h4 rfl).trans (c4 l)⟩
  have h1 : t = State.rollback { s.cycle with busLock := true } t := h1
  rw [h1, c1]; rfl

/-- In a locked sequence other bus masters write before its first bus cycle and not again. -/
theorem Access.unlock_masters {s t : State} (h : Access s.lockBus t) : t.masters = s.cycle.masters := h.2.2.2 rfl

/-- A locked sequence of accesses is an access. -/
theorem locked_access {α : Type} {m : M α} (hm : Keeps Access m) : Keeps Access (locked m) := ⟨fun s => by
  have h := hm.run s.lockBus
  unfold locked
  cases e : m s.lockBus <;> rw [e] at h <;> exact h.unlock⟩

theorem lockedUpdate_access (pas : List Word32) (f : Word32 → Word32) : Keeps Access (lockedUpdate pas f) :=
  locked_access <| Keeps.bind Access.order (physRead_access _) fun _ =>
    Keeps.bind Access.order (physWrite_access _) fun _ => Keeps.pure Access.order _

theorem pageFault_access {α : Type} (la : Word32) (p w u : Bool) : Keeps Access (pageFault la p w u : M α) :=
  Keeps.bind Access.order (Keeps.modify fun _ => ⟨rfl, id, .of_eq rfl⟩) fun _ => Keeps.raise Access.order _

theorem setEntryBits_access (a e b : Word32) : Keeps Access (setEntryBits a e b) := by
  unfold setEntryBits
  split
  · exact Keeps.pure Access.order _
  · exact Keeps.bind Access.order (lockedUpdate_access _ _) fun _ => Keeps.pure Access.order _

theorem recordWalk_access (la pa pde ta pte : Word32) (u w wr : Bool) :
    Keeps Access (recordWalk la pa pde ta pte u w wr) :=
  Keeps.bind Access.order (setEntryBits_access _ _ _) fun _ =>
    Keeps.bind Access.order (setEntryBits_access _ _ _) fun _ => Keeps.modify fun _ => ⟨rfl, id, .of_eq rfl⟩

theorem walk_access (la : Word32) (w u c : Bool) : Keeps Access (walk la w u c) := by
  unfold walk
  repeat' first
    | exact Keeps.get Access.order
    | exact memRead32_access _
    | exact pageFault_access _ _ _ _
    | exact recordWalk_access _ _ _ _ _ _ _ _
    | exact Keeps.pure Access.order _
    | apply Keeps.bind Access.order
    | intro _
    | dsimp only
    | split

theorem useEntry_access (e : TlbEntry) (la : Word32) (w u c : Bool) : Keeps Access (useEntry e la w u c) := by
  unfold useEntry
  repeat' first
    | exact pageFault_access _ _ _ _
    | exact walk_access _ _ _ _
    | exact Keeps.pure Access.order _
    | apply Keeps.bind Access.order
    | intro _
    | dsimp only
    | split

theorem translate_access (la : Word32) (w u c : Bool) : Keeps Access (translate la w u c) := by
  unfold translate
  repeat' first
    | exact Keeps.get Access.order
    | exact drawTlb_access
    | exact walk_access _ _ _ _
    | exact useEntry_access _ _ _ _ _
    | apply Keeps.bind Access.order
    | intro _
    | dsimp only
    | split

theorem linResolve_access (la : Word32) (n : Nat) (w u c : Bool) : Keeps Access (linResolve la n w u c) := by
  unfold linResolve
  repeat' first
    | exact Keeps.get Access.order
    | exact translate_access _ _ _ _
    | exact Keeps.pure Access.order _
    | apply Keeps.bind Access.order
    | intro _
    | dsimp only
    | split

theorem linRead_access (w : Width) (la : Word32) (u : Bool) : Keeps Access (linRead w la u) :=
  Keeps.bind Access.order (linResolve_access _ _ _ _ _) fun _ =>
    Keeps.bind Access.order (physRead_access _) fun _ => Keeps.pure Access.order _

theorem linWrite_access (w : Width) (la : Word32) (v : Val w) (u : Bool) : Keeps Access (linWrite w la v u) :=
  Keeps.bind Access.order (linResolve_access _ _ _ _ _) fun _ => physWrite_access _

theorem segCheck_access (r : SReg) (off : Word32) (n : Nat) (w : Bool) : Keeps Access (segCheck r off n w) :=
  Keeps.bind Access.order (Keeps.get Access.order) fun _ =>
    Keeps.bind Access.order (Keeps.require Access.order _ _) fun _ =>
      Keeps.bind Access.order (Keeps.require Access.order _ _) fun _ => Keeps.pure Access.order _

theorem segResolveAs_access (user : Bool) (r : SReg) (off : Word32) (n : Nat) (w c : Bool) :
    Keeps Access (segResolveAs user r off n w c) :=
  Keeps.bind Access.order (segCheck_access _ _ _ _) fun _ => linResolve_access _ _ _ _ _

theorem segResolve_access (r : SReg) (off : Word32) (n : Nat) (w c : Bool) : Keeps Access (segResolve r off n w c) :=
  Keeps.bind Access.order (Keeps.get Access.order) fun _ => segResolveAs_access _ _ _ _ _ _

theorem segRead_access (w : Width) (r : SReg) (off : Word32) : Keeps Access (segRead w r off) :=
  Keeps.bind Access.order (segResolve_access _ _ _ _ _) fun _ =>
    Keeps.bind Access.order (physRead_access _) fun _ => Keeps.pure Access.order _

theorem segWrite_access (w : Width) (r : SReg) (off : Word32) (v : Val w) : Keeps Access (segWrite w r off v) :=
  Keeps.bind Access.order (segResolve_access _ _ _ _ _) fun _ => physWrite_access _

theorem stackRead_access (w : Width) (k : Word32) : Keeps Access (stackRead w k) :=
  Keeps.bind Access.order (Keeps.get Access.order) fun _ => segRead_access _ _ _

theorem memLoc_access (w : Width) (r : SReg) (off : Word32) (wr c : Bool) : Keeps Access (memLoc w r off wr c) :=
  Keeps.bind Access.order (segResolve_access _ _ _ _ _) fun _ => Keeps.pure Access.order _

/-- Finding an operand changes nothing but what an access changes. -/
theorem locate_access (w : Width) (rm : RM) (wr c : Bool) : Keeps Access (locate w rm wr c) := by
  unfold locate
  split
  · exact Keeps.pure Access.order _
  · exact Keeps.bind Access.order (Keeps.get Access.order) fun _ => memLoc_access _ _ _ _ _

theorem readLoc_access (w : Width) (l : Loc) : Keeps Access (readLoc w l) := by
  unfold readLoc
  split
  · exact getReg_access _ _
  · exact Keeps.bind Access.order (physRead_access _) fun _ => Keeps.pure Access.order _

/-- Reading an operand changes nothing but what an access changes. -/
theorem readRM_access (w : Width) (rm : RM) : Keeps Access (readRM w rm) :=
  Keeps.bind Access.order (locate_access _ _ _ _) fun _ => readLoc_access _ _

theorem readPair_access (la : Word32) : Keeps Access (readPair la) :=
  Keeps.bind Access.order (linRead_access _ _ _) fun _ =>
    Keeps.bind Access.order (linRead_access _ _ _) fun _ => Keeps.pure Access.order _

theorem findDesc_access (sel : Word16) : Keeps Access (findDesc sel) := by
  unfold findDesc
  repeat' first
    | exact Keeps.get Access.order
    | exact readPair_access _
    | exact Keeps.pure Access.order _
    | apply Keeps.bind Access.order
    | intro _
    | dsimp only
    | split

/-- Reading a descriptor changes nothing but what an access changes. -/
theorem readDesc_access (sel : Word16) (e : Exn) : Keeps Access (readDesc sel e) := by
  unfold readDesc
  refine Keeps.bind Access.order (Keeps.get Access.order) fun _ =>
    Keeps.bind Access.order (Keeps.require Access.order _ _) fun _ => Keeps.bind Access.order (findDesc_access _) fun d => ?_
  cases d with
  | none => exact Keeps.raise Access.order _
  | some d => exact Keeps.pure Access.order _

theorem updateDescHi_access (sel : Word16) (f : Word32 → Word32) : Keeps Access (updateDescHi sel f) := by
  unfold updateDescHi
  repeat' first
    | exact Keeps.get Access.order
    | exact linResolve_access _ _ _ _ _
    | exact lockedUpdate_access _ _
    | exact Keeps.pure Access.order _
    | apply Keeps.bind Access.order
    | intro _
    | dsimp only
    | split

theorem setAccessed_access (sel : Word16) (d : Desc) : Keeps Access (setAccessed sel d) := by
  unfold setAccessed
  split
  · exact Keeps.pure Access.order _
  · exact Keeps.bind Access.order (updateDescHi_access _ _) fun _ => Keeps.pure Access.order _

theorem setBusy_access (sel : Word16) (e : Exn) : Keeps Access (setBusy sel e) :=
  Keeps.bind Access.order (updateDescHi_access _ _) fun _ => Keeps.require Access.order _ _

theorem clearBusy_access (sel : Word16) : Keeps Access (clearBusy sel) :=
  Keeps.bind Access.order (updateDescHi_access _ _) fun _ => Keeps.pure Access.order _

/-- Finding the inner stack changes nothing but what an access changes. -/
theorem innerStack_access (l : BitVec 2) : Keeps Access (innerStack l) := by
  unfold innerStack
  repeat' first
    | exact Keeps.get Access.order
    | exact Keeps.require Access.order _ _
    | exact linRead_access _ _ _
    | exact readDesc_access _ _
    | exact Keeps.pure Access.order _
    | apply Keeps.bind Access.order
    | intro _
    | dsimp only

theorem probePushesAs_access (user : Bool) (w : Width) : ∀ k, Keeps Access (probePushesAs user w k)
  | 0 => Keeps.pure Access.order _
  | k + 1 =>
    Keeps.bind Access.order (probePushesAs_access user w k) fun _ =>
      Keeps.bind Access.order (Keeps.get Access.order) fun _ =>
        Keeps.bind Access.order (segResolveAs_access _ _ _ _ _ _) fun _ => Keeps.pure Access.order _

theorem probePushes_access (w : Width) (k : Nat) : Keeps Access (probePushes w k) :=
  Keeps.bind Access.order (Keeps.get Access.order) fun _ => probePushesAs_access _ _ _

theorem checkReturnCode_access (sel : Word16) : Keeps Access (checkReturnCode sel) := by
  unfold checkReturnCode
  repeat' first
    | exact Keeps.get Access.order
    | exact Keeps.require Access.order _ _
    | exact readDesc_access _ _
    | exact Keeps.pure Access.order _
    | apply Keeps.bind Access.order
    | intro _
    | dsimp only

theorem checkReturnStack_access (sel : Word16) (l : BitVec 2) : Keeps Access (checkReturnStack sel l) := by
  unfold checkReturnStack
  repeat' first
    | exact Keeps.require Access.order _ _
    | exact readDesc_access _ _
    | exact Keeps.pure Access.order _
    | apply Keeps.bind Access.order
    | intro _
    | dsimp only

theorem checkTss_access (sel : Word16) (k : TaskKind) : Keeps Access (checkTss sel k) := by
  unfold checkTss
  repeat' first
    | exact Keeps.require Access.order _ _
    | exact Keeps.refuse Access.order _
    | exact readDesc_access _ _
    | exact Keeps.pure Access.order _
    | apply Keeps.bind Access.order
    | intro _
    | dsimp only
    | split

theorem writeFields_access (base : Word32) : ∀ fields : List (Word32 × Word32), Keeps Access (writeFields base fields)
  | [] => Keeps.pure Access.order _
  | _ :: rest => Keeps.bind Access.order (linWrite_access _ _ _ _) fun _ => writeFields_access base rest

theorem readFields_access (base : Word32) : ∀ offs : List Word32, Keeps Access (readFields base offs)
  | [] => Keeps.pure Access.order _
  | _ :: rest =>
    Keeps.bind Access.order (linRead_access _ _ _) fun _ =>
      Keeps.bind Access.order (readFields_access base rest) fun _ => Keeps.pure Access.order _

theorem probeBusy_access (sel : Word16) : Keeps Access (probeBusy sel) := by
  unfold probeBusy
  refine Keeps.bind Access.order (Keeps.get Access.order) fun s => ?_
  split
  · exact Keeps.bind Access.order (linResolve_access _ _ _ _ _) fun _ => Keeps.pure Access.order _
  · exact Keeps.pure Access.order _

theorem probeFields_access (base : Word32) : ∀ offs : List Word32, Keeps Access (probeFields base offs)
  | [] => Keeps.pure Access.order _
  | _ :: rest => Keeps.bind Access.order (linResolve_access _ _ _ _ _) fun _ => probeFields_access base rest

theorem saveTask_access (k : TaskKind) (ret : Word32) : Keeps Access (saveTask k ret) := by
  unfold saveTask
  repeat' first
    | exact Keeps.get Access.order
    | exact probeFields_access _ _
    | exact probeBusy_access _
    | exact clearBusy_access _
    | exact writeFields_access _ _
    | exact Keeps.pure Access.order _
    | apply Keeps.bind Access.order
    | intro _
    | dsimp only
    | split

theorem taskDataDesc_access (sel : Word16) : Keeps Access (taskDataDesc sel) := by
  unfold taskDataDesc
  repeat' first
    | exact readDesc_access _ _
    | exact Keeps.pure Access.order _
    | apply Keeps.bind Access.order
    | intro _
    | dsimp only
    | split

theorem taskDataTest_access (d : Option Desc) (ok : Desc → Bool) (e : Exn) : Keeps Access (taskDataTest d ok e) := by
  unfold taskDataTest
  split
  · exact Keeps.require Access.order _ _
  · exact Keeps.pure Access.order _

end Sys2Proof.Machine
end

