-- ==== Sys2Proof/Laws/Invariant.lean ====
section
/-! SUPPORT. Invariant.lean: that the shared operations keep `State.Inv`, and that what needs protected mode does not leave
it. -/

namespace Sys2Proof.Machine

/-- The invariant is kept and, where `q` says that the action runs in protected mode, so is the mode. -/
def Guard (q : Bool) (s t : State) : Prop :=
  (s.Inv ∧ (q = true → s.cr0.pe = true)) → (t.Inv ∧ (q = true → t.cr0.pe = true))

theorem Guard.order (q : Bool) : Order (Guard q) := Order.of_invariant fun s => s.Inv ∧ (q = true → s.cr0.pe = true)

/-- A state that differs in no field of the invariant but memory, and whose memory is in canonical form. -/
theorem Guard.of_eq {q : Bool} {s t : State} (mem : s.mem.wf = true → t.mem.wf = true) (cr0 : t.cr0 = s.cr0)
    (cpl : t.cpl = s.cpl) (vm : t.flags.vm = s.flags.vm) (cr3 : t.cr3 = s.cr3) : Guard q s t := fun ⟨h, k⟩ => by
  obtain ⟨h1, h2, h3, h4, h5⟩ := h
  exact ⟨⟨mem h1, by rw [cr0, cpl]; exact h2, by rw [vm]; exact h3, by rw [cr0]; exact h4, by rw [cr3]; exact h5⟩,
    by rw [cr0]; exact k⟩

theorem Access.guard {q : Bool} {s t : State} (h : Access s t) : Guard q s t :=
  .of_eq h.2.1 (by rw [h.1]; rfl) (by rw [h.1]; rfl) (by rw [h.1]; rfl) (by rw [h.1]; rfl)

/-- What protected mode keeps is kept. -/
theorem Guard.of_prot {q : Bool} {s t : State} (pe : s.cr0.pe = true) (h : Guard true s t) : Guard q s t :=
  fun k => ⟨(h ⟨k.1, fun _ => pe⟩).1, fun _ => (h ⟨k.1, fun _ => pe⟩).2 rfl⟩

section
variable {q : Bool} {α : Type}

theorem Keeps.guard {m : M α} (h : Keeps Access m) : Keeps (Guard q) m := h.mono fun _ _ => Access.guard

/-- A change of fields the invariant does not speak of. -/
theorem modify_guard {f : State → State} (mem : ∀ s, (f s).mem = s.mem) (cr0 : ∀ s, (f s).cr0 = s.cr0)
    (cpl : ∀ s, (f s).cpl = s.cpl) (vm : ∀ s, (f s).flags.vm = s.flags.vm) (cr3 : ∀ s, (f s).cr3 = s.cr3) :
    Keeps (Guard q) (modify f : M Unit) :=
  .modify fun s => .of_eq (by rw [mem]; exact id) (cr0 s) (cpl s) (vm s) (cr3 s)

theorem setReg_guard (w : Width) (r : Reg) (v : Val w) : Keeps (Guard q) (setReg w r v) :=
  ⟨fun _ => .of_eq id rfl rfl rfl rfl⟩

theorem setFlags_guard {f : Flags → Flags} (vm : ∀ g, (f g).vm = g.vm) : Keeps (Guard q) (setFlags f) :=
  ⟨fun s => .of_eq id rfl rfl (vm s.flags) rfl⟩

theorem jump_guard (t : Word32) : Keeps (Guard q) (jump t) := ⟨fun _ => .of_eq id rfl rfl rfl rfl⟩

theorem setEffect_guard (e : FlagEffect) : Keeps (Guard q) (setEffect e) :=
  .bind (Guard.order q) draw_access.guard fun _ => setFlags_guard fun _ => rfl

theorem writeLoc_guard (w : Width) (l : Loc) (v : Val w) : Keeps (Guard q) (writeLoc w l v) := by
  cases l with
  | reg r => exact setReg_guard w r v
  | mem pas => exact (physWrite_access _).guard

theorem writeRM_guard (w : Width) (rm : RM) (v : Val w) : Keeps (Guard q) (writeRM w rm v) :=
  .bind (Guard.order q) (locate_access _ _ _ _).guard fun _ => writeLoc_guard _ _ _

theorem pushAs_guard (user : Bool) (w : Width) (v : Val w) : Keeps (Guard q) (pushAs user w v) :=
  .bind (Guard.order q) (.get (Guard.order q)) fun _ =>
    .bind (Guard.order q) (segResolveAs_access _ _ _ _ _ _).guard fun _ =>
      .bind (Guard.order q) (physWrite_access _).guard fun _ =>
        modify_guard (fun _ => rfl) (fun _ => rfl) (fun _ => rfl) (fun _ => rfl) fun _ => rfl

theorem push_guard (w : Width) (v : Val w) : Keeps (Guard q) (push w v) :=
  .bind (Guard.order q) (.get (Guard.order q)) fun _ => pushAs_guard _ _ _

theorem pushSystem_guard (w : Width) (v : Val w) : Keeps (Guard q) (pushSystem w v) := pushAs_guard _ _ _

/-- An operation that a fault may leave part-way. -/
theorem partway_guard {m : M Unit} (hm : Keeps (Guard q) m) : Keeps (Guard q) (partway m) :=
  .bind (Guard.order q) (modify_guard (fun _ => rfl) (fun _ => rfl) (fun _ => rfl) (fun _ => rfl) fun _ => rfl) fun _ =>
    .bind (Guard.order q) hm fun _ =>
      modify_guard (fun _ => rfl) (fun _ => rfl) (fun _ => rfl) (fun _ => rfl) fun _ => rfl

/-- LOCK# is no part of the invariant. -/
theorem locked_guard {α : Type} {m : M α} (hm : Keeps (Guard q) m) : Keeps (Guard q) (locked m) := ⟨fun s => by
  have o := Guard.order q
  have h := o.trans (o.trans (Access.cycle s).guard (.of_eq id rfl rfl rfl rfl)) (hm.run s.lockBus)
  unfold locked
  cases e : m s.lockBus <;> rw [e] at h <;> exact o.trans h (.of_eq id rfl rfl rfl rfl)⟩

theorem lockedIf_guard {α : Type} {m : M α} (c : Bool) (hm : Keeps (Guard q) m) : Keeps (Guard q) (lockedIf c m) := by
  cases c
  · exact hm
  · exact locked_guard hm

theorem pop_guard (w : Width) : Keeps (Guard q) (pop w) :=
  .bind (Guard.order q) (stackRead_access _ _).guard fun _ =>
    .bind (Guard.order q) (modify_guard (fun _ => rfl) (fun _ => rfl) (fun _ => rfl) (fun _ => rfl) fun _ => rfl) fun _ =>
      .pure (Guard.order q) _

theorem pushAll_guard (w : Width) : ∀ vs : List (Val w), Keeps (Guard q) (pushAll w vs)
  | [] => .pure (Guard.order q) _
  | _ :: rest => .bind (Guard.order q) (push_guard _ _) fun _ => pushAll_guard w rest

theorem pushAllSystem_guard : ∀ vs : List Word32, Keeps (Guard q) (pushAllSystem vs)
  | [] => .pure (Guard.order q) _
  | _ :: rest => .bind (Guard.order q) (pushSystem_guard _ _) fun _ => pushAllSystem_guard rest

/-! ## Segment registers -/

/-- A state with a segment register replaced. -/
theorem Guard.setSeg (s : State) (r : SReg) (g : Seg) : Guard q s (s.setSeg r g) := by
  cases r <;> exact .of_eq id rfl rfl rfl rfl

theorem installSeg_guard (r : SReg) (sel : Word16) (d : Desc) : Keeps (Guard q) (installSeg r sel d) :=
  .bind (Guard.order q) (setAccessed_access _ _).guard fun _ => .modify fun s => Guard.setSeg s r _

theorem loadRealSeg_guard (r : SReg) (sel : Word16) : Keeps (Guard q) (loadRealSeg r sel) :=
  .modify fun s => Guard.setSeg s r _

theorem loadSS_guard (sel : Word16) : Keeps (Guard q) (loadSS sel) := by
  unfold loadSS
  repeat' with_reducible first
    | exact Keeps.get (Guard.order q)
    | exact Keeps.require (Guard.order q) _ _
    | exact (readDesc_access _ _).guard
    | exact installSeg_guard _ _ _
    | apply Keeps.bind (Guard.order q)
    | intro _

theorem loadData_guard (r : SReg) (sel : Word16) : Keeps (Guard q) (loadData r sel) := by
  unfold loadData
  repeat' with_reducible first
    | exact Keeps.get (Guard.order q)
    | exact Keeps.require (Guard.order q) _ _
    | exact (readDesc_access _ _).guard
    | exact installSeg_guard _ _ _
    | exact Keeps.modify fun s => Guard.setSeg s r _
    | apply Keeps.bind (Guard.order q)
    | apply Keeps.ite
    | intro _

theorem loadSeg_guard (r : SReg) (sel : Word16) : Keeps (Guard q) (loadSeg r sel) :=
  .bind (Guard.order q) (.get (Guard.order q)) fun _ =>
    .ite (loadRealSeg_guard _ _) (.ite (loadSS_guard _) (loadData_guard _ _))

theorem enterCode_guard (sel : Word16) (d : Desc) (off : Word32) : Keeps (Guard q) (enterCode sel d off) :=
  .bind (Guard.order q) (setAccessed_access _ _).guard fun _ =>
    .bind (Guard.order q) (.modify fun _ => .of_eq id rfl rfl rfl rfl) fun _ => jump_guard _

theorem enterRealCode_guard (sel : Word16) (off : Word32) : Keeps (Guard q) (enterRealCode sel off) :=
  .bind (Guard.order q) (loadRealSeg_guard _ _) fun _ => jump_guard _

/-- In protected mode CPL is free. -/
theorem Guard.of_cpl {s t : State} (mem : t.mem = s.mem) (cr0 : t.cr0 = s.cr0)
    (vm : t.flags.vm = s.flags.vm) (cr3 : t.cr3 = s.cr3) : Guard true s t := fun ⟨h, k⟩ => by
  obtain ⟨h1, _, h3, h4, h5⟩ := h
  have pe : t.cr0.pe = true := by rw [cr0]; exact k rfl
  exact ⟨⟨by rw [mem]; exact h1, fun e => (by rw [pe] at e; cases e), by rw [vm]; exact h3, fun _ => pe,
    by rw [cr3]; exact h5⟩, fun _ => pe⟩

theorem enterInner_guard (l : BitVec 2) (nss : Word16) (nesp : Word32) (d : Desc) :
    Keeps (Guard true) (enterInner l nss nesp d) :=
  .bind (Guard.order true) (installSeg_guard _ _ _) fun _ => .modify fun _ => .of_cpl rfl rfl rfl rfl

theorem returnCode_guard (sel : Word16) (d : Desc) (off : Word32) : Keeps (Guard true) (returnCode sel d off) :=
  .bind (Guard.order true) (setAccessed_access _ _).guard fun _ =>
    .bind (Guard.order true) (.modify fun _ => .of_cpl rfl rfl rfl rfl) fun _ => jump_guard _

theorem leaveInner_guard (nss : Word16) (d : Desc) (esp : Word32) : Keeps (Guard q) (leaveInner nss d esp) :=
  .bind (Guard.order q) (installSeg_guard _ _ _) fun _ =>
    .bind (Guard.order q) (.modify fun _ => .of_eq id rfl rfl rfl rfl) fun _ =>
      .modify fun _ => .of_eq id rfl rfl rfl rfl

/-! ## Task switches -/

theorem commitTask_guard (sel : Word16) (d : Desc) (k : TaskKind) : Keeps (Guard true) (commitTask sel d k) := by
  have task : Keeps (Guard true) (modify fun s => { s with cr0 := { s.cr0 with ts := true } } : M Unit) := .modify fun s => by
    rintro ⟨⟨h1, h2, h3, h4, h5⟩, pe⟩
    exact ⟨⟨h1, h2, h3, h4, h5⟩, pe⟩
  refine .bind (Guard.order true) (.modify fun _ => .of_eq id rfl rfl rfl rfl) fun _ => ?_
  split
  · exact task
  · exact .bind (Guard.order true) (setBusy_access _ _).guard fun _ => task

theorem loadTaskCr3_guard (v : Word32) : Keeps (Guard q) (loadTaskCr3 v) := by
  refine .modify fun s => ?_
  rintro ⟨⟨h1, h2, h3, h4, _⟩, k⟩
  refine ⟨⟨h1, h2, h3, h4, ?_⟩, k⟩
  show (v &&& 0xFFFFF000).extractLsb' 0 12 = 0
  rw [BitVec.extractLsb'_and]
  simp

theorem loadTaskLdt_guard (sel : Word16) : Keeps (Guard q) (loadTaskLdt sel) := by
  unfold loadTaskLdt
  repeat' with_reducible first
    | exact Keeps.pure (Guard.order q) _
    | exact Keeps.require (Guard.order q) _ _
    | exact (readDesc_access _ _).guard
    | exact Keeps.modify fun _ => .of_eq id rfl rfl rfl rfl
    | apply Keeps.bind (Guard.order q)
    | apply Keeps.ite
    | intro _

theorem loadTaskCode_guard (sel : Word16) : Keeps (Guard q) (loadTaskCode sel) := by
  unfold loadTaskCode
  repeat' with_reducible first
    | exact Keeps.require (Guard.order q) _ _
    | exact (readDesc_access _ _).guard
    | exact installSeg_guard _ _ _
    | apply Keeps.bind (Guard.order q)
    | intro _

theorem loadTaskStack_guard (sel : Word16) : Keeps (Guard q) (loadTaskStack sel) := by
  unfold loadTaskStack
  repeat' with_reducible first
    | exact Keeps.get (Guard.order q)
    | exact Keeps.require (Guard.order q) _ _
    | exact (readDesc_access _ _).guard
    | exact installSeg_guard _ _ _
    | apply Keeps.bind (Guard.order q)
    | intro _

theorem installTaskData_guard (r : SReg) (sel : Word16) (d : Option Desc) :
    Keeps (Guard q) (installTaskData r sel d) := by
  cases d with
  | none => exact .pure (Guard.order q) _
  | some d => exact installSeg_guard _ _ _

theorem loadTaskData_guard (ds es fs gs : Word16) : Keeps (Guard q) (loadTaskData ds es fs gs) := by
  unfold loadTaskData
  repeat' with_reducible first
    | exact Keeps.get (Guard.order q)
    | exact (taskDataDesc_access _).guard
    | exact (taskDataTest_access _ _ _).guard
    | exact installTaskData_guard _ _ _
    | apply Keeps.bind (Guard.order q)
    | intro _

/-- The registers of an incoming task whose EFLAGS has VM clear. -/
theorem Guard.withTask (s : State) (k : TaskKind) (f : Nat → Word32) (vm : (f 1).getLsbD 17 = false) :
    Guard true s (s.withTask k f) := by
  rintro ⟨⟨h1, _, _, _, h5⟩, pe⟩
  refine ⟨⟨h1, fun e => ?_, vm, fun _ => pe rfl, h5⟩, pe⟩
  have e : s.cr0.pe = false := e
  rw [pe rfl] at e; cases e

theorem taskSwitch_guard (sel : Word16) (k : TaskKind) (ret : Word32) : Keeps (Guard true) (taskSwitch sel k ret) := by
  unfold taskSwitch
  refine .bind (Guard.order true) (checkTss_access _ _).guard fun d => ?_
  refine .bind (Guard.order true) (.get (Guard.order true)) fun old => ?_
  refine .bind (Guard.order true) (saveTask_access _ _).guard fun _ => ?_
  refine .bind (Guard.order true) (commitTask_guard _ _ _) fun _ => ?_
  refine .bind (Guard.order true) (readFields_access _ _).guard fun img => ?_
  extract_lets f
  split
  all_goals try refine .bind (Guard.order true) (linWrite_access _ _ _ _).guard fun _ => ?_
  all_goals
    refine .bind (Guard.order true) (loadTaskCr3_guard _) fun _ => ?_
    split
    · exact .bind' (Guard.order true) (.refuse (Guard.order true) _) fun a s t e => by cases e
    · rename_i vm
      have vm : (f 1).getLsbD 17 = false := by simpa using vm
      refine .bind (Guard.order true) (.modify fun s => Guard.withTask s k f vm) fun _ => ?_
      · repeat' with_reducible first
          | exact Keeps.pure (Guard.order true) _
          | exact (linRead_access _ _ _).guard
          | exact loadTaskLdt_guard _
          | exact loadTaskCode_guard _
          | exact loadTaskStack_guard _
          | exact loadTaskData_guard _ _ _ _
          | apply Keeps.bind (Guard.order true)
          | intro _

theorem finishTask_guard (t : Bool) : Keeps (Guard q) (finishTask t) := by
  unfold finishTask
  refine .bind (Guard.order q) (.get (Guard.order q)) fun _ => .bind (Guard.order q) (.require (Guard.order q) _ _) fun _ => ?_
  exact .ite (.modify fun _ => .of_eq id rfl rfl rfl rfl) (.pure (Guard.order q) _)

/-! ## Taking an exception -/

/-- A branch on the mode: the protected part keeps protected mode, the other keeps the invariant. -/
theorem ite_pe_guard {β : Type} {x y : State → M β} (hx : ∀ s, Keeps (Guard true) (x s))
    (hy : ∀ s, Keeps (Guard q) (y s)) : Keeps (Guard q) (do
      let s ← get
      if s.cr0.pe then x s else y s) := by
  refine Keeps.get_bind fun s => ?_
  split
  · rename_i pe; exact Guard.of_prot pe ((hx s).run s)
  · exact (hy s).run s

theorem pushCode_guard (c : ErrCode) : Keeps (Guard q) (pushCode c) :=
  .ite (.bind (Guard.order q) draw_access.guard fun _ => pushSystem_guard _ _) (.pure (Guard.order q) _)

theorem enterHandler_guard (g c : Desc) (e : Event) (old : State) : Keeps (Guard q) (enterHandler g c e old) := by
  unfold enterHandler
  repeat' with_reducible first
    | exact pushSystem_guard _ _
    | exact pushCode_guard _
    | exact enterCode_guard _ _ _
    | exact setFlags_guard fun _ => rfl
    | apply Keeps.bind (Guard.order q)
    | intro _

theorem deliverGate_guard (g : Desc) (e : Event) : Keeps (Guard true) (deliverGate g e) := by
  unfold deliverGate
  repeat' with_reducible first
    | exact Keeps.get (Guard.order true)
    | exact Keeps.require (Guard.order true) _ _
    | exact (readDesc_access _ _).guard
    | exact (innerStack_access _).guard
    | exact enterInner_guard _ _ _ _
    | exact (probePushesAs_access _ _ _).guard
    | exact pushSystem_guard _ _
    | exact enterHandler_guard _ _ _ _
    | apply partway_guard
    | apply Keeps.bind (Guard.order true)
    | split
    | intro _
    | dsimp only

theorem deliverTask_guard (g : Desc) (e : Event) : Keeps (Guard true) (deliverTask g e) :=
  .bind (Guard.order true) (taskSwitch_guard _ _ _) fun _ =>
    .bind (Guard.order true) (pushCode_guard _) fun _ => finishTask_guard _

theorem deliverProtected_guard (e : Event) : Keeps (Guard true) (deliverProtected e) := by
  unfold deliverProtected
  repeat' with_reducible first
    | exact Keeps.get (Guard.order true)
    | exact Keeps.require (Guard.order true) _ _
    | exact (readPair_access _).guard
    | exact Keeps.refuse (Guard.order true) _
    | exact deliverTask_guard _ _
    | exact deliverGate_guard _ _
    | apply Keeps.bind (Guard.order true)
    | split
    | intro _
    | dsimp only

theorem pushOrShutdown_guard (v : Word16) : Keeps (Guard q) (pushOrShutdown v) := ⟨fun s => by
  have h := (pushSystem_guard (q := q) .b16 v).run s
  unfold pushOrShutdown
  split <;> simp_all [after]⟩

theorem deliverReal_guard (e : Event) : Keeps (Guard q) (deliverReal e) := by
  unfold deliverReal
  repeat' with_reducible first
    | exact Keeps.get (Guard.order q)
    | exact Keeps.require (Guard.order q) _ _
    | exact pushOrShutdown_guard _
    | exact setFlags_guard fun _ => rfl
    | exact (linRead_access _ _ _).guard
    | exact enterRealCode_guard _ _
    | apply Keeps.bind (Guard.order q)
    | intro _
    | dsimp only

theorem deliverOnce_guard (e : Event) : Keeps (Guard q) (deliverOnce e) :=
  ite_pe_guard (fun _ => deliverProtected_guard e) fun _ => deliverReal_guard e

/-- The state a fault restarts from is as the one before, but for memory and the caches. -/
theorem Guard.rollback {s t : State} (h : Guard q s t) : Guard q s (s.rollback t) := fun k =>
  ⟨⟨(h k).1.1, k.1.2⟩, k.2⟩

/-- The state with which an exception is taken. -/
theorem Guard.resumeAt {s t : State} {r : Word32} (h : Guard q s t) : Guard q s (resumeAt s t r).1 := by
  unfold Sys2Proof.Machine.resumeAt
  split
  · exact (Guard.order q).trans h (.of_eq id rfl rfl rfl rfl)
  · split
    · exact (Guard.order q).trans h (.of_eq id rfl rfl rfl rfl)
    · exact h.rollback

/-- Delivering an event, whatever it runs into, keeps the invariant and the mode. -/
theorem deliverChain_guard : ∀ (fuel : Nat) (e : Event), Keeps (Guard q) (deliverChain fuel e)
  | 0, e => ⟨fun s => .of_eq id rfl rfl rfl rfl⟩
  | fuel + 1, e => ⟨fun s0 => by
    have o := Guard.order q
    unfold deliverChain
    extract_lets _ s
    have start : Guard q s0 s := .of_eq id rfl rfl rfl rfl
    clear_value s
    have once := (deliverOnce_guard (q := q) e).run s
    dsimp only
    cases h : deliverOnce e s with
    | ok a t => rw [h] at once; exact o.trans start once
    | error x t =>
      rw [h] at once
      cases x with
      | refuse r => exact o.trans start once
      | shutdown =>
        have back := o.trans start once.rollback
        exact o.trans back (.of_eq id rfl rfl rfl rfl)
      | exc x =>
        change Guard q s t at once
        have back := o.trans start (Guard.resumeAt (r := e.refault s e.ret) once)
        revert back
        dsimp only
        generalize resumeAt s t (e.refault s e.ret) = p
        obtain ⟨b, ret⟩ := p
        intro back
        dsimp only at back ⊢
        split
        · exact o.trans back (.of_eq id rfl rfl rfl rfl)
        · split
          · refine o.trans ?_ ((deliverChain_guard fuel _).run _)
            exact o.trans back (.of_eq id rfl rfl rfl rfl)
          · refine o.trans ?_ ((deliverChain_guard fuel _).run _)
            exact o.trans back (.of_eq id rfl rfl rfl rfl)⟩

theorem deliver_guard (e : Event) : Keeps (Guard q) (deliver e) := deliverChain_guard 6 e

/-- An instruction's fault, taken, keeps the invariant. -/
theorem takeFault_inv {base s t : State} {x : Exn} (hb : base.Inv) (hs : s.Inv) (h : takeFault base s x = .next t) :
    t.Inv := by
  have rb : (resumeAt base s base.cur.start).1.Inv := by
    unfold resumeAt
    split
    · exact hs
    · split
      · exact hs
      · exact ⟨hs.1, hb.2⟩
  unfold takeFault at h
  revert rb h
  generalize resumeAt base s base.cur.start = p
  obtain ⟨b, ret⟩ := p
  intro h rb
  dsimp only at h rb
  have d := (deliver_guard (q := false) (faultEvent x ret false)).run
    { b with cur := { b.cur with incomplete := true } } ⟨rb, fun e => by cases e⟩
  revert h
  cases e : deliver (faultEvent x ret false) { b with cur := { b.cur with incomplete := true } } with
  | ok a u => rw [e] at d; intro h; cases h; exact d.1
  | error y u =>
    rw [e] at d
    cases y <;> intro h <;> cases h
    · exact d.1
    · exact d.1

/-- An instruction whose meaning keeps the invariant keeps it, whatever it raises. -/
theorem run_inv {lockable : Bool} {m : M Unit} (hm : Keeps (Guard false) m) {s t : State} (hs : s.Inv)
    (h : run lockable m s = .next t) : t.Inv := by
  have o := Guard.order false
  have hb : Keeps (Guard false) (begin lockable m) :=
    .bind o (.get o) fun _ => .bind o (.require o _ _) fun _ =>
      .bind o (.modify fun _ => .of_eq id rfl rfl rfl rfl) fun _ => hm
  have r := hb.run s ⟨hs, fun e => by cases e⟩
  unfold run at h
  revert h
  cases e : begin lockable m s with
  | ok a u => rw [e] at r; intro h; cases h; exact r.1
  | error x u =>
    rw [e] at r
    cases x with
    | refuse _ => intro h; cases h
    | exc x => intro h; exact takeFault_inv hs r.1 h
    | shutdown => intro h; cases h; exact ⟨r.1.1, hs.2⟩

/-! ## Returning from one -/

theorem softInterrupt_guard (n : Byte) : Keeps (Guard q) (softInterrupt n) :=
  .bind (Guard.order q) (.get (Guard.order q)) fun _ => deliver_guard _

theorem iretReal_guard (w : Width) (sz : Size) : Keeps (Guard q) (iretReal w sz) := by
  unfold iretReal
  repeat' with_reducible first
    | exact Keeps.get (Guard.order q)
    | exact Keeps.require (Guard.order q) _ _
    | exact pop_guard _
    | exact setFlags_guard fun _ => rfl
    | exact enterRealCode_guard _ _
    | apply Keeps.bind (Guard.order q)
    | intro _
    | dsimp only

theorem iretTask_guard : Keeps (Guard true) iretTask :=
  .bind (Guard.order true) (.get (Guard.order true)) fun _ => .bind (Guard.order true) (linRead_access _ _ _).guard fun _ =>
    .bind (Guard.order true) (taskSwitch_guard _ _ _) fun _ => finishTask_guard _

theorem iretFrame_guard (w : Width) (sz : Size) : Keeps (Guard true) (iretFrame w sz) := by
  unfold iretFrame
  repeat' with_reducible first
    | exact Keeps.get (Guard.order true)
    | exact Keeps.require (Guard.order true) _ _
    | exact Keeps.refuse (Guard.order true) _
    | exact (stackRead_access _ _).guard
    | exact (checkReturnCode_access _).guard
    | exact (checkReturnStack_access _ _).guard
    | exact returnCode_guard _ _ _
    | exact leaveInner_guard _ _ _
    | exact setFlags_guard fun _ => rfl
    | exact Keeps.modify fun _ => .of_eq id rfl rfl rfl rfl
    | apply Keeps.bind (Guard.order true)
    | split
    | intro _
    | dsimp only

end

end Sys2Proof.Machine
end

