-- ==== Sys2Proof/Laws/Reading.lean ====
section
/-! SUPPORT. Reading.lean: what finding and reading an operand can change, and that with paging off it changes no
memory. -/

namespace Sys2Proof.Machine

/-- What other bus masters are about to write after an access, they were about to write before it. -/
theorem Access.outside {s t : State} (h : Access s t) {x : Nat} (k : t.outside x) : s.outside x := by
  obtain ⟨cells, hc, k⟩ := k
  exact ⟨cells, h.2.2.1.subset hc, k⟩

/-- With no other bus master about to write, none is about to write after an access. -/
theorem Access.quiet {s t : State} (h : Access s t) (q : s.masters = []) : t.masters = [] := by
  have := h.2.2.1
  rw [q] at this
  exact List.suffix_nil.mp this

/-- Nothing changes but what an access changes, and with paging off neither the TLB nor CR2, nor a byte of memory that no
other bus master is about to write. -/
def Reading (s t : State) : Prop :=
  Access s t ∧ (s.cr0.pg = false → t.tlb = s.tlb ∧ t.cr2 = s.cr2 ∧
    (s.mem.wf = true → ∀ x, ¬ s.outside x → t.mem.get x = s.mem.get x) ∧
    (s.masters = [] → t.mem = s.mem ∧ t.prefetch = s.prefetch))

theorem Reading.order : Order Reading where
  refl s := ⟨Access.order.refl s, fun _ => ⟨rfl, rfl, fun _ _ _ => rfl, fun _ => ⟨rfl, rfl⟩⟩⟩
  trans := by
    rintro s t u ⟨h1, h2⟩ ⟨h3, h4⟩
    refine ⟨Access.order.trans h1 h3, fun pg => ?_⟩
    have pg' : t.cr0.pg = false := by rw [h1.1]; exact pg
    obtain ⟨a, b, c, d⟩ := h2 pg
    obtain ⟨a', b', c', d'⟩ := h4 pg'
    refine ⟨a'.trans a, b'.trans b, fun wf x ho => ?_, fun q => ?_⟩
    · exact (c' (h1.2.1 wf) x fun k => ho (h1.outside k)).trans (c wf x ho)
    · exact ⟨(d' (h1.quiet q)).1.trans (d q).1, (d' (h1.quiet q)).2.trans (d q).2⟩

/-- With paging on, whatever an access changes. -/
theorem Reading.of_access {s t : State} (h : Access s t) (pg : s.cr0.pg = true) : Reading s t :=
  ⟨h, fun e => by rw [pg] at e; cases e⟩

theorem Reading.of_rollback {s t : State} (h : t = { s with events := t.events, free := t.free }) : Reading s t :=
  ⟨.ofOwn h, fun _ => by rw [h]; exact ⟨rfl, rfl, fun _ _ _ => rfl, fun _ => ⟨rfl, rfl⟩⟩⟩

/-- What other bus masters do before a bus cycle. -/
theorem Reading.cycle (s : State) : Reading s s.cycle := by
  refine ⟨Access.cycle s, fun _ => ?_⟩
  have h := (Access.cycle s).1
  refine ⟨?_, ?_, fun wf x ho => (State.cycle_mem wf).2 x ho, fun q => ?_⟩
  · exact State.cycle_tlb s
  · exact State.cycle_cr2 s
  · rw [State.cycle_quiet q]; exact ⟨rfl, rfl⟩

theorem busCycle_reading : Keeps Reading busCycle := .modify Reading.cycle

theorem draw_reading : Keeps Reading draw := ⟨fun _ => .of_rollback rfl⟩
theorem drawSplit_reading : Keeps Reading drawSplit := ⟨fun _ => .of_rollback rfl⟩
theorem getReg_reading (w : Width) (r : Reg) : Keeps Reading (getReg w r) := ⟨fun s => Reading.order.refl s⟩

theorem readRun_reading (p : List Word32) : Keeps Reading (readRun p) := by
  unfold readRun
  refine Keeps.bind Reading.order (Keeps.get Reading.order) fun s => ?_
  cases p with
  | nil => exact Keeps.pure Reading.order _
  | cons a rest =>
    dsimp only
    split
    · exact Keeps.pure Reading.order _
    · exact Keeps.pure Reading.order _
    · exact Keeps.bind Reading.order draw_reading fun _ => Keeps.pure Reading.order _
    · exact Keeps.bind Reading.order draw_reading fun _ =>
        Keeps.bind Reading.order (Keeps.modify fun _ => .of_rollback rfl) fun _ => Keeps.pure Reading.order _

theorem readRuns_reading : ∀ rs : List (List Word32), Keeps Reading (readRuns rs)
  | [] => Keeps.pure Reading.order _
  | r :: rest =>
    Keeps.bind Reading.order (readRun_reading r) fun _ =>
      Keeps.bind Reading.order (readRuns_reading rest) fun _ => Keeps.pure Reading.order _

theorem readPiece_reading (p : List Word32) : Keeps Reading (readPiece p) :=
  Keeps.bind Reading.order busCycle_reading fun _ =>
    Keeps.bind Reading.order (Keeps.get Reading.order) fun _ => readRuns_reading _

theorem secondFirst_reading (pas : List Word32) : Keeps Reading (secondFirst pas) := by
  unfold secondFirst
  refine Keeps.bind Reading.order (Keeps.get Reading.order) fun s => ?_
  split
  · exact drawSplit_reading
  · exact Keeps.pure Reading.order _

theorem physRead_reading (pas : List Word32) : Keeps Reading (physRead pas) := by
  unfold physRead
  repeat' first
    | split
    | exact readPiece_reading _
    | exact secondFirst_reading _
    | exact Keeps.pure Reading.order _
    | apply Keeps.bind Reading.order
    | intro _
    | dsimp only

theorem linResolve_off {s : State} (pg : s.cr0.pg = false) (la : Word32) (n : Nat) (w u c : Bool) :
    linResolve la n w u c s = .ok (addrs la n) s := by
  unfold linResolve
  simp [pg]

theorem linResolve_reading (la : Word32) (n : Nat) (w u c : Bool) : Keeps Reading (linResolve la n w u c) := ⟨fun s => by
  cases pg : s.cr0.pg
  · rw [linResolve_off pg]; exact Reading.order.refl s
  · exact .of_access ((linResolve_access la n w u c).run s) pg⟩

theorem linRead_reading (w : Width) (la : Word32) (u : Bool) : Keeps Reading (linRead w la u) :=
  Keeps.bind Reading.order (linResolve_reading _ _ _ _ _) fun _ =>
    Keeps.bind Reading.order (physRead_reading _) fun _ => Keeps.pure Reading.order _

theorem segCheck_reading (r : SReg) (off : Word32) (n : Nat) (w : Bool) : Keeps Reading (segCheck r off n w) :=
  Keeps.bind Reading.order (Keeps.get Reading.order) fun _ =>
    Keeps.bind Reading.order (Keeps.require Reading.order _ _) fun _ =>
      Keeps.bind Reading.order (Keeps.require Reading.order _ _) fun _ => Keeps.pure Reading.order _

theorem segResolveAs_reading (user : Bool) (r : SReg) (off : Word32) (n : Nat) (w c : Bool) :
    Keeps Reading (segResolveAs user r off n w c) :=
  Keeps.bind Reading.order (segCheck_reading _ _ _ _) fun _ => linResolve_reading _ _ _ _ _

theorem segResolve_reading (r : SReg) (off : Word32) (n : Nat) (w c : Bool) : Keeps Reading (segResolve r off n w c) :=
  Keeps.bind Reading.order (Keeps.get Reading.order) fun _ => segResolveAs_reading _ _ _ _ _ _

theorem segRead_reading (w : Width) (r : SReg) (off : Word32) : Keeps Reading (segRead w r off) :=
  Keeps.bind Reading.order (segResolve_reading _ _ _ _ _) fun _ =>
    Keeps.bind Reading.order (physRead_reading _) fun _ => Keeps.pure Reading.order _

theorem stackRead_reading (w : Width) (k : Word32) : Keeps Reading (stackRead w k) :=
  Keeps.bind Reading.order (Keeps.get Reading.order) fun _ => segRead_reading _ _ _

theorem memLoc_reading (w : Width) (r : SReg) (off : Word32) (wr c : Bool) : Keeps Reading (memLoc w r off wr c) :=
  Keeps.bind Reading.order (segResolve_reading _ _ _ _ _) fun _ => Keeps.pure Reading.order _

/-- Finding an operand reads. -/
theorem locate_reading (w : Width) (rm : RM) (wr c : Bool) : Keeps Reading (locate w rm wr c) := by
  unfold locate
  split
  · exact Keeps.pure Reading.order _
  · exact Keeps.bind Reading.order (Keeps.get Reading.order) fun _ => memLoc_reading _ _ _ _ _

/-- Reading a place reads. -/
theorem readLoc_reading (w : Width) (l : Loc) : Keeps Reading (readLoc w l) := by
  unfold readLoc
  split
  · exact getReg_reading _ _
  · exact Keeps.bind Reading.order (physRead_reading _) fun _ => Keeps.pure Reading.order _

/-- Reading an operand reads. -/
theorem readRM_reading (w : Width) (rm : RM) : Keeps Reading (readRM w rm) :=
  Keeps.bind Reading.order (locate_reading _ _ _ _) fun _ => readLoc_reading _ _

theorem readPair_reading (la : Word32) : Keeps Reading (readPair la) :=
  Keeps.bind Reading.order (linRead_reading _ _ _) fun _ =>
    Keeps.bind Reading.order (linRead_reading _ _ _) fun _ => Keeps.pure Reading.order _

theorem findDesc_reading (sel : Word16) : Keeps Reading (findDesc sel) := by
  unfold findDesc
  repeat' first
    | exact Keeps.get Reading.order
    | exact readPair_reading _
    | exact Keeps.pure Reading.order _
    | apply Keeps.bind Reading.order
    | intro _
    | split
    | dsimp only

/-- Reading a descriptor reads. -/
theorem readDesc_reading (sel : Word16) (e : Exn) : Keeps Reading (readDesc sel e) := by
  unfold readDesc
  refine Keeps.bind Reading.order (Keeps.get Reading.order) fun _ =>
    Keeps.bind Reading.order (Keeps.require Reading.order _ _) fun _ =>
      Keeps.bind Reading.order (findDesc_reading _) fun d => ?_
  cases d with
  | none => exact Keeps.raise Reading.order _
  | some d => exact Keeps.pure Reading.order _

/-- What an action that reads leaves, where it ends well. -/
theorem Keeps.ok {α : Type} {R : State → State → Prop} {m : M α} (h : Keeps R m) {s t : State} {a : α}
    (e : m s = .ok a t) : R s t := by
  have := h.run s
  rw [e] at this
  exact this

end Sys2Proof.Machine
end

