-- ==== Sys2Proof/Laws/Checks.lean ====
section
/-! SUPPORT. Checks.lean: what the checks of selectors do, in the terms of the statements: each passes, or
raises the exception of the first test that fails, as its table says. -/

namespace Sys2Proof.Machine

/-! ## Tables of checks -/

/-- Tests made in order. -/
def requireAll : List (Bool × Exn) → M Unit
  | [] => pure ()
  | (ok, x) :: rest => do
    require ok x
    requireAll rest

theorem requireAll_run : ∀ (l : List (Bool × Exn)) (s : State),
    requireAll l s = match firstFailure l with
      | none => .ok () s
      | some x => .error (.exc x) s
  | [], _ => rfl
  | (ok, x) :: rest, s => by
    cases ok
    · rfl
    · exact requireAll_run rest s

/-- The checks of a table, made. -/
def Check.run (c : Check) : M Desc := do
  requireAll c.before
  let d ← readDesc c.sel c.beyond
  requireAll (c.tests d)
  return d

/-- The checks of a table, as what they do. -/
theorem Check.run_eq (c : Check) (s : State) :
    c.run s = match firstFailure c.before with
      | some x => .error (.exc x) s
      | none => match readDesc c.sel c.beyond s with
        | .error x t => .error x t
        | .ok d t => match firstFailure (c.tests d) with
          | some x => .error (.exc x) t
          | none => .ok d t := by
  unfold Check.run
  rw [bind_run, requireAll_run]
  cases firstFailure c.before with
  | some x => rfl
  | none =>
    simp only [bind_run]
    cases readDesc c.sel c.beyond s with
    | error x u => rfl
    | ok e u =>
      simp only [requireAll_run]
      cases firstFailure (c.tests e) <;> rfl

theorem Check.run_passes {c : Check} {s t : State} {d : Desc} : c.run s = .ok d t ↔ c.Passes s d t := by
  rw [Check.run_eq]
  unfold Check.Passes
  cases firstFailure c.before with
  | some x => simp
  | none =>
    cases readDesc c.sel c.beyond s with
    | error x u => simp
    | ok e u =>
      cases h : firstFailure (c.tests e) with
      | none =>
        simp only [h, true_and, EStateM.Result.ok.injEq]
        constructor
        · rintro ⟨rfl, rfl⟩; exact ⟨⟨rfl, rfl⟩, h⟩
        · exact fun k => k.1
      | some y =>
        simp only [h, reduceCtorEq, false_iff, true_and, EStateM.Result.ok.injEq]
        rintro ⟨⟨rfl, _⟩, k⟩; rw [h] at k; cases k

theorem Check.run_fails {c : Check} {s t : State} {x : Exn} : c.run s = .error (.exc x) t ↔ c.Fails s x t := by
  rw [Check.run_eq]
  unfold Check.Fails
  cases firstFailure c.before with
  | some y => simp [eq_comm]
  | none =>
    cases readDesc c.sel c.beyond s with
    | error y u => simp
    | ok e u =>
      cases h : firstFailure (c.tests e) with
      | none =>
        simp only [h, reduceCtorEq, false_iff, false_and, false_or, true_and, EStateM.Result.ok.injEq]
        rintro ⟨_, ⟨rfl, _⟩, k⟩; rw [h] at k; cases k
      | some y =>
        simp only [h, reduceCtorEq, false_and, false_or, true_and, EStateM.Result.ok.injEq, EStateM.Result.error.injEq,
          Stop.exc.injEq]
        constructor
        · rintro ⟨rfl, rfl⟩; exact ⟨e, ⟨rfl, rfl⟩, h⟩
        · rintro ⟨_, ⟨rfl, rfl⟩, k⟩; rw [h] at k; cases k; exact ⟨rfl, rfl⟩

theorem require_and (a b : Bool) (e : Exn) : require (a && b) e = (do require a e; require b e) := by
  funext s; rw [bind_run]; cases a <;> cases b <;> rfl

theorem level_beq (a b : BitVec 2) : (a == b) = decide (a = b) := rfl

theorem Desc.codeMatches_eq (d : Desc) (l : BitVec 2) : d.codeMatches l = d.runsAt l := by
  unfold Desc.codeMatches Desc.runsAt; rw [level_beq]

theorem checkReturnCode_eq (sel : Word16) (s : State) : checkReturnCode sel s = (returnCodeCheck sel s.cpl).run s := by
  simp only [checkReturnCode, Check.run, returnCodeCheck, requireAll, bind_assoc, pure_bind, Desc.codeMatches_eq]
  rw [bind_run, get_run]

theorem checkReturnStack_eq (sel : Word16) (l : BitVec 2) : checkReturnStack sel l = (returnStackCheck sel l).run := by
  simp only [checkReturnStack, Check.run, returnStackCheck, requireAll, bind_assoc, pure_bind, Desc.writableData, require_and,
    level_beq]

theorem gateTarget_eq (sel : Word16) (g : Desc) (s : State) : gateTarget sel g s = (gateTargetCheck sel g s.cpl).run s := by
  simp only [gateTarget, Check.run, gateTargetCheck, requireAll, bind_assoc, pure_bind, Desc.gateOk, require_and]
  rw [bind_run, get_run]

theorem innerStack_eq (l : BitVec 2) : innerStack l = (do
      let s ← get
      let off : Word32 := 4 + 8 * l.setWidth 32
      require (decide (off.toNat + 5 ≤ s.tr.limit.toNat)) (tsFault s.tr.sel)
      let nesp ← linRead .b32 (s.tr.base + off) false
      let nss ← linRead .b16 (s.tr.base + off + 4) false
      let d ← (innerStackCheck nss l).run
      return (nss, nesp, d)) := by
  simp only [innerStack, Check.run, innerStackCheck, requireAll, bind_assoc, pure_bind, Desc.writableData, require_and,
    level_beq]

theorem innerStack_ok {l : BitVec 2} {s t : State} {nss : Word16} {nesp : Word32} {d : Desc}
    (h : InnerStack l s nss nesp d t) : innerStack l s = .ok (nss, nesp, d) t := by
  rw [innerStack_eq]
  obtain ⟨u, ⟨h, v, h1, h2⟩, k⟩ := h
  simp only [bind_run, get_run, require_run, decide_eq_true h, if_true, h1, h2, Check.run_passes.mpr k, pure_run]

theorem innerStack_fails {l : BitVec 2} {s t : State} {x : Exn} (h : InnerStackFails l s x t) :
    innerStack l s = .error (.exc x) t := by
  rw [innerStack_eq]
  rcases h with ⟨h, rfl, rfl⟩ | ⟨nss, nesp, u, ⟨h, v, h1, h2⟩, k⟩
  · have h : ¬ (4 + 8 * l.setWidth 32 : Word32).toNat + 5 ≤ t.tr.limit.toNat := by omega
    simp only [bind_run, get_run, require_run, decide_eq_false h, Bool.false_eq_true, if_false]
  · simp only [bind_run, get_run, require_run, decide_eq_true h, if_true, h1, h2, Check.run_fails.mpr k]

/-- The new stack of an inner level is found exactly if looking for it answers. -/
theorem innerStack_iff {l : BitVec 2} {s t : State} {nss : Word16} {nesp : Word32} {d : Desc} :
    innerStack l s = .ok (nss, nesp, d) t ↔ InnerStack l s nss nesp d t := by
  refine ⟨fun h => ?_, innerStack_ok⟩
  rw [innerStack_eq, bind_ok (get_run s)] at h
  obtain ⟨_, _, h1, h⟩ := bind_eq_ok.mp h
  obtain ⟨c, rfl⟩ := require_eq_ok.mp h1
  obtain ⟨a, u, h2, h⟩ := bind_eq_ok.mp h
  obtain ⟨b, v, h3, h⟩ := bind_eq_ok.mp h
  obtain ⟨e, w, h4, h⟩ := bind_eq_ok.mp h
  cases h
  exact ⟨v, ⟨of_decide_eq_true c, u, h2, h3⟩, Check.run_passes.mp h4⟩

/-! ## The checks of a task switch -/

/-- A TSS descriptor of 80286 format is refused; of any other the table says what is raised. -/
theorem checkTss_eq (sel : Word16) (k : TaskKind) (s : State)
    (h : ∀ d t, selTI sel = false → selNull sel = false → readDesc sel (k.badTss sel) s = .ok d t → d.tss286 = false) :
    checkTss sel k s = (tssCheck sel k).run s := by
  have bad : (if k = .iret then tsFault sel else gpFault sel) = k.badTss sel := by cases k <;> rfl
  have ty : ∀ d : Desc, (d.tss386 && (d.busy == (k == .iret))) = d.isSys (if k = .iret then 0xB else 9) := fun d => by
    have b : d.busy = d.type.getLsbD 1 := by unfold Desc.busy Desc.type; simp
    have all : ∀ (y : BitVec 4) (z : Bool), ((!z && y == 9 || !z && y == 0xB) && (y.getLsbD 1 == (k == .iret))) =
        (!z && y == if k = .iret then 0xB else 9) := by cases k <;> decide
    unfold Desc.tss386 Desc.isSys; rw [b]; exact all _ _
  simp only [checkTss, Check.run, tssCheck, requireAll, bind_assoc, pure_bind, bad, require_and, bind_run, require_run,
    pure_run]
  cases h1 : selTI sel <;> cases h2 : selNull sel <;>
    simp only [Bool.not_true, Bool.not_false, Bool.false_eq_true, if_true, if_false]
  cases e : readDesc sel (k.badTss sel) s with
  | error x t => rfl
  | ok d t =>
    simp only [h d t h1 h2 e, Bool.false_eq_true, if_false, ← ty d, bind_run, require_run]
    cases d.tss386 <;> cases d.busy == (k == .iret) <;> simp [Config.minTssLimit]

theorem loadTaskLdt_eq (sel : Word16) : loadTaskLdt sel = if selNull sel then pure () else (do
      let d ← (taskLdtCheck sel).run
      modify fun s => { s with ldtr := { sel := sel, base := d.base, limit := d.limit, valid := true } }) := by
  simp only [loadTaskLdt, Check.run, taskLdtCheck, requireAll, bind_assoc, pure_bind]

theorem loadTaskCode_eq (sel : Word16) : loadTaskCode sel = (do
      let c ← (taskCodeCheck sel).run
      installSeg .cs sel c) := by
  simp only [loadTaskCode, Check.run, taskCodeCheck, requireAll, bind_assoc, pure_bind, Desc.codeMatches_eq]

theorem loadTaskStack_eq (sel : Word16) : loadTaskStack sel = (do
      let s ← get
      let d ← (taskStackCheck sel s.cpl).run
      installSeg .ss sel d) := by
  simp only [loadTaskStack, Check.run, taskStackCheck, requireAll, bind_assoc, pure_bind, Desc.writableData, level_beq]

theorem taskDataTest_eq (d : Option Desc) (ok : Desc → Bool) (e : Exn) : taskDataTest d ok e = require (d.all ok) e := by
  cases d <;> rfl

/-- Tests 14 to 16 are made in the order of their table, after the four descriptors have been read. -/
theorem loadTaskData_eq (ds es fs gs : Word16) : loadTaskData ds es fs gs = (do
      let s ← get
      let d0 ← taskDataDesc ds
      let d1 ← taskDataDesc es
      let d2 ← taskDataDesc fs
      let d3 ← taskDataDesc gs
      requireAll (taskDataTests s.cpl [(ds, d0), (es, d1), (fs, d2), (gs, d3)])
      installTaskData .ds ds d0
      installTaskData .es es d1
      installTaskData .fs fs d2
      installTaskData .gs gs d3) := by
  simp only [loadTaskData, taskDataTests, List.map, List.cons_append, List.nil_append, requireAll, bind_assoc, pure_bind,
    taskDataTest_eq]
  rfl

theorem taskDataDesc_ok {sel : Word16} {s t : State} {d : Option Desc} :
    taskDataDesc sel s = .ok d t ↔
      if selNull sel then d = none ∧ t = s else ∃ x, readDesc sel (gpFault sel) s = .ok x t ∧ d = some x := by
  unfold taskDataDesc
  cases selNull sel
  · simp only [Bool.false_eq_true, if_false, bind_run]
    cases readDesc sel (gpFault sel) s with
    | error x u => simp
    | ok y u =>
      simp only [pure_run, EStateM.Result.ok.injEq]
      exact ⟨fun ⟨a, b⟩ => ⟨y, ⟨rfl, b⟩, a.symm⟩, fun ⟨x, ⟨a, b⟩, c⟩ => ⟨by rw [a]; exact c.symm, b⟩⟩
  · simp [eq_comm]

theorem DataLoaded.cons {r : SReg} {sel : Word16} {d : Option Desc} {rest : List (SReg × Word16 × Option Desc)} {s t : State} :
    DataLoaded ((r, sel, d) :: rest) s t ↔ ∃ u, installTaskData r sel d s = .ok () u ∧ DataLoaded rest u t := by
  cases d with
  | none => exact ⟨fun h => ⟨s, rfl, h⟩, fun ⟨_, e, h⟩ => by cases e; exact h⟩
  | some d =>
    unfold installTaskData installSeg
    simp only [bind_run, modify_run]
    show (∃ u, setAccessed sel d s = .ok () u ∧ DataLoaded rest (u.setSeg r (d.seg sel)) t) ↔ _
    cases setAccessed sel d s <;> simp

theorem loadTaskData_ok {ds es fs gs : Word16} {s u t : State} {l : List (Option Desc)}
    (h : DataRead [ds, es, fs, gs] s l u) (ok : firstFailure (taskDataTests s.cpl ([ds, es, fs, gs].zip l)) = none)
    (k : DataLoaded ([SReg.ds, .es, .fs, .gs].zip ([ds, es, fs, gs].zip l)) u t) :
    loadTaskData ds es fs gs s = .ok () t := by
  obtain ⟨d0, s1, l0, h0, ⟨d1, s2, l1, h1, ⟨d2, s3, l2, h2, ⟨d3, s4, l3, h3, ⟨rfl, rfl⟩, rfl⟩, rfl⟩, rfl⟩, rfl⟩ := h
  have h0 := taskDataDesc_ok.mpr h0
  have h1 := taskDataDesc_ok.mpr h1
  have h2 := taskDataDesc_ok.mpr h2
  have h3 := taskDataDesc_ok.mpr h3
  simp only [List.zip_cons_cons, List.zip_nil_right] at k ok
  obtain ⟨t0, k0, k⟩ := DataLoaded.cons.mp k
  obtain ⟨t1, k1, k⟩ := DataLoaded.cons.mp k
  obtain ⟨t2, k2, k⟩ := DataLoaded.cons.mp k
  obtain ⟨t3, k3, k⟩ := DataLoaded.cons.mp k
  cases k
  rw [loadTaskData_eq]
  simp only [bind_run, get_run, h0, h1, h2, h3, requireAll_run, ok, k0, k1, k2, k3]

theorem requireAll_eq_ok {l : List (Bool × Exn)} {s t : State} :
    requireAll l s = .ok () t ↔ firstFailure l = none ∧ t = s := by
  rw [requireAll_run]
  cases firstFailure l <;> simp [eq_comm]

/-- The data segments are loaded exactly if the tests pass on the descriptors that the selectors name, and each
register is loaded. -/
theorem loadTaskData_iff {ds es fs gs : Word16} {s t : State} :
    loadTaskData ds es fs gs s = .ok () t ↔ ∃ (l : List (Option Desc)) (u : State), DataRead [ds, es, fs, gs] s l u ∧
      firstFailure (taskDataTests s.cpl ([ds, es, fs, gs].zip l)) = none ∧
      DataLoaded ([SReg.ds, .es, .fs, .gs].zip ([ds, es, fs, gs].zip l)) u t := by
  refine ⟨fun h => ?_, fun ⟨l, u, h, ok, k⟩ => loadTaskData_ok h ok k⟩
  rw [loadTaskData_eq, bind_ok (get_run s)] at h
  obtain ⟨d0, s1, h0, h⟩ := bind_eq_ok.mp h
  obtain ⟨d1, s2, h1, h⟩ := bind_eq_ok.mp h
  obtain ⟨d2, s3, h2, h⟩ := bind_eq_ok.mp h
  obtain ⟨d3, s4, h3, h⟩ := bind_eq_ok.mp h
  obtain ⟨_, _, h4, k⟩ := bind_eq_ok.mp h
  obtain ⟨ok, rfl⟩ := requireAll_eq_ok.mp h4
  obtain ⟨_, t0, k0, k⟩ := bind_eq_ok.mp k
  obtain ⟨_, t1, k1, k⟩ := bind_eq_ok.mp k
  obtain ⟨_, t2, k2, k3⟩ := bind_eq_ok.mp k
  refine ⟨[d0, d1, d2, d3], _, ⟨d0, s1, _, taskDataDesc_ok.mp h0, ⟨d1, s2, _, taskDataDesc_ok.mp h1,
    ⟨d2, s3, _, taskDataDesc_ok.mp h2, ⟨d3, _, _, taskDataDesc_ok.mp h3, ⟨rfl, rfl⟩, rfl⟩, rfl⟩, rfl⟩, rfl⟩, ok, ?_⟩
  simp only [List.zip_cons_cons, List.zip_nil_right, DataLoaded.cons]
  exact ⟨t0, k0, t1, k1, t2, k2, t, k3, rfl⟩

/-- LDTR is loaded exactly if tests 4 and 5 pass. -/
theorem loadTaskLdt_iff {sel : Word16} {s t : State} : loadTaskLdt sel s = .ok () t ↔ TaskLdt sel s t := by
  rw [loadTaskLdt_eq]
  unfold TaskLdt
  cases selNull sel
  · simp only [Bool.false_eq_true, if_false, bind_eq_ok, modify_run, EStateM.Result.ok.injEq, true_and, Check.run_passes]
    exact ⟨fun ⟨d, u, h, e⟩ => ⟨d, u, h, e.symm⟩, fun ⟨d, u, h, e⟩ => ⟨d, u, h, e.symm⟩⟩
  · simp [eq_comm]

/-- The checks of a table change the state as reading a descriptor does. -/
theorem Check.run_access (c : Check) : Keeps Access c.run := ⟨fun s => by
  have h := (readDesc_access c.sel c.beyond).run s
  rw [Check.run_eq]
  split
  · exact Access.order.refl s
  · split
    · next e => rw [e] at h; exact h
    · next e =>
      rw [e] at h
      split <;> exact h⟩

theorem Check.Passes.access {c : Check} {s t : State} {d : Desc} (h : c.Passes s d t) : Access s t :=
  (Check.run_access c).ok (Check.run_passes.mpr h)

/-- CS and SS are loaded exactly if tests 6 to 12 pass, CPL being the RPL of CS. -/
theorem loadTaskCodeStack_iff {cs ss : Word16} {s t : State} (cpl : s.cpl = rpl cs) :
    (do loadTaskCode cs; loadTaskStack ss : M Unit) s = .ok () t ↔ TaskCodeStack cs ss s t := by
  have level : ∀ {c : Desc} {u v : State}, (taskCodeCheck cs).Passes s c u → setAccessed cs c u = .ok () v →
      ({ v with cs := c.seg cs } : State).cpl = rpl cs := fun h k => by
    show (_ : State).cpl = _
    rw [(Access.order.trans h.access ((setAccessed_access _ _).ok k)).1]
    exact cpl
  rw [loadTaskCode_eq, loadTaskStack_eq]
  unfold TaskCodeStack installSeg
  constructor
  · intro h
    obtain ⟨_, _, h1, h⟩ := bind_eq_ok.mp h
    obtain ⟨c, u, hc, h1⟩ := bind_eq_ok.mp h1
    obtain ⟨_, v, hv, h1⟩ := bind_eq_ok.mp h1
    cases h1
    rw [bind_ok (get_run _)] at h
    obtain ⟨d, x, hd, h⟩ := bind_eq_ok.mp h
    obtain ⟨_, y, hy, h⟩ := bind_eq_ok.mp h
    cases h
    have hc := Check.run_passes.mp hc
    rw [show (v.setSeg .cs (c.seg cs)).cpl = rpl cs from level hc hv] at hd
    exact ⟨c, d, u, v, x, y, hc, hv, Check.run_passes.mp hd, hy, rfl⟩
  · rintro ⟨c, d, u, v, x, y, hc, hv, hd, hy, rfl⟩
    have hd := Check.run_passes.mpr hd
    rw [← level hc hv] at hd
    refine bind_eq_ok.mpr ⟨(), { v with cs := c.seg cs }, ?_, ?_⟩
    · rw [bind_ok (Check.run_passes.mpr hc), bind_ok hv]; rfl
    · rw [bind_ok (get_run _), bind_ok hd, bind_ok hy]; rfl

/-- Tests 4 to 16 and the loads, in order. -/
def loadIncoming (f : Nat → Word32) : M Unit := do
  loadTaskLdt (low16 (f 0))
  loadTaskCode (low16 (f 12))
  loadTaskStack (low16 (f 13))
  loadTaskData (low16 (f 14)) (low16 (f 11)) (low16 (f 15)) (low16 (f 16))

theorem TaskLdt.level {sel : Word16} {s t : State} (h : TaskLdt sel s t) : t.cpl = s.cpl := by
  unfold TaskLdt at h
  split at h
  · rw [h]
  · obtain ⟨d, u, h, rfl⟩ := h
    show u.cpl = _
    rw [h.access.1]; rfl

theorem TaskCodeStack.level {cs ss : Word16} {s t : State} (h : TaskCodeStack cs ss s t) : t.cpl = s.cpl := by
  obtain ⟨c, d, u, v, x, y, hc, hv, hd, hy, rfl⟩ := h
  have a := Access.order.trans hc.access ((setAccessed_access _ _).ok hv)
  have b := Access.order.trans hd.access ((setAccessed_access _ _).ok hy)
  show y.cpl = _
  rw [b.1]
  show v.cpl = _
  rw [a.1]; rfl

/-- LDTR, CS, SS and the data segments are loaded exactly if tests 4 to 16 pass, CPL being the RPL of CS. -/
theorem loadIncoming_iff {f : Nat → Word32} {s t : State} (cpl : s.cpl = rpl (low16 (f 12))) :
    loadIncoming f s = .ok () t ↔ TaskTestsPass f s t := by
  unfold loadIncoming TaskTestsPass
  have split : ∀ g : M Unit, (do loadTaskCode (low16 (f 12)); loadTaskStack (low16 (f 13)); g) =
      ((do loadTaskCode (low16 (f 12)); loadTaskStack (low16 (f 13)) : M Unit) >>= fun _ => g) := fun g => by
    simp only [bind_assoc]
  rw [split]
  constructor
  · intro h
    obtain ⟨_, a, ha, h⟩ := bind_eq_ok.mp h
    have ha := loadTaskLdt_iff.mp ha
    have ca := ha.level.trans cpl
    obtain ⟨_, b, hb, h⟩ := bind_eq_ok.mp h
    have hb := (loadTaskCodeStack_iff ca).mp hb
    obtain ⟨l, u, h, ok, k⟩ := loadTaskData_iff.mp h
    rw [hb.level.trans ca] at ok
    exact ⟨a, b, u, l, ha, hb, h, ok, k⟩
  · rintro ⟨a, b, u, l, ha, hb, h, ok, k⟩
    have ca := ha.level.trans cpl
    rw [bind_ok (loadTaskLdt_iff.mpr ha), bind_ok ((loadTaskCodeStack_iff ca).mpr hb)]
    exact loadTaskData_ok h (by rw [hb.level.trans ca]; exact ok) k

end Sys2Proof.Machine
end

