-- ==== Sys2Proof/Laws/Decoding.lean ====
section
/-! SUPPORT. Decoding.lean: reading from more bytes gives what reading from fewer gave, so that an instruction's bytes, and
none of their beginnings, are decoded as it. -/

namespace Sys2Proof

/-- What a reader answers from some bytes it answers from more, and leaves them; only for want of a byte does it answer
otherwise. -/
structure Parser.Stable {α : Type} (p : Parser α) : Prop where
  ok : ∀ {bs cs : List Byte} {a : α} {r : List Byte}, p bs = .ok (a, r) → p (bs ++ cs) = .ok (a, r ++ cs)
  error : ∀ {bs cs : List Byte} {e : DecodeStop}, e ≠ .more → p bs = .error e → p (bs ++ cs) = .error e

theorem Parser.bind_apply {α β : Type} (p : Parser α) (f : α → Parser β) (bs : List Byte) :
    (p >>= f) bs = match p bs with
      | .ok (a, r) => f a r
      | .error e => .error e := by
  show (p bs >>= fun x => f x.1 x.2) = _
  cases p bs <;> rfl

namespace Parser.Stable
variable {α β : Type}

theorem pure (a : α) : (Pure.pure a : Parser α).Stable where
  ok h := by cases h; rfl
  error _ h := by cases h

theorem stop (e : DecodeStop) : (stopDecode e : Parser α).Stable where
  ok h := by cases h
  error _ h := by cases h; rfl

theorem bind {p : Parser α} {f : α → Parser β} (hp : p.Stable) (hf : ∀ a, (f a).Stable) : (p >>= f).Stable where
  ok {bs cs b r} h := by
    rw [bind_apply] at h ⊢
    cases e : p bs with
    | error x => rw [e] at h; cases h
    | ok x => rw [e] at h; rw [hp.ok (cs := cs) e]; exact (hf _).ok h
  error {bs cs x} hx h := by
    rw [bind_apply] at h ⊢
    cases e : p bs with
    | error y => rw [e] at h; cases h; rw [hp.error (cs := cs) hx e]
    | ok y => rw [e] at h; rw [hp.ok (cs := cs) e]; exact (hf _).error hx h

theorem byte : nextByte.Stable where
  ok {bs cs a r} h := by cases bs <;> cases h; rfl
  error {bs cs e} hx h := by cases bs <;> cases h; exact absurd rfl hx

end Parser.Stable

theorem word16_stable : word16.Stable := .bind .byte fun _ => .bind .byte fun _ => .pure _

theorem word32_stable : word32.Stable :=
  .bind .byte fun _ => .bind .byte fun _ => .bind .byte fun _ => .bind .byte fun _ => .pure _

theorem wordV_stable (sz : Size) : (wordV sz).Stable := by
  cases sz
  · exact .bind word16_stable fun _ => .pure _
  · exact word32_stable

theorem disp16_stable (m : BitVec 2) : (disp16 m).Stable := by
  unfold disp16
  split
  · exact .pure _
  · exact .bind .byte fun _ => .pure _
  · exact .bind word16_stable fun _ => .pure _

theorem disp32_stable (m : BitVec 2) : (disp32 m).Stable := by
  unfold disp32
  split
  · exact .pure _
  · exact .bind .byte fun _ => .pure _
  · exact .bind word32_stable fun _ => .pure _

theorem memForm_stable (asz : Size) (m : BitVec 2) (rm : BitVec 3) : (memForm asz m rm).Stable := by
  unfold memForm
  repeat' with_reducible first
    | exact .pure _
    | exact .byte
    | exact word16_stable
    | exact word32_stable
    | exact disp16_stable _
    | exact disp32_stable _
    | apply Parser.Stable.bind
    | split
    | intro _

theorem rmOperand_stable (asz : Size) (b : Byte) : (rmOperand asz b).Stable := by
  unfold rmOperand
  split
  · exact .pure _
  · exact .bind (memForm_stable _ _ _) fun _ => .pure _

theorem memOperand_stable (asz : Size) (b : Byte) : (memOperand asz b).Stable := by
  unfold memOperand
  split
  · exact .stop _
  · exact memForm_stable _ _ _

theorem undefinedMember_stable (asz : Size) (b : Byte) : (undefinedMember asz b).Stable :=
  .bind (rmOperand_stable _ _) fun _ => .stop _

theorem undefinedMemberIb_stable (asz : Size) (b : Byte) : (undefinedMemberIb asz b).Stable :=
  .bind (rmOperand_stable _ _) fun _ => .bind .byte fun _ => .stop _

theorem decodeTwoByte_stable (osz asz : Size) (op : Byte) : (decodeTwoByte osz asz op).Stable := by
  unfold decodeTwoByte
  split
  all_goals
    repeat' with_reducible first
      | exact .pure _
      | exact .byte
      | exact wordV_stable _
      | exact rmOperand_stable _ _
      | exact memOperand_stable _ _
      | exact undefinedMemberIb_stable _ _
      | exact undefinedMember_stable _ _
      | exact .stop _
      | apply Parser.Stable.bind
      | split
      | intro _

theorem decodeLow_stable (osz asz : Size) (op : Byte) : (decodeLow osz asz op).Stable := by
  unfold decodeLow
  split
  all_goals
    repeat' with_reducible first
      | exact .pure _
      | exact .byte
      | exact word16_stable
      | exact word32_stable
      | exact wordV_stable _
      | exact rmOperand_stable _ _
      | exact memOperand_stable _ _
      | exact decodeTwoByte_stable _ _ _
      | exact .stop _
      | apply Parser.Stable.bind
      | split
      | intro _

theorem decodeHigh_stable (osz asz : Size) (op : Byte) : (decodeHigh osz asz op).Stable := by
  unfold decodeHigh
  split
  all_goals
    repeat' with_reducible first
      | exact .pure _
      | exact .byte
      | exact word16_stable
      | exact word32_stable
      | exact wordV_stable _
      | exact rmOperand_stable _ _
      | exact memOperand_stable _ _
      | exact undefinedMemberIb_stable _ _
      | exact undefinedMember_stable _ _
      | exact decodeTwoByte_stable _ _ _
      | exact .stop _
      | apply Parser.Stable.bind
      | split
      | intro _

theorem decodeOpcode_stable (osz asz : Size) (op : Byte) : (decodeOpcode osz asz op).Stable := by
  unfold decodeOpcode
  split
  · exact decodeLow_stable _ _ _
  · exact decodeHigh_stable _ _ _

theorem decode_stable (osz asz : Size) : (decode osz asz).Stable :=
  .bind .byte fun _ => decodeOpcode_stable osz asz _

/-- The bytes of an instruction cut short are not an instruction, and not undefined: more are asked for. -/
theorem decode_more {osz asz : Size} {bs cs : List Byte} {i : Instr} (h : decode osz asz (bs ++ cs) = .ok (i, []))
    (hc : cs ≠ []) : decode osz asz bs = .error .more := by
  cases e : decode osz asz bs with
  | ok x =>
    have := (decode_stable osz asz).ok (cs := cs) e
    rw [h] at this
    injection this with this
    injection this with _ this
    exact absurd (List.append_eq_nil_iff.mp this.symm).2 hc
  | error x =>
    by_cases hx : x = .more
    · rw [hx]
    · rw [(decode_stable osz asz).error (cs := cs) hx e] at h
      cases h

end Sys2Proof
end

