-- ==== Sys2Proof/Laws/Fetching.lean ====
section
/-! SUPPORT. Fetching.lean: the fetch of an instruction whose bytes stand at CS:EIP, with paging off and nothing stale in
the prefetch queue. -/

namespace Sys2Proof.Machine

/-- The state in which the byte `k` bytes after CS:EIP is fetched next. -/
def State.fetching (a : State) (c : Cur) (k : Nat) : State := { a with cur := { c with start := a.eip, next := a.eip + BitVec.ofNat 32 k } }

/-- The bytes `all` stand at CS:EIP, in RAM and inside the limit of CS, and nothing stands between them and the fetch. -/
structure Ready (a : State) (all : List Byte) : Prop where
  pg : a.cr0.pg = false
  pf : a.prefetch = []
  quiet : a.masters = []
  len : all.length ≤ 15
  here : ∀ k (h : k < all.length), (a.eip + BitVec.ofNat 32 k).toNat ≤ a.cs.limit.toNat ∧
      regionKind a.plat.map (a.cs.base + (a.eip + BitVec.ofNat 32 k)).toNat = .ram ∧
      a.mem.get (a.cs.base + (a.eip + BitVec.ofNat 32 k)).toNat = all[k]

/-- The fetch of one of those bytes. -/
theorem fetchByte_at {a : State} {all : List Byte} (r : Ready a all) (c : Cur) (k : Nat) (h : k < all.length) :
    fetchByte (a.fetching c k) = .ok all[k] (a.fetching c (k + 1)) := by
  obtain ⟨l, m, g⟩ := r.here k h
  have hk : k < 15 := by have := r.len; omega
  have e1 : ((a.fetching c k).cur.next - (a.fetching c k).cur.start).toNat < 15 := by
    show (a.eip + BitVec.ofNat 32 k - a.eip).toNat < 15
    rw [BitVec.add_comm, BitVec.add_sub_cancel]; simp; omega
  unfold fetchByte
  have e2 : decide (((a.fetching c k).cur.next - (a.fetching c k).cur.start).toNat < Config.maxLength) = true := decide_eq_true e1
  have e3 : decide ((a.fetching c k).cur.next.toNat ≤ (a.fetching c k).cs.limit.toNat) = true := decide_eq_true l
  have e4 : physRead (addrs ((a.fetching c k).cs.base + (a.fetching c k).cur.next) 1) (a.fetching c k) = .ok [all[k]] (a.fetching c k) := by
    have : addrs ((a.fetching c k).cs.base + (a.fetching c k).cur.next) 1 = [a.cs.base + (a.eip + BitVec.ofNat 32 k)] := by
      simp [addrs, State.fetching]
    rw [this]
    have f0 : firstPiece (a.cs.base + (a.eip + BitVec.ofNat 32 k)) = (firstPiece (a.cs.base + (a.eip + BitVec.ofNat 32 k)) - 1) + 1 := by
      unfold firstPiece; omega
    unfold physRead
    dsimp only
    rw [f0]
    simp only [List.take_succ_cons, List.drop_succ_cons, List.drop_nil, List.take_nil, List.isEmpty_nil, if_true]
    unfold readPiece
    simp only [bind_run, get_run, busCycle, modify_run, State.cycle_quiet (show (a.fetching c k).masters = [] from r.quiet)]
    have : regionKind (a.fetching c k).plat.map (a.cs.base + (a.eip + BitVec.ofNat 32 k)).toNat = .ram := m
    simp only [regionRuns, List.foldr, regionCons, readRuns, readRun, bind_run, get_run, this, pure_run]
    rw [← g]; rfl
  simp only [bind_run, get_run, require_run, e2, e3, if_true]
  rw [linResolve_off (show (a.fetching c k).cr0.pg = false from r.pg)]
  dsimp only
  rw [e4]
  dsimp only
  have e5 : ∀ o p n, seenByte o p n (a.fetching c k) = .ok n (a.fetching c k) := fun o p n => by
    unfold seenByte
    simp only [bind_run, get_run]
    have : (a.fetching c k).prefetch = [] := r.pf
    rw [this]; rfl
  rw [e5]
  simp only [modify_run, pure_run]
  congr 1
  unfold State.fetching
  dsimp only
  congr 2
  show a.eip + BitVec.ofNat 32 k + 1 = _
  rw [BitVec.add_assoc]; congr 1
  apply BitVec.eq_of_toNat_eq; simp; 

/-- The fetch of an instruction that stands among those bytes. -/
theorem fetchMore_at {a : State} {all : List Byte} (r : Ready a all) (c : Cur) {i : Instr} :
    ∀ (rest pre : List Byte) (n k : Nat), rest.length ≤ n → k + rest.length ≤ all.length →
      (∀ j (h : j < rest.length), (all[k + j]? ) = some rest[j]) →
      decode c.opSize c.addrSize (pre ++ rest) = .ok (i, []) →
      fetchMore n pre (a.fetching c k) = .ok i (a.fetching c (k + rest.length))
  | [], pre, n, k, _, _, _, hd => by
    unfold fetchMore
    simp only [bind_run, get_run]
    rw [List.append_nil] at hd
    have hd' : decode (a.fetching c k).cur.opSize (a.fetching c k).cur.addrSize pre = .ok (i, []) := hd
    rw [hd']; rfl
  | b :: rest, pre, n, k, hn, hl, hb, hd => by
    have more : decode c.opSize c.addrSize pre = .error .more := decode_more hd (by simp)
    obtain ⟨m, rfl⟩ : ∃ m, n = m + 1 := ⟨n - 1, by simp at hn; omega⟩
    unfold fetchMore
    simp only [bind_run, get_run]
    have more' : decode (a.fetching c k).cur.opSize (a.fetching c k).cur.addrSize pre = .error .more := more
    rw [more']
    simp only [List.length_cons] at hl hn
    have hk : k < all.length := by omega
    have eb : all[k] = b := by
      have := hb 0 (by simp)
      simp at this
      rw [List.getElem?_eq_getElem hk] at this
      simpa using this
    simp only [bind_run]
    rw [fetchByte_at r c k hk, eb]
    dsimp only
    rw [fetchMore_at r c rest (pre ++ [b]) m (k + 1) (by omega) (by omega) (fun j h => by
      have := hb (j + 1) (by simp; omega)
      rw [show k + 1 + j = k + (j + 1) by omega]; simpa using this) (by simpa using hd)]
    simp only [List.length_cons]
    congr 2; omega

end Sys2Proof.Machine
end

