-- ==== Sys2Proof/Laws/RoundTrip.lean ====
section
/-! SUPPORT. RoundTrip.lean: reading back the parts an encoding is made of, as `encode` writes them. -/

namespace Sys2Proof

theorem nextByte_cons (b : Byte) (bs : List Byte) : nextByte (b :: bs) = .ok (b, bs) := rfl

theorem Parser.bind_ok {α β : Type} {p : Parser α} {f : α → Parser β} {bs cs : List Byte} {a : α}
    (h : p bs = .ok (a, cs)) : (p >>= f) bs = f a cs := by
  show (p bs >>= fun x => f x.1 x.2) = _
  rw [h]; rfl

theorem hiField_pack : ∀ (h : BitVec 2) (m l : BitVec 3), hiField (packFields h m l) = h := by decide +kernel
theorem midField_pack : ∀ (h : BitVec 2) (m l : BitVec 3), midField (packFields h m l) = m := by decide +kernel
theorem lowField_pack : ∀ (h : BitVec 2) (m l : BitVec 3), lowField (packFields h m l) = l := by decide +kernel
theorem Reg.ofBits_toBits (r : Reg) : Reg.ofBits r.toBits = r := by cases r <;> rfl
theorem Base16.ofBits_toBits (r : Base16) : Base16.ofBits r.toBits = r := by cases r <;> rfl

theorem join_bytes16 (v : Word16) : v.extractLsb' 8 8 ++ v.extractLsb' 0 8 = v := by
  apply BitVec.eq_of_getLsbD_eq
  intro i hi
  simp only [BitVec.getLsbD_append, BitVec.getLsbD_extractLsb']
  split
  · simp [*]
  · have : 8 + (i - 8) = i := by omega
    simp [this]; omega

theorem join_bytes32 (v : Word32) :
    v.extractLsb' 24 8 ++ (v.extractLsb' 16 8 ++ (v.extractLsb' 8 8 ++ v.extractLsb' 0 8)) = v := by
  apply BitVec.eq_of_getLsbD_eq
  intro i hi
  simp only [BitVec.getLsbD_append, BitVec.getLsbD_extractLsb']
  rcases Nat.lt_or_ge i 8 with h | h
  · rw [if_pos (by omega), if_pos (by omega), if_pos h]; simp [h]
  · rcases Nat.lt_or_ge i 16 with h2 | h2
    · rw [if_pos (by omega), if_pos (by omega), if_neg (by omega), show 8 + (i - 8) = i by omega]
      simp; omega
    · rcases Nat.lt_or_ge i 24 with h3 | h3
      · rw [if_pos (by omega), if_neg (by omega), show 16 + (i - (8 + 8)) = i by omega]
        simp; omega
      · rw [if_neg (by omega), show 24 + (i - (8 + (8 + 8))) = i by omega]
        simp; omega

theorem word16_bytes (v : Word16) (rest : List Byte) : word16 (bytes16 v ++ rest) = .ok (v, rest) := by
  show Except.ok (v.extractLsb' 8 8 ++ v.extractLsb' 0 8, rest) = _
  rw [join_bytes16]

theorem word32_bytes (v : Word32) (rest : List Byte) : word32 (bytes32 v ++ rest) = .ok (v, rest) := by
  show Except.ok (v.extractLsb' 24 8 ++ (v.extractLsb' 16 8 ++ (v.extractLsb' 8 8 ++ v.extractLsb' 0 8)), rest) = _
  rw [join_bytes32]

theorem wordV_bytes (sz : Size) (v : Word32) (h : fits sz v = true) (rest : List Byte) :
    wordV sz (bytesV sz v ++ rest) = .ok (v, rest) := by
  cases sz with
  | s32 => exact word32_bytes v rest
  | s16 =>
    simp only [wordV, bytesV]
    rw [Parser.bind_ok (word16_bytes _ _)]
    simp only [fits, decide_eq_true_eq] at h
    show Except.ok (_, rest) = _
    congr 2
    apply BitVec.eq_of_toNat_eq
    simp
    omega

theorem disp16_bytes (d : Disp16) (rest : List Byte) : disp16 d.mod (d.bytes ++ rest) = .ok (d, rest) := by
  cases d with
  | none => rfl
  | d8 v => rfl
  | d16 v =>
    show (word16 >>= fun v => pure (Disp16.d16 v)) (bytes16 v ++ rest) = _
    rw [Parser.bind_ok (word16_bytes _ _)]; rfl

theorem disp32_bytes (d : Disp32) (rest : List Byte) : disp32 d.mod (d.bytes ++ rest) = .ok (d, rest) := by
  cases d with
  | none => rfl
  | d8 v => rfl
  | d32 v =>
    show (word32 >>= fun v => pure (Disp32.d32 v)) (bytes32 v ++ rest) = _
    rw [Parser.bind_ok (word32_bytes _ _)]; rfl

/-- The bytes of a memory form are a ModR/M byte with that `reg` field and a mod other than 3, and bytes from which the
form is read back. -/
theorem encodeMem_spec (g : BitVec 3) {asz : Size} {m : Mem} (h : m.wf asz = true) :
    ∃ b tl, encodeMem g m = b :: tl ∧ hiField b ≠ 3 ∧ midField b = g ∧
      ∀ rest, memForm asz (hiField b) (lowField b) (tl ++ rest) = .ok (m, rest) := by
  cases m with
  | abs16 d =>
    simp only [Mem.wf, beq_iff_eq] at h; subst h
    refine ⟨_, _, rfl, ?_, midField_pack _ _ _, fun rest => ?_⟩
    · rw [hiField_pack]; decide
    · simp only [memForm, hiField_pack, lowField_pack, and_self, if_true]
      rw [Parser.bind_ok (word16_bytes _ _)]; rfl
  | ind16 b d =>
    simp only [Mem.wf, Bool.and_eq_true, beq_iff_eq, Bool.not_eq_true'] at h; obtain ⟨rfl, h⟩ := h
    refine ⟨_, _, rfl, ?_, midField_pack _ _ _, fun rest => ?_⟩
    · rw [hiField_pack]; cases d <;> simp [Disp16.mod]
    · simp only [memForm, hiField_pack, lowField_pack]
      rw [if_neg, Parser.bind_ok (disp16_bytes _ _), Base16.ofBits_toBits]; rfl
      cases b <;> cases d <;> first | (revert h; decide) | (intro h; revert h; simp [Disp16.mod, Base16.toBits])
  | abs32 d =>
    simp only [Mem.wf, beq_iff_eq] at h; subst h
    refine ⟨_, _, rfl, ?_, midField_pack _ _ _, fun rest => ?_⟩
    · rw [hiField_pack]; decide
    · simp only [memForm, hiField_pack, lowField_pack]
      rw [if_neg (by decide), if_pos (by decide), Parser.bind_ok (word32_bytes _ _)]; rfl
  | ind32 b d =>
    simp only [Mem.wf, Bool.and_eq_true, beq_iff_eq, Bool.not_eq_true'] at h; obtain ⟨⟨rfl, hb⟩, h⟩ := h
    refine ⟨_, _, rfl, ?_, midField_pack _ _ _, fun rest => ?_⟩
    · rw [hiField_pack]; cases d <;> simp [Disp32.mod]
    · simp only [memForm, hiField_pack, lowField_pack]
      rw [if_neg, if_neg, Parser.bind_ok (disp32_bytes _ _), Reg.ofBits_toBits]; rfl
      · cases b <;> cases d <;> first | (revert h; decide) | (intro h; revert h; simp [Disp32.mod, Reg.toBits])
      · cases b <;> first | (revert hb; decide) | decide
  | sib s i b d =>
    simp only [Mem.wf, Bool.and_eq_true, beq_iff_eq, Bool.not_eq_true'] at h; obtain ⟨rfl, h⟩ := h
    refine ⟨_, _, rfl, ?_, midField_pack _ _ _, fun rest => ?_⟩
    · rw [hiField_pack]; cases d <;> simp [Disp32.mod]
    · simp only [memForm, hiField_pack, lowField_pack]
      rw [if_pos trivial, List.cons_append, Parser.bind_ok (nextByte_cons _ _), if_neg,
        Parser.bind_ok (disp32_bytes _ _)]
      · simp only [hiField_pack, midField_pack, lowField_pack, Reg.ofBits_toBits]; rfl
      · rw [lowField_pack]
        cases b <;> cases d <;> first | (revert h; decide) | (intro h; revert h; simp [Disp32.mod, Reg.toBits])
  | sibAbs s i d =>
    simp only [Mem.wf, beq_iff_eq] at h; subst h
    refine ⟨_, _, rfl, ?_, midField_pack _ _ _, fun rest => ?_⟩
    · rw [hiField_pack]; decide
    · simp only [memForm, hiField_pack, lowField_pack]
      rw [if_pos trivial, List.cons_append, Parser.bind_ok (nextByte_cons _ _), if_pos, 
        Parser.bind_ok (word32_bytes _ _)]
      · simp only [hiField_pack, midField_pack, Reg.ofBits_toBits]; rfl
      · rw [lowField_pack]; exact ⟨trivial, rfl⟩

/-- The bytes of a memory-only operand are read back. -/
theorem encodeMem_memOperand (g : BitVec 3) {asz : Size} {m : Mem} (h : m.wf asz = true) :
    ∃ b tl, encodeMem g m = b :: tl ∧ midField b = g ∧
      ∀ rest, memOperand asz b (tl ++ rest) = .ok (m, rest) := by
  obtain ⟨b, tl, e, hi, mid, read⟩ := encodeMem_spec g h
  exact ⟨b, tl, e, mid, fun rest => by rw [memOperand, if_neg hi]; exact read rest⟩

/-- The bytes of an r/m operand are read back. -/
theorem encodeRM_spec (g : BitVec 3) {asz : Size} {rm : RM} (h : rm.wf asz = true) :
    ∃ b tl, encodeRM g rm = b :: tl ∧ midField b = g ∧
      ∀ rest, rmOperand asz b (tl ++ rest) = .ok (rm, rest) := by
  cases rm with
  | reg r =>
    refine ⟨_, _, rfl, midField_pack _ _ _, fun rest => ?_⟩
    rw [rmOperand, if_pos (hiField_pack _ _ _), lowField_pack, Reg.ofBits_toBits]; rfl
  | mem m =>
    obtain ⟨b, tl, e, hi, mid, read⟩ := encodeMem_spec g h
    refine ⟨b, tl, e, mid, fun rest => ?_⟩
    rw [rmOperand, if_neg hi, Parser.bind_ok (read rest)]; rfl

end Sys2Proof
end

