-- ==== Sys2Proof/Laws/PerInstr.lean ====
section
/-! SUPPORT. PerInstr.lean: for each instruction, its encoding is read back as it (30_encoding.md R312, R350 to R352). -/

namespace Sys2Proof.Laws.RoundTrip

/-- Reading what `encode` writes gives the instruction back and leaves what follows (30_encoding.md R312, R350 to
R352). -/
def Statement (i : Instr) : Prop :=
  ∀ (osz asz : Size) (rest : List Byte), i.wf osz asz = true → decode osz asz (encode osz asz i ++ rest) = .ok (i, rest)

/-- An operand read by `read` after a byte whose `reg` field is `g`, from the bytes of an r/m operand. -/
theorem group_rm {asz : Size} {rm : RM} {g : BitVec 3} {f : Byte → Parser Instr} (K : RM → Parser Instr)
    (h : rm.wf asz = true) (rest : List Byte)
    (hf : ∀ b, midField b = g → f b = (rmOperand asz b >>= K)) :
    (nextByte >>= f) (encodeRM g rm ++ rest) = K rm rest := by
  obtain ⟨b, tl, e, mid, read⟩ := encodeRM_spec g h
  rw [e]
  refine (Parser.bind_ok (nextByte_cons _ _)).trans ?_
  rw [hf b mid]
  exact Parser.bind_ok (read _)

/-- The same for an operand that must be memory. -/
theorem group_mem {asz : Size} {m : Mem} {g : BitVec 3} {f : Byte → Parser Instr} (K : Mem → Parser Instr)
    (h : m.wf asz = true) (rest : List Byte)
    (hf : ∀ b, midField b = g → f b = (memOperand asz b >>= K)) :
    (nextByte >>= f) (encodeMem g m ++ rest) = K m rest := by
  obtain ⟨b, tl, e, mid, read⟩ := encodeMem_memOperand g h
  rw [e]
  refine (Parser.bind_ok (nextByte_cons _ _)).trans ?_
  rw [hf b mid]
  exact Parser.bind_ok (read _)

/-- An r/m operand and a register in the `reg` field. -/
theorem rm_reg {asz : Size} {rm : RM} {r : Reg} (C : RM → Reg → Instr) (h : rm.wf asz = true) (rest : List Byte) :
    (nextByte >>= fun b => rmOperand asz b >>= fun rm => pure (C rm (regField b))) (encodeRM r.toBits rm ++ rest) =
      .ok (C rm r, rest) :=
  group_rm (fun rm => pure (C rm r)) h rest fun b e => by simp only [regField, e, Reg.ofBits_toBits]

/-- The same with an immediate byte. -/
theorem rm_reg_byte {asz : Size} {rm : RM} {r : Reg} (C : RM → Reg → Byte → Instr) (h : rm.wf asz = true) (v : Byte)
    (rest : List Byte) :
    (nextByte >>= fun b => rmOperand asz b >>= fun rm => nextByte >>= fun v => pure (C rm (regField b) v))
      (encodeRM r.toBits rm ++ (v :: rest)) = .ok (C rm r v, rest) :=
  group_rm (fun rm => nextByte >>= fun v => pure (C rm r v)) h _ fun b e => by
    simp only [regField, e, Reg.ofBits_toBits]

/-- The same with an immediate of operand size. -/
theorem rm_reg_wordV {osz asz : Size} {rm : RM} {r : Reg} (C : RM → Reg → Word32 → Instr) (h : rm.wf asz = true)
    {v : Word32} (hv : fits osz v = true) (rest : List Byte) :
    (nextByte >>= fun b => rmOperand asz b >>= fun rm => wordV osz >>= fun v => pure (C rm (regField b) v))
      (encodeRM r.toBits rm ++ (bytesV osz v ++ rest)) = .ok (C rm r v, rest) :=
  (group_rm (fun rm => wordV osz >>= fun v => pure (C rm r v)) h _ fun b e => by
    simp only [regField, e, Reg.ofBits_toBits]).trans (Parser.bind_ok (wordV_bytes osz v hv rest))

/-- A memory operand and a register in the `reg` field. -/
theorem mem_reg {asz : Size} {m : Mem} {r : Reg} (C : Mem → Reg → Instr) (h : m.wf asz = true) (rest : List Byte) :
    (nextByte >>= fun b => memOperand asz b >>= fun m => pure (C m (regField b))) (encodeMem r.toBits m ++ rest) =
      .ok (C m r, rest) :=
  group_mem (fun m => pure (C m r)) h rest fun b e => by simp only [regField, e, Reg.ofBits_toBits]

/-- A value of a size and nothing else. -/
theorem word {sz : Size} (C : Word32 → Instr) {v : Word32} (h : fits sz v = true) (rest : List Byte) :
    (wordV sz >>= fun v => pure (C v)) (bytesV sz v ++ rest) = .ok (C v, rest) :=
  Parser.bind_ok (wordV_bytes sz v h rest)

/-- A far pointer: the offset, then the selector. -/
theorem pointer {sz : Size} (C : Word32 → Word16 → Instr) {off : Word32} (h : fits sz off = true) (sel : Word16)
    (rest : List Byte) :
    (wordV sz >>= fun off => word16 >>= fun sel => pure (C off sel)) (bytesV sz off ++ (bytes16 sel ++ rest)) =
      .ok (C off sel, rest) :=
  (Parser.bind_ok (wordV_bytes sz off h _)).trans (Parser.bind_ok (word16_bytes sel rest))

/-- A word and nothing else. -/
theorem word_16 (C : Word16 → Instr) (v : Word16) (rest : List Byte) :
    (word16 >>= fun v => pure (C v)) (bytes16 v ++ rest) = .ok (C v, rest) :=
  Parser.bind_ok (word16_bytes v rest)

/-- A special register and a general register in one byte. -/
theorem special {f : Byte → Parser Instr} (n : BitVec 3) (r : Reg) (C : BitVec 3 → Reg → Instr)
    (hf : ∀ b, f b = pure (C (midField b) (Reg.ofBits (lowField b)))) (rest : List Byte) :
    (nextByte >>= f) (packFields 3 n r.toBits :: rest) = .ok (C n r, rest) := by
  refine (Parser.bind_ok (nextByte_cons _ _)).trans ?_
  rw [hf, midField_pack, lowField_pack, Reg.ofBits_toBits]; rfl

theorem addEbGb (rm : RM) (r : Reg) : Statement (.addEbGb rm r) := fun osz asz rest h => by
  show decodeOpcode osz asz 0x00 (encodeRM r.toBits rm ++ rest) = _
  exact rm_reg (fun rm r => .addEbGb rm r) h rest

theorem addEvGv (rm : RM) (r : Reg) : Statement (.addEvGv rm r) := fun osz asz rest h => by
  show decodeOpcode osz asz 0x01 (encodeRM r.toBits rm ++ rest) = _
  exact rm_reg (fun rm r => .addEvGv rm r) h rest

theorem addGbEb (r : Reg) (rm : RM) : Statement (.addGbEb r rm) := fun osz asz rest h => by
  show decodeOpcode osz asz 0x02 (encodeRM r.toBits rm ++ rest) = _
  exact rm_reg (fun rm r => .addGbEb r rm) h rest

theorem addGvEv (r : Reg) (rm : RM) : Statement (.addGvEv r rm) := fun osz asz rest h => by
  show decodeOpcode osz asz 0x03 (encodeRM r.toBits rm ++ rest) = _
  exact rm_reg (fun rm r => .addGvEv r rm) h rest

theorem addAlIb (imm : Byte) : Statement (.addAlIb imm) := fun _ _ _ _ => by
  rfl

theorem addEaxIv (imm : Word32) : Statement (.addEaxIv imm) := fun osz asz rest h => by
  show decodeOpcode osz asz 0x05 (bytesV osz imm ++ rest) = _
  exact word (fun imm => .addEaxIv imm) h rest

theorem addEbIb (rm : RM) (imm : Byte) : Statement (.addEbIb rm imm) := fun osz asz rest h => by
  show decodeOpcode osz asz 0x80 ((encodeRM 0 rm ++ [imm]) ++ rest) = _
  rw [List.append_assoc]
  exact group_rm (fun rm => nextByte >>= fun imm => pure (.addEbIb rm imm)) h _ fun b e => by rw [e]; rfl

theorem addEvIv (rm : RM) (imm : Word32) : Statement (.addEvIv rm imm) := fun osz asz rest h => by
  have h := Bool.and_eq_true_iff.mp h
  show decodeOpcode osz asz 0x81 ((encodeRM 0 rm ++ bytesV osz imm) ++ rest) = _
  rw [List.append_assoc]
  exact (group_rm (fun rm => wordV osz >>= fun imm => pure (.addEvIv rm imm)) h.1 _ fun b e => by rw [e]; rfl).trans
    (Parser.bind_ok (wordV_bytes osz imm h.2 rest))

theorem addEvIb (rm : RM) (imm : Byte) : Statement (.addEvIb rm imm) := fun osz asz rest h => by
  show decodeOpcode osz asz 0x83 ((encodeRM 0 rm ++ [imm]) ++ rest) = _
  rw [List.append_assoc]
  exact group_rm (fun rm => nextByte >>= fun imm => pure (.addEvIb rm imm)) h _ fun b e => by rw [e]; rfl

theorem orEbGb (rm : RM) (r : Reg) : Statement (.orEbGb rm r) := fun osz asz rest h => by
  show decodeOpcode osz asz 0x08 (encodeRM r.toBits rm ++ rest) = _
  exact rm_reg (fun rm r => .orEbGb rm r) h rest

theorem orEvGv (rm : RM) (r : Reg) : Statement (.orEvGv rm r) := fun osz asz rest h => by
  show decodeOpcode osz asz 0x09 (encodeRM r.toBits rm ++ rest) = _
  exact rm_reg (fun rm r => .orEvGv rm r) h rest

theorem orGbEb (r : Reg) (rm : RM) : Statement (.orGbEb r rm) := fun osz asz rest h => by
  show decodeOpcode osz asz 0x0A (encodeRM r.toBits rm ++ rest) = _
  exact rm_reg (fun rm r => .orGbEb r rm) h rest

theorem orGvEv (r : Reg) (rm : RM) : Statement (.orGvEv r rm) := fun osz asz rest h => by
  show decodeOpcode osz asz 0x0B (encodeRM r.toBits rm ++ rest) = _
  exact rm_reg (fun rm r => .orGvEv r rm) h rest

theorem orAlIb (imm : Byte) : Statement (.orAlIb imm) := fun _ _ _ _ => by
  rfl

theorem orEaxIv (imm : Word32) : Statement (.orEaxIv imm) := fun osz asz rest h => by
  show decodeOpcode osz asz 0x0D (bytesV osz imm ++ rest) = _
  exact word (fun imm => .orEaxIv imm) h rest

theorem orEbIb (rm : RM) (imm : Byte) : Statement (.orEbIb rm imm) := fun osz asz rest h => by
  show decodeOpcode osz asz 0x80 ((encodeRM 1 rm ++ [imm]) ++ rest) = _
  rw [List.append_assoc]
  exact group_rm (fun rm => nextByte >>= fun imm => pure (.orEbIb rm imm)) h _ fun b e => by rw [e]; rfl

theorem orEvIv (rm : RM) (imm : Word32) : Statement (.orEvIv rm imm) := fun osz asz rest h => by
  have h := Bool.and_eq_true_iff.mp h
  show decodeOpcode osz asz 0x81 ((encodeRM 1 rm ++ bytesV osz imm) ++ rest) = _
  rw [List.append_assoc]
  exact (group_rm (fun rm => wordV osz >>= fun imm => pure (.orEvIv rm imm)) h.1 _ fun b e => by rw [e]; rfl).trans
    (Parser.bind_ok (wordV_bytes osz imm h.2 rest))

theorem orEvIb (rm : RM) (imm : Byte) : Statement (.orEvIb rm imm) := fun osz asz rest h => by
  show decodeOpcode osz asz 0x83 ((encodeRM 1 rm ++ [imm]) ++ rest) = _
  rw [List.append_assoc]
  exact group_rm (fun rm => nextByte >>= fun imm => pure (.orEvIb rm imm)) h _ fun b e => by rw [e]; rfl

theorem adcEbGb (rm : RM) (r : Reg) : Statement (.adcEbGb rm r) := fun osz asz rest h => by
  show decodeOpcode osz asz 0x10 (encodeRM r.toBits rm ++ rest) = _
  exact rm_reg (fun rm r => .adcEbGb rm r) h rest

theorem adcEvGv (rm : RM) (r : Reg) : Statement (.adcEvGv rm r) := fun osz asz rest h => by
  show decodeOpcode osz asz 0x11 (encodeRM r.toBits rm ++ rest) = _
  exact rm_reg (fun rm r => .adcEvGv rm r) h rest

theorem adcGbEb (r : Reg) (rm : RM) : Statement (.adcGbEb r rm) := fun osz asz rest h => by
  show decodeOpcode osz asz 0x12 (encodeRM r.toBits rm ++ rest) = _
  exact rm_reg (fun rm r => .adcGbEb r rm) h rest

theorem adcGvEv (r : Reg) (rm : RM) : Statement (.adcGvEv r rm) := fun osz asz rest h => by
  show decodeOpcode osz asz 0x13 (encodeRM r.toBits rm ++ rest) = _
  exact rm_reg (fun rm r => .adcGvEv r rm) h rest

theorem adcAlIb (imm : Byte) : Statement (.adcAlIb imm) := fun _ _ _ _ => by
  rfl

theorem adcEaxIv (imm : Word32) : Statement (.adcEaxIv imm) := fun osz asz rest h => by
  show decodeOpcode osz asz 0x15 (bytesV osz imm ++ rest) = _
  exact word (fun imm => .adcEaxIv imm) h rest

theorem adcEbIb (rm : RM) (imm : Byte) : Statement (.adcEbIb rm imm) := fun osz asz rest h => by
  show decodeOpcode osz asz 0x80 ((encodeRM 2 rm ++ [imm]) ++ rest) = _
  rw [List.append_assoc]
  exact group_rm (fun rm => nextByte >>= fun imm => pure (.adcEbIb rm imm)) h _ fun b e => by rw [e]; rfl

theorem adcEvIv (rm : RM) (imm : Word32) : Statement (.adcEvIv rm imm) := fun osz asz rest h => by
  have h := Bool.and_eq_true_iff.mp h
  show decodeOpcode osz asz 0x81 ((encodeRM 2 rm ++ bytesV osz imm) ++ rest) = _
  rw [List.append_assoc]
  exact (group_rm (fun rm => wordV osz >>= fun imm => pure (.adcEvIv rm imm)) h.1 _ fun b e => by rw [e]; rfl).trans
    (Parser.bind_ok (wordV_bytes osz imm h.2 rest))

theorem adcEvIb (rm : RM) (imm : Byte) : Statement (.adcEvIb rm imm) := fun osz asz rest h => by
  show decodeOpcode osz asz 0x83 ((encodeRM 2 rm ++ [imm]) ++ rest) = _
  rw [List.append_assoc]
  exact group_rm (fun rm => nextByte >>= fun imm => pure (.adcEvIb rm imm)) h _ fun b e => by rw [e]; rfl

theorem sbbEbGb (rm : RM) (r : Reg) : Statement (.sbbEbGb rm r) := fun osz asz rest h => by
  show decodeOpcode osz asz 0x18 (encodeRM r.toBits rm ++ rest) = _
  exact rm_reg (fun rm r => .sbbEbGb rm r) h rest

theorem sbbEvGv (rm : RM) (r : Reg) : Statement (.sbbEvGv rm r) := fun osz asz rest h => by
  show decodeOpcode osz asz 0x19 (encodeRM r.toBits rm ++ rest) = _
  exact rm_reg (fun rm r => .sbbEvGv rm r) h rest

theorem sbbGbEb (r : Reg) (rm : RM) : Statement (.sbbGbEb r rm) := fun osz asz rest h => by
  show decodeOpcode osz asz 0x1A (encodeRM r.toBits rm ++ rest) = _
  exact rm_reg (fun rm r => .sbbGbEb r rm) h rest

theorem sbbGvEv (r : Reg) (rm : RM) : Statement (.sbbGvEv r rm) := fun osz asz rest h => by
  show decodeOpcode osz asz 0x1B (encodeRM r.toBits rm ++ rest) = _
  exact rm_reg (fun rm r => .sbbGvEv r rm) h rest

theorem sbbAlIb (imm : Byte) : Statement (.sbbAlIb imm) := fun _ _ _ _ => by
  rfl

theorem sbbEaxIv (imm : Word32) : Statement (.sbbEaxIv imm) := fun osz asz rest h => by
  show decodeOpcode osz asz 0x1D (bytesV osz imm ++ rest) = _
  exact word (fun imm => .sbbEaxIv imm) h rest

theorem sbbEbIb (rm : RM) (imm : Byte) : Statement (.sbbEbIb rm imm) := fun osz asz rest h => by
  show decodeOpcode osz asz 0x80 ((encodeRM 3 rm ++ [imm]) ++ rest) = _
  rw [List.append_assoc]
  exact group_rm (fun rm => nextByte >>= fun imm => pure (.sbbEbIb rm imm)) h _ fun b e => by rw [e]; rfl

theorem sbbEvIv (rm : RM) (imm : Word32) : Statement (.sbbEvIv rm imm) := fun osz asz rest h => by
  have h := Bool.and_eq_true_iff.mp h
  show decodeOpcode osz asz 0x81 ((encodeRM 3 rm ++ bytesV osz imm) ++ rest) = _
  rw [List.append_assoc]
  exact (group_rm (fun rm => wordV osz >>= fun imm => pure (.sbbEvIv rm imm)) h.1 _ fun b e => by rw [e]; rfl).trans
    (Parser.bind_ok (wordV_bytes osz imm h.2 rest))

theorem sbbEvIb (rm : RM) (imm : Byte) : Statement (.sbbEvIb rm imm) := fun osz asz rest h => by
  show decodeOpcode osz asz 0x83 ((encodeRM 3 rm ++ [imm]) ++ rest) = _
  rw [List.append_assoc]
  exact group_rm (fun rm => nextByte >>= fun imm => pure (.sbbEvIb rm imm)) h _ fun b e => by rw [e]; rfl

theorem andEbGb (rm : RM) (r : Reg) : Statement (.andEbGb rm r) := fun osz asz rest h => by
  show decodeOpcode osz asz 0x20 (encodeRM r.toBits rm ++ rest) = _
  exact rm_reg (fun rm r => .andEbGb rm r) h rest

theorem andEvGv (rm : RM) (r : Reg) : Statement (.andEvGv rm r) := fun osz asz rest h => by
  show decodeOpcode osz asz 0x21 (encodeRM r.toBits rm ++ rest) = _
  exact rm_reg (fun rm r => .andEvGv rm r) h rest

theorem andGbEb (r : Reg) (rm : RM) : Statement (.andGbEb r rm) := fun osz asz rest h => by
  show decodeOpcode osz asz 0x22 (encodeRM r.toBits rm ++ rest) = _
  exact rm_reg (fun rm r => .andGbEb r rm) h rest

theorem andGvEv (r : Reg) (rm : RM) : Statement (.andGvEv r rm) := fun osz asz rest h => by
  show decodeOpcode osz asz 0x23 (encodeRM r.toBits rm ++ rest) = _
  exact rm_reg (fun rm r => .andGvEv r rm) h rest

theorem andAlIb (imm : Byte) : Statement (.andAlIb imm) := fun _ _ _ _ => by
  rfl

theorem andEaxIv (imm : Word32) : Statement (.andEaxIv imm) := fun osz asz rest h => by
  show decodeOpcode osz asz 0x25 (bytesV osz imm ++ rest) = _
  exact word (fun imm => .andEaxIv imm) h rest

theorem andEbIb (rm : RM) (imm : Byte) : Statement (.andEbIb rm imm) := fun osz asz rest h => by
  show decodeOpcode osz asz 0x80 ((encodeRM 4 rm ++ [imm]) ++ rest) = _
  rw [List.append_assoc]
  exact group_rm (fun rm => nextByte >>= fun imm => pure (.andEbIb rm imm)) h _ fun b e => by rw [e]; rfl

theorem andEvIv (rm : RM) (imm : Word32) : Statement (.andEvIv rm imm) := fun osz asz rest h => by
  have h := Bool.and_eq_true_iff.mp h
  show decodeOpcode osz asz 0x81 ((encodeRM 4 rm ++ bytesV osz imm) ++ rest) = _
  rw [List.append_assoc]
  exact (group_rm (fun rm => wordV osz >>= fun imm => pure (.andEvIv rm imm)) h.1 _ fun b e => by rw [e]; rfl).trans
    (Parser.bind_ok (wordV_bytes osz imm h.2 rest))

theorem andEvIb (rm : RM) (imm : Byte) : Statement (.andEvIb rm imm) := fun osz asz rest h => by
  show decodeOpcode osz asz 0x83 ((encodeRM 4 rm ++ [imm]) ++ rest) = _
  rw [List.append_assoc]
  exact group_rm (fun rm => nextByte >>= fun imm => pure (.andEvIb rm imm)) h _ fun b e => by rw [e]; rfl

theorem subEbGb (rm : RM) (r : Reg) : Statement (.subEbGb rm r) := fun osz asz rest h => by
  show decodeOpcode osz asz 0x28 (encodeRM r.toBits rm ++ rest) = _
  exact rm_reg (fun rm r => .subEbGb rm r) h rest

theorem subEvGv (rm : RM) (r : Reg) : Statement (.subEvGv rm r) := fun osz asz rest h => by
  show decodeOpcode osz asz 0x29 (encodeRM r.toBits rm ++ rest) = _
  exact rm_reg (fun rm r => .subEvGv rm r) h rest

theorem subGbEb (r : Reg) (rm : RM) : Statement (.subGbEb r rm) := fun osz asz rest h => by
  show decodeOpcode osz asz 0x2A (encodeRM r.toBits rm ++ rest) = _
  exact rm_reg (fun rm r => .subGbEb r rm) h rest

theorem subGvEv (r : Reg) (rm : RM) : Statement (.subGvEv r rm) := fun osz asz rest h => by
  show decodeOpcode osz asz 0x2B (encodeRM r.toBits rm ++ rest) = _
  exact rm_reg (fun rm r => .subGvEv r rm) h rest

theorem subAlIb (imm : Byte) : Statement (.subAlIb imm) := fun _ _ _ _ => by
  rfl

theorem subEaxIv (imm : Word32) : Statement (.subEaxIv imm) := fun osz asz rest h => by
  show decodeOpcode osz asz 0x2D (bytesV osz imm ++ rest) = _
  exact word (fun imm => .subEaxIv imm) h rest

theorem subEbIb (rm : RM) (imm : Byte) : Statement (.subEbIb rm imm) := fun osz asz rest h => by
  show decodeOpcode osz asz 0x80 ((encodeRM 5 rm ++ [imm]) ++ rest) = _
  rw [List.append_assoc]
  exact group_rm (fun rm => nextByte >>= fun imm => pure (.subEbIb rm imm)) h _ fun b e => by rw [e]; rfl

theorem subEvIv (rm : RM) (imm : Word32) : Statement (.subEvIv rm imm) := fun osz asz rest h => by
  have h := Bool.and_eq_true_iff.mp h
  show decodeOpcode osz asz 0x81 ((encodeRM 5 rm ++ bytesV osz imm) ++ rest) = _
  rw [List.append_assoc]
  exact (group_rm (fun rm => wordV osz >>= fun imm => pure (.subEvIv rm imm)) h.1 _ fun b e => by rw [e]; rfl).trans
    (Parser.bind_ok (wordV_bytes osz imm h.2 rest))

theorem subEvIb (rm : RM) (imm : Byte) : Statement (.subEvIb rm imm) := fun osz asz rest h => by
  show decodeOpcode osz asz 0x83 ((encodeRM 5 rm ++ [imm]) ++ rest) = _
  rw [List.append_assoc]
  exact group_rm (fun rm => nextByte >>= fun imm => pure (.subEvIb rm imm)) h _ fun b e => by rw [e]; rfl

theorem xorEbGb (rm : RM) (r : Reg) : Statement (.xorEbGb rm r) := fun osz asz rest h => by
  show decodeOpcode osz asz 0x30 (encodeRM r.toBits rm ++ rest) = _
  exact rm_reg (fun rm r => .xorEbGb rm r) h rest

theorem xorEvGv (rm : RM) (r : Reg) : Statement (.xorEvGv rm r) := fun osz asz rest h => by
  show decodeOpcode osz asz 0x31 (encodeRM r.toBits rm ++ rest) = _
  exact rm_reg (fun rm r => .xorEvGv rm r) h rest

theorem xorGbEb (r : Reg) (rm : RM) : Statement (.xorGbEb r rm) := fun osz asz rest h => by
  show decodeOpcode osz asz 0x32 (encodeRM r.toBits rm ++ rest) = _
  exact rm_reg (fun rm r => .xorGbEb r rm) h rest

theorem xorGvEv (r : Reg) (rm : RM) : Statement (.xorGvEv r rm) := fun osz asz rest h => by
  show decodeOpcode osz asz 0x33 (encodeRM r.toBits rm ++ rest) = _
  exact rm_reg (fun rm r => .xorGvEv r rm) h rest

theorem xorAlIb (imm : Byte) : Statement (.xorAlIb imm) := fun _ _ _ _ => by
  rfl

theorem xorEaxIv (imm : Word32) : Statement (.xorEaxIv imm) := fun osz asz rest h => by
  show decodeOpcode osz asz 0x35 (bytesV osz imm ++ rest) = _
  exact word (fun imm => .xorEaxIv imm) h rest

theorem xorEbIb (rm : RM) (imm : Byte) : Statement (.xorEbIb rm imm) := fun osz asz rest h => by
  show decodeOpcode osz asz 0x80 ((encodeRM 6 rm ++ [imm]) ++ rest) = _
  rw [List.append_assoc]
  exact group_rm (fun rm => nextByte >>= fun imm => pure (.xorEbIb rm imm)) h _ fun b e => by rw [e]; rfl

theorem xorEvIv (rm : RM) (imm : Word32) : Statement (.xorEvIv rm imm) := fun osz asz rest h => by
  have h := Bool.and_eq_true_iff.mp h
  show decodeOpcode osz asz 0x81 ((encodeRM 6 rm ++ bytesV osz imm) ++ rest) = _
  rw [List.append_assoc]
  exact (group_rm (fun rm => wordV osz >>= fun imm => pure (.xorEvIv rm imm)) h.1 _ fun b e => by rw [e]; rfl).trans
    (Parser.bind_ok (wordV_bytes osz imm h.2 rest))

theorem xorEvIb (rm : RM) (imm : Byte) : Statement (.xorEvIb rm imm) := fun osz asz rest h => by
  show decodeOpcode osz asz 0x83 ((encodeRM 6 rm ++ [imm]) ++ rest) = _
  rw [List.append_assoc]
  exact group_rm (fun rm => nextByte >>= fun imm => pure (.xorEvIb rm imm)) h _ fun b e => by rw [e]; rfl

theorem cmpEbGb (rm : RM) (r : Reg) : Statement (.cmpEbGb rm r) := fun osz asz rest h => by
  show decodeOpcode osz asz 0x38 (encodeRM r.toBits rm ++ rest) = _
  exact rm_reg (fun rm r => .cmpEbGb rm r) h rest

theorem cmpEvGv (rm : RM) (r : Reg) : Statement (.cmpEvGv rm r) := fun osz asz rest h => by
  show decodeOpcode osz asz 0x39 (encodeRM r.toBits rm ++ rest) = _
  exact rm_reg (fun rm r => .cmpEvGv rm r) h rest

theorem cmpGbEb (r : Reg) (rm : RM) : Statement (.cmpGbEb r rm) := fun osz asz rest h => by
  show decodeOpcode osz asz 0x3A (encodeRM r.toBits rm ++ rest) = _
  exact rm_reg (fun rm r => .cmpGbEb r rm) h rest

theorem cmpGvEv (r : Reg) (rm : RM) : Statement (.cmpGvEv r rm) := fun osz asz rest h => by
  show decodeOpcode osz asz 0x3B (encodeRM r.toBits rm ++ rest) = _
  exact rm_reg (fun rm r => .cmpGvEv r rm) h rest

theorem cmpAlIb (imm : Byte) : Statement (.cmpAlIb imm) := fun _ _ _ _ => by
  rfl

theorem cmpEaxIv (imm : Word32) : Statement (.cmpEaxIv imm) := fun osz asz rest h => by
  show decodeOpcode osz asz 0x3D (bytesV osz imm ++ rest) = _
  exact word (fun imm => .cmpEaxIv imm) h rest

theorem cmpEbIb (rm : RM) (imm : Byte) : Statement (.cmpEbIb rm imm) := fun osz asz rest h => by
  show decodeOpcode osz asz 0x80 ((encodeRM 7 rm ++ [imm]) ++ rest) = _
  rw [List.append_assoc]
  exact group_rm (fun rm => nextByte >>= fun imm => pure (.cmpEbIb rm imm)) h _ fun b e => by rw [e]; rfl

theorem cmpEvIv (rm : RM) (imm : Word32) : Statement (.cmpEvIv rm imm) := fun osz asz rest h => by
  have h := Bool.and_eq_true_iff.mp h
  show decodeOpcode osz asz 0x81 ((encodeRM 7 rm ++ bytesV osz imm) ++ rest) = _
  rw [List.append_assoc]
  exact (group_rm (fun rm => wordV osz >>= fun imm => pure (.cmpEvIv rm imm)) h.1 _ fun b e => by rw [e]; rfl).trans
    (Parser.bind_ok (wordV_bytes osz imm h.2 rest))

theorem cmpEvIb (rm : RM) (imm : Byte) : Statement (.cmpEvIb rm imm) := fun osz asz rest h => by
  show decodeOpcode osz asz 0x83 ((encodeRM 7 rm ++ [imm]) ++ rest) = _
  rw [List.append_assoc]
  exact group_rm (fun rm => nextByte >>= fun imm => pure (.cmpEvIb rm imm)) h _ fun b e => by rw [e]; rfl

theorem incRv (r : Reg) : Statement (.incRv r) := fun _ _ _ _ => by
  cases r <;> rfl

theorem decRv (r : Reg) : Statement (.decRv r) := fun _ _ _ _ => by
  cases r <;> rfl

theorem pushRv (r : Reg) : Statement (.pushRv r) := fun _ _ _ _ => by
  cases r <;> rfl

theorem popRv (r : Reg) : Statement (.popRv r) := fun _ _ _ _ => by
  cases r <;> rfl

theorem boundGvMa (r : Reg) (m : Mem) : Statement (.boundGvMa r m) := fun osz asz rest h => by
  show decodeOpcode osz asz 0x62 (encodeMem r.toBits m ++ rest) = _
  exact mem_reg (fun m r => .boundGvMa r m) h rest

theorem arplEwGw (rm : RM) (r : Reg) : Statement (.arplEwGw rm r) := fun osz asz rest h => by
  show decodeOpcode osz asz 0x63 (encodeRM r.toBits rm ++ rest) = _
  exact rm_reg (fun rm r => .arplEwGw rm r) h rest

theorem pushIv (imm : Word32) : Statement (.pushIv imm) := fun osz asz rest h => by
  show decodeOpcode osz asz 0x68 (bytesV osz imm ++ rest) = _
  exact word (fun imm => .pushIv imm) h rest

theorem imulGvEvIv (r : Reg) (rm : RM) (imm : Word32) : Statement (.imulGvEvIv r rm imm) := fun osz asz rest h => by
  have h := Bool.and_eq_true_iff.mp h
  show decodeOpcode osz asz 0x69 ((encodeRM r.toBits rm ++ bytesV osz imm) ++ rest) = _
  rw [List.append_assoc]
  exact rm_reg_wordV (fun rm r imm => .imulGvEvIv r rm imm) h.1 h.2 rest

theorem pushIb (imm : Byte) : Statement (.pushIb imm) := fun _ _ _ _ => by
  rfl

theorem imulGvEvIb (r : Reg) (rm : RM) (imm : Byte) : Statement (.imulGvEvIb r rm imm) := fun osz asz rest h => by
  show decodeOpcode osz asz 0x6B ((encodeRM r.toBits rm ++ [imm]) ++ rest) = _
  rw [List.append_assoc]
  exact rm_reg_byte (fun rm r imm => .imulGvEvIb r rm imm) h imm rest

theorem jo (disp : RelDisp) : Statement (.jo disp) := fun osz asz rest h => by
  cases disp with
  | short imm =>
    rfl
  | near imm =>
    show decodeTwoByte osz asz 0x80 (bytesV osz imm ++ rest) = _
    exact word (fun imm => .jo (.near imm)) h rest

theorem jno (disp : RelDisp) : Statement (.jno disp) := fun osz asz rest h => by
  cases disp with
  | short imm =>
    rfl
  | near imm =>
    show decodeTwoByte osz asz 0x81 (bytesV osz imm ++ rest) = _
    exact word (fun imm => .jno (.near imm)) h rest

theorem jb (disp : RelDisp) : Statement (.jb disp) := fun osz asz rest h => by
  cases disp with
  | short imm =>
    rfl
  | near imm =>
    show decodeTwoByte osz asz 0x82 (bytesV osz imm ++ rest) = _
    exact word (fun imm => .jb (.near imm)) h rest

theorem jae (disp : RelDisp) : Statement (.jae disp) := fun osz asz rest h => by
  cases disp with
  | short imm =>
    rfl
  | near imm =>
    show decodeTwoByte osz asz 0x83 (bytesV osz imm ++ rest) = _
    exact word (fun imm => .jae (.near imm)) h rest

theorem je (disp : RelDisp) : Statement (.je disp) := fun osz asz rest h => by
  cases disp with
  | short imm =>
    rfl
  | near imm =>
    show decodeTwoByte osz asz 0x84 (bytesV osz imm ++ rest) = _
    exact word (fun imm => .je (.near imm)) h rest

theorem jne (disp : RelDisp) : Statement (.jne disp) := fun osz asz rest h => by
  cases disp with
  | short imm =>
    rfl
  | near imm =>
    show decodeTwoByte osz asz 0x85 (bytesV osz imm ++ rest) = _
    exact word (fun imm => .jne (.near imm)) h rest

theorem jbe (disp : RelDisp) : Statement (.jbe disp) := fun osz asz rest h => by
  cases disp with
  | short imm =>
    rfl
  | near imm =>
    show decodeTwoByte osz asz 0x86 (bytesV osz imm ++ rest) = _
    exact word (fun imm => .jbe (.near imm)) h rest

theorem ja (disp : RelDisp) : Statement (.ja disp) := fun osz asz rest h => by
  cases disp with
  | short imm =>
    rfl
  | near imm =>
    show decodeTwoByte osz asz 0x87 (bytesV osz imm ++ rest) = _
    exact word (fun imm => .ja (.near imm)) h rest

theorem js (disp : RelDisp) : Statement (.js disp) := fun osz asz rest h => by
  cases disp with
  | short imm =>
    rfl
  | near imm =>
    show decodeTwoByte osz asz 0x88 (bytesV osz imm ++ rest) = _
    exact word (fun imm => .js (.near imm)) h rest

theorem jns (disp : RelDisp) : Statement (.jns disp) := fun osz asz rest h => by
  cases disp with
  | short imm =>
    rfl
  | near imm =>
    show decodeTwoByte osz asz 0x89 (bytesV osz imm ++ rest) = _
    exact word (fun imm => .jns (.near imm)) h rest

theorem jp (disp : RelDisp) : Statement (.jp disp) := fun osz asz rest h => by
  cases disp with
  | short imm =>
    rfl
  | near imm =>
    show decodeTwoByte osz asz 0x8A (bytesV osz imm ++ rest) = _
    exact word (fun imm => .jp (.near imm)) h rest

theorem jnp (disp : RelDisp) : Statement (.jnp disp) := fun osz asz rest h => by
  cases disp with
  | short imm =>
    rfl
  | near imm =>
    show decodeTwoByte osz asz 0x8B (bytesV osz imm ++ rest) = _
    exact word (fun imm => .jnp (.near imm)) h rest

theorem jl (disp : RelDisp) : Statement (.jl disp) := fun osz asz rest h => by
  cases disp with
  | short imm =>
    rfl
  | near imm =>
    show decodeTwoByte osz asz 0x8C (bytesV osz imm ++ rest) = _
    exact word (fun imm => .jl (.near imm)) h rest

theorem jge (disp : RelDisp) : Statement (.jge disp) := fun osz asz rest h => by
  cases disp with
  | short imm =>
    rfl
  | near imm =>
    show decodeTwoByte osz asz 0x8D (bytesV osz imm ++ rest) = _
    exact word (fun imm => .jge (.near imm)) h rest

theorem jle (disp : RelDisp) : Statement (.jle disp) := fun osz asz rest h => by
  cases disp with
  | short imm =>
    rfl
  | near imm =>
    show decodeTwoByte osz asz 0x8E (bytesV osz imm ++ rest) = _
    exact word (fun imm => .jle (.near imm)) h rest

theorem jg (disp : RelDisp) : Statement (.jg disp) := fun osz asz rest h => by
  cases disp with
  | short imm =>
    rfl
  | near imm =>
    show decodeTwoByte osz asz 0x8F (bytesV osz imm ++ rest) = _
    exact word (fun imm => .jg (.near imm)) h rest

theorem setoEb (rm : RM) : Statement (.setoEb rm) := fun osz asz rest h => by
  show decodeTwoByte osz asz 0x90 (encodeRM 0 rm ++ rest) = _
  exact group_rm (fun rm => pure (.setoEb rm)) h _ fun b e => by rfl

theorem setnoEb (rm : RM) : Statement (.setnoEb rm) := fun osz asz rest h => by
  show decodeTwoByte osz asz 0x91 (encodeRM 0 rm ++ rest) = _
  exact group_rm (fun rm => pure (.setnoEb rm)) h _ fun b e => by rfl

theorem setbEb (rm : RM) : Statement (.setbEb rm) := fun osz asz rest h => by
  show decodeTwoByte osz asz 0x92 (encodeRM 0 rm ++ rest) = _
  exact group_rm (fun rm => pure (.setbEb rm)) h _ fun b e => by rfl

theorem setaeEb (rm : RM) : Statement (.setaeEb rm) := fun osz asz rest h => by
  show decodeTwoByte osz asz 0x93 (encodeRM 0 rm ++ rest) = _
  exact group_rm (fun rm => pure (.setaeEb rm)) h _ fun b e => by rfl

theorem seteEb (rm : RM) : Statement (.seteEb rm) := fun osz asz rest h => by
  show decodeTwoByte osz asz 0x94 (encodeRM 0 rm ++ rest) = _
  exact group_rm (fun rm => pure (.seteEb rm)) h _ fun b e => by rfl

theorem setneEb (rm : RM) : Statement (.setneEb rm) := fun osz asz rest h => by
  show decodeTwoByte osz asz 0x95 (encodeRM 0 rm ++ rest) = _
  exact group_rm (fun rm => pure (.setneEb rm)) h _ fun b e => by rfl

theorem setbeEb (rm : RM) : Statement (.setbeEb rm) := fun osz asz rest h => by
  show decodeTwoByte osz asz 0x96 (encodeRM 0 rm ++ rest) = _
  exact group_rm (fun rm => pure (.setbeEb rm)) h _ fun b e => by rfl

theorem setaEb (rm : RM) : Statement (.setaEb rm) := fun osz asz rest h => by
  show decodeTwoByte osz asz 0x97 (encodeRM 0 rm ++ rest) = _
  exact group_rm (fun rm => pure (.setaEb rm)) h _ fun b e => by rfl

theorem setsEb (rm : RM) : Statement (.setsEb rm) := fun osz asz rest h => by
  show decodeTwoByte osz asz 0x98 (encodeRM 0 rm ++ rest) = _
  exact group_rm (fun rm => pure (.setsEb rm)) h _ fun b e => by rfl

theorem setnsEb (rm : RM) : Statement (.setnsEb rm) := fun osz asz rest h => by
  show decodeTwoByte osz asz 0x99 (encodeRM 0 rm ++ rest) = _
  exact group_rm (fun rm => pure (.setnsEb rm)) h _ fun b e => by rfl

theorem setpEb (rm : RM) : Statement (.setpEb rm) := fun osz asz rest h => by
  show decodeTwoByte osz asz 0x9A (encodeRM 0 rm ++ rest) = _
  exact group_rm (fun rm => pure (.setpEb rm)) h _ fun b e => by rfl

theorem setnpEb (rm : RM) : Statement (.setnpEb rm) := fun osz asz rest h => by
  show decodeTwoByte osz asz 0x9B (encodeRM 0 rm ++ rest) = _
  exact group_rm (fun rm => pure (.setnpEb rm)) h _ fun b e => by rfl

theorem setlEb (rm : RM) : Statement (.setlEb rm) := fun osz asz rest h => by
  show decodeTwoByte osz asz 0x9C (encodeRM 0 rm ++ rest) = _
  exact group_rm (fun rm => pure (.setlEb rm)) h _ fun b e => by rfl

theorem setgeEb (rm : RM) : Statement (.setgeEb rm) := fun osz asz rest h => by
  show decodeTwoByte osz asz 0x9D (encodeRM 0 rm ++ rest) = _
  exact group_rm (fun rm => pure (.setgeEb rm)) h _ fun b e => by rfl

theorem setleEb (rm : RM) : Statement (.setleEb rm) := fun osz asz rest h => by
  show decodeTwoByte osz asz 0x9E (encodeRM 0 rm ++ rest) = _
  exact group_rm (fun rm => pure (.setleEb rm)) h _ fun b e => by rfl

theorem setgEb (rm : RM) : Statement (.setgEb rm) := fun osz asz rest h => by
  show decodeTwoByte osz asz 0x9F (encodeRM 0 rm ++ rest) = _
  exact group_rm (fun rm => pure (.setgEb rm)) h _ fun b e => by rfl

theorem testEbGb (rm : RM) (r : Reg) : Statement (.testEbGb rm r) := fun osz asz rest h => by
  show decodeOpcode osz asz 0x84 (encodeRM r.toBits rm ++ rest) = _
  exact rm_reg (fun rm r => .testEbGb rm r) h rest

theorem testEvGv (rm : RM) (r : Reg) : Statement (.testEvGv rm r) := fun osz asz rest h => by
  show decodeOpcode osz asz 0x85 (encodeRM r.toBits rm ++ rest) = _
  exact rm_reg (fun rm r => .testEvGv rm r) h rest

theorem xchgEbGb (rm : RM) (r : Reg) : Statement (.xchgEbGb rm r) := fun osz asz rest h => by
  show decodeOpcode osz asz 0x86 (encodeRM r.toBits rm ++ rest) = _
  exact rm_reg (fun rm r => .xchgEbGb rm r) h rest

theorem xchgEvGv (rm : RM) (r : Reg) : Statement (.xchgEvGv rm r) := fun osz asz rest h => by
  show decodeOpcode osz asz 0x87 (encodeRM r.toBits rm ++ rest) = _
  exact rm_reg (fun rm r => .xchgEvGv rm r) h rest

theorem movEbGb (rm : RM) (r : Reg) : Statement (.movEbGb rm r) := fun osz asz rest h => by
  show decodeOpcode osz asz 0x88 (encodeRM r.toBits rm ++ rest) = _
  exact rm_reg (fun rm r => .movEbGb rm r) h rest

theorem movEvGv (rm : RM) (r : Reg) : Statement (.movEvGv rm r) := fun osz asz rest h => by
  show decodeOpcode osz asz 0x89 (encodeRM r.toBits rm ++ rest) = _
  exact rm_reg (fun rm r => .movEvGv rm r) h rest

theorem movGbEb (r : Reg) (rm : RM) : Statement (.movGbEb r rm) := fun osz asz rest h => by
  show decodeOpcode osz asz 0x8A (encodeRM r.toBits rm ++ rest) = _
  exact rm_reg (fun rm r => .movGbEb r rm) h rest

theorem movGvEv (r : Reg) (rm : RM) : Statement (.movGvEv r rm) := fun osz asz rest h => by
  show decodeOpcode osz asz 0x8B (encodeRM r.toBits rm ++ rest) = _
  exact rm_reg (fun rm r => .movGvEv r rm) h rest

theorem movEwSreg (rm : RM) (n : BitVec 3) : Statement (.movEwSreg rm n) := fun osz asz rest h => by
  show decodeOpcode osz asz 0x8C (encodeRM n rm ++ rest) = _
  exact group_rm (fun rm => pure (.movEwSreg rm n)) h _ fun b e => by rw [e]

theorem leaGvM (r : Reg) (m : Mem) : Statement (.leaGvM r m) := fun osz asz rest h => by
  show decodeOpcode osz asz 0x8D (encodeMem r.toBits m ++ rest) = _
  exact mem_reg (fun m r => .leaGvM r m) h rest

theorem movSregEw (n : BitVec 3) (rm : RM) : Statement (.movSregEw n rm) := fun osz asz rest h => by
  show decodeOpcode osz asz 0x8E (encodeRM n rm ++ rest) = _
  exact group_rm (fun rm => pure (.movSregEw n rm)) h _ fun b e => by rw [e]

theorem popEv (rm : RM) : Statement (.popEv rm) := fun osz asz rest h => by
  show decodeOpcode osz asz 0x8F (encodeRM 0 rm ++ rest) = _
  exact group_rm (fun rm => pure (.popEv rm)) h _ fun b e => by rw [e]; rfl

theorem callApFar (off : Word32) (sel : Word16) : Statement (.callApFar off sel) := fun osz asz rest h => by
  show decodeOpcode osz asz 0x9A ((bytesV osz off ++ bytes16 sel) ++ rest) = _
  rw [List.append_assoc]
  exact pointer (fun off sel => .callApFar off sel) h sel rest

theorem movAlOb (off : Word32) : Statement (.movAlOb off) := fun osz asz rest h => by
  show decodeOpcode osz asz 0xA0 (bytesV asz off ++ rest) = _
  exact word (fun off => .movAlOb off) h rest

theorem movEaxOv (off : Word32) : Statement (.movEaxOv off) := fun osz asz rest h => by
  show decodeOpcode osz asz 0xA1 (bytesV asz off ++ rest) = _
  exact word (fun off => .movEaxOv off) h rest

theorem movObAl (off : Word32) : Statement (.movObAl off) := fun osz asz rest h => by
  show decodeOpcode osz asz 0xA2 (bytesV asz off ++ rest) = _
  exact word (fun off => .movObAl off) h rest

theorem movOvEax (off : Word32) : Statement (.movOvEax off) := fun osz asz rest h => by
  show decodeOpcode osz asz 0xA3 (bytesV asz off ++ rest) = _
  exact word (fun off => .movOvEax off) h rest

theorem testAlIb (imm : Byte) : Statement (.testAlIb imm) := fun _ _ _ _ => by
  rfl

theorem testEaxIv (imm : Word32) : Statement (.testEaxIv imm) := fun osz asz rest h => by
  show decodeOpcode osz asz 0xA9 (bytesV osz imm ++ rest) = _
  exact word (fun imm => .testEaxIv imm) h rest

theorem movR8Ib (r : Reg) (imm : Byte) : Statement (.movR8Ib r imm) := fun _ _ _ _ => by
  cases r <;> rfl

theorem movRvIv (r : Reg) (imm : Word32) : Statement (.movRvIv r imm) := fun _ _ rest h => by
  cases r <;> exact word (fun imm => .movRvIv _ imm) h rest

theorem rolEb (rm : RM) (count : ShiftCount) : Statement (.rolEb rm count) := fun osz asz rest h => by
  cases count with
  | imm imm =>
    show decodeOpcode osz asz 0xC0 ((encodeRM 0 rm ++ [imm]) ++ rest) = _
    rw [List.append_assoc]
    exact group_rm (fun rm => nextByte >>= fun imm => pure (.rolEb rm (.imm imm))) h _ fun b e => by rw [e]; rfl
  | one =>
    show decodeOpcode osz asz 0xD0 (encodeRM 0 rm ++ rest) = _
    exact group_rm (fun rm => pure (.rolEb rm .one)) h _ fun b e => by rw [e]; rfl
  | cl =>
    show decodeOpcode osz asz 0xD2 (encodeRM 0 rm ++ rest) = _
    exact group_rm (fun rm => pure (.rolEb rm .cl)) h _ fun b e => by rw [e]; rfl

theorem rolEv (rm : RM) (count : ShiftCount) : Statement (.rolEv rm count) := fun osz asz rest h => by
  cases count with
  | imm imm =>
    show decodeOpcode osz asz 0xC1 ((encodeRM 0 rm ++ [imm]) ++ rest) = _
    rw [List.append_assoc]
    exact group_rm (fun rm => nextByte >>= fun imm => pure (.rolEv rm (.imm imm))) h _ fun b e => by rw [e]; rfl
  | one =>
    show decodeOpcode osz asz 0xD1 (encodeRM 0 rm ++ rest) = _
    exact group_rm (fun rm => pure (.rolEv rm .one)) h _ fun b e => by rw [e]; rfl
  | cl =>
    show decodeOpcode osz asz 0xD3 (encodeRM 0 rm ++ rest) = _
    exact group_rm (fun rm => pure (.rolEv rm .cl)) h _ fun b e => by rw [e]; rfl

theorem rorEb (rm : RM) (count : ShiftCount) : Statement (.rorEb rm count) := fun osz asz rest h => by
  cases count with
  | imm imm =>
    show decodeOpcode osz asz 0xC0 ((encodeRM 1 rm ++ [imm]) ++ rest) = _
    rw [List.append_assoc]
    exact group_rm (fun rm => nextByte >>= fun imm => pure (.rorEb rm (.imm imm))) h _ fun b e => by rw [e]; rfl
  | one =>
    show decodeOpcode osz asz 0xD0 (encodeRM 1 rm ++ rest) = _
    exact group_rm (fun rm => pure (.rorEb rm .one)) h _ fun b e => by rw [e]; rfl
  | cl =>
    show decodeOpcode osz asz 0xD2 (encodeRM 1 rm ++ rest) = _
    exact group_rm (fun rm => pure (.rorEb rm .cl)) h _ fun b e => by rw [e]; rfl

theorem rorEv (rm : RM) (count : ShiftCount) : Statement (.rorEv rm count) := fun osz asz rest h => by
  cases count with
  | imm imm =>
    show decodeOpcode osz asz 0xC1 ((encodeRM 1 rm ++ [imm]) ++ rest) = _
    rw [List.append_assoc]
    exact group_rm (fun rm => nextByte >>= fun imm => pure (.rorEv rm (.imm imm))) h _ fun b e => by rw [e]; rfl
  | one =>
    show decodeOpcode osz asz 0xD1 (encodeRM 1 rm ++ rest) = _
    exact group_rm (fun rm => pure (.rorEv rm .one)) h _ fun b e => by rw [e]; rfl
  | cl =>
    show decodeOpcode osz asz 0xD3 (encodeRM 1 rm ++ rest) = _
    exact group_rm (fun rm => pure (.rorEv rm .cl)) h _ fun b e => by rw [e]; rfl

theorem rclEb (rm : RM) (count : ShiftCount) : Statement (.rclEb rm count) := fun osz asz rest h => by
  cases count with
  | imm imm =>
    show decodeOpcode osz asz 0xC0 ((encodeRM 2 rm ++ [imm]) ++ rest) = _
    rw [List.append_assoc]
    exact group_rm (fun rm => nextByte >>= fun imm => pure (.rclEb rm (.imm imm))) h _ fun b e => by rw [e]; rfl
  | one =>
    show decodeOpcode osz asz 0xD0 (encodeRM 2 rm ++ rest) = _
    exact group_rm (fun rm => pure (.rclEb rm .one)) h _ fun b e => by rw [e]; rfl
  | cl =>
    show decodeOpcode osz asz 0xD2 (encodeRM 2 rm ++ rest) = _
    exact group_rm (fun rm => pure (.rclEb rm .cl)) h _ fun b e => by rw [e]; rfl

theorem rclEv (rm : RM) (count : ShiftCount) : Statement (.rclEv rm count) := fun osz asz rest h => by
  cases count with
  | imm imm =>
    show decodeOpcode osz asz 0xC1 ((encodeRM 2 rm ++ [imm]) ++ rest) = _
    rw [List.append_assoc]
    exact group_rm (fun rm => nextByte >>= fun imm => pure (.rclEv rm (.imm imm))) h _ fun b e => by rw [e]; rfl
  | one =>
    show decodeOpcode osz asz 0xD1 (encodeRM 2 rm ++ rest) = _
    exact group_rm (fun rm => pure (.rclEv rm .one)) h _ fun b e => by rw [e]; rfl
  | cl =>
    show decodeOpcode osz asz 0xD3 (encodeRM 2 rm ++ rest) = _
    exact group_rm (fun rm => pure (.rclEv rm .cl)) h _ fun b e => by rw [e]; rfl

theorem rcrEb (rm : RM) (count : ShiftCount) : Statement (.rcrEb rm count) := fun osz asz rest h => by
  cases count with
  | imm imm =>
    show decodeOpcode osz asz 0xC0 ((encodeRM 3 rm ++ [imm]) ++ rest) = _
    rw [List.append_assoc]
    exact group_rm (fun rm => nextByte >>= fun imm => pure (.rcrEb rm (.imm imm))) h _ fun b e => by rw [e]; rfl
  | one =>
    show decodeOpcode osz asz 0xD0 (encodeRM 3 rm ++ rest) = _
    exact group_rm (fun rm => pure (.rcrEb rm .one)) h _ fun b e => by rw [e]; rfl
  | cl =>
    show decodeOpcode osz asz 0xD2 (encodeRM 3 rm ++ rest) = _
    exact group_rm (fun rm => pure (.rcrEb rm .cl)) h _ fun b e => by rw [e]; rfl

theorem rcrEv (rm : RM) (count : ShiftCount) : Statement (.rcrEv rm count) := fun osz asz rest h => by
  cases count with
  | imm imm =>
    show decodeOpcode osz asz 0xC1 ((encodeRM 3 rm ++ [imm]) ++ rest) = _
    rw [List.append_assoc]
    exact group_rm (fun rm => nextByte >>= fun imm => pure (.rcrEv rm (.imm imm))) h _ fun b e => by rw [e]; rfl
  | one =>
    show decodeOpcode osz asz 0xD1 (encodeRM 3 rm ++ rest) = _
    exact group_rm (fun rm => pure (.rcrEv rm .one)) h _ fun b e => by rw [e]; rfl
  | cl =>
    show decodeOpcode osz asz 0xD3 (encodeRM 3 rm ++ rest) = _
    exact group_rm (fun rm => pure (.rcrEv rm .cl)) h _ fun b e => by rw [e]; rfl

theorem shlEb (rm : RM) (count : ShiftCount) : Statement (.shlEb rm count) := fun osz asz rest h => by
  cases count with
  | imm imm =>
    show decodeOpcode osz asz 0xC0 ((encodeRM 4 rm ++ [imm]) ++ rest) = _
    rw [List.append_assoc]
    exact group_rm (fun rm => nextByte >>= fun imm => pure (.shlEb rm (.imm imm))) h _ fun b e => by rw [e]; rfl
  | one =>
    show decodeOpcode osz asz 0xD0 (encodeRM 4 rm ++ rest) = _
    exact group_rm (fun rm => pure (.shlEb rm .one)) h _ fun b e => by rw [e]; rfl
  | cl =>
    show decodeOpcode osz asz 0xD2 (encodeRM 4 rm ++ rest) = _
    exact group_rm (fun rm => pure (.shlEb rm .cl)) h _ fun b e => by rw [e]; rfl

theorem shlEv (rm : RM) (count : ShiftCount) : Statement (.shlEv rm count) := fun osz asz rest h => by
  cases count with
  | imm imm =>
    show decodeOpcode osz asz 0xC1 ((encodeRM 4 rm ++ [imm]) ++ rest) = _
    rw [List.append_assoc]
    exact group_rm (fun rm => nextByte >>= fun imm => pure (.shlEv rm (.imm imm))) h _ fun b e => by rw [e]; rfl
  | one =>
    show decodeOpcode osz asz 0xD1 (encodeRM 4 rm ++ rest) = _
    exact group_rm (fun rm => pure (.shlEv rm .one)) h _ fun b e => by rw [e]; rfl
  | cl =>
    show decodeOpcode osz asz 0xD3 (encodeRM 4 rm ++ rest) = _
    exact group_rm (fun rm => pure (.shlEv rm .cl)) h _ fun b e => by rw [e]; rfl

theorem shrEb (rm : RM) (count : ShiftCount) : Statement (.shrEb rm count) := fun osz asz rest h => by
  cases count with
  | imm imm =>
    show decodeOpcode osz asz 0xC0 ((encodeRM 5 rm ++ [imm]) ++ rest) = _
    rw [List.append_assoc]
    exact group_rm (fun rm => nextByte >>= fun imm => pure (.shrEb rm (.imm imm))) h _ fun b e => by rw [e]; rfl
  | one =>
    show decodeOpcode osz asz 0xD0 (encodeRM 5 rm ++ rest) = _
    exact group_rm (fun rm => pure (.shrEb rm .one)) h _ fun b e => by rw [e]; rfl
  | cl =>
    show decodeOpcode osz asz 0xD2 (encodeRM 5 rm ++ rest) = _
    exact group_rm (fun rm => pure (.shrEb rm .cl)) h _ fun b e => by rw [e]; rfl

theorem shrEv (rm : RM) (count : ShiftCount) : Statement (.shrEv rm count) := fun osz asz rest h => by
  cases count with
  | imm imm =>
    show decodeOpcode osz asz 0xC1 ((encodeRM 5 rm ++ [imm]) ++ rest) = _
    rw [List.append_assoc]
    exact group_rm (fun rm => nextByte >>= fun imm => pure (.shrEv rm (.imm imm))) h _ fun b e => by rw [e]; rfl
  | one =>
    show decodeOpcode osz asz 0xD1 (encodeRM 5 rm ++ rest) = _
    exact group_rm (fun rm => pure (.shrEv rm .one)) h _ fun b e => by rw [e]; rfl
  | cl =>
    show decodeOpcode osz asz 0xD3 (encodeRM 5 rm ++ rest) = _
    exact group_rm (fun rm => pure (.shrEv rm .cl)) h _ fun b e => by rw [e]; rfl

theorem sarEb (rm : RM) (count : ShiftCount) : Statement (.sarEb rm count) := fun osz asz rest h => by
  cases count with
  | imm imm =>
    show decodeOpcode osz asz 0xC0 ((encodeRM 7 rm ++ [imm]) ++ rest) = _
    rw [List.append_assoc]
    exact group_rm (fun rm => nextByte >>= fun imm => pure (.sarEb rm (.imm imm))) h _ fun b e => by rw [e]; rfl
  | one =>
    show decodeOpcode osz asz 0xD0 (encodeRM 7 rm ++ rest) = _
    exact group_rm (fun rm => pure (.sarEb rm .one)) h _ fun b e => by rw [e]; rfl
  | cl =>
    show decodeOpcode osz asz 0xD2 (encodeRM 7 rm ++ rest) = _
    exact group_rm (fun rm => pure (.sarEb rm .cl)) h _ fun b e => by rw [e]; rfl

theorem sarEv (rm : RM) (count : ShiftCount) : Statement (.sarEv rm count) := fun osz asz rest h => by
  cases count with
  | imm imm =>
    show decodeOpcode osz asz 0xC1 ((encodeRM 7 rm ++ [imm]) ++ rest) = _
    rw [List.append_assoc]
    exact group_rm (fun rm => nextByte >>= fun imm => pure (.sarEv rm (.imm imm))) h _ fun b e => by rw [e]; rfl
  | one =>
    show decodeOpcode osz asz 0xD1 (encodeRM 7 rm ++ rest) = _
    exact group_rm (fun rm => pure (.sarEv rm .one)) h _ fun b e => by rw [e]; rfl
  | cl =>
    show decodeOpcode osz asz 0xD3 (encodeRM 7 rm ++ rest) = _
    exact group_rm (fun rm => pure (.sarEv rm .cl)) h _ fun b e => by rw [e]; rfl

theorem retIwNear (imm : Word16) : Statement (.retIwNear imm) := fun osz asz rest _ => by
  show decodeOpcode osz asz 0xC2 (bytes16 imm ++ rest) = _
  exact word_16 (fun imm => .retIwNear imm) imm rest

theorem lesGvMp (r : Reg) (m : Mem) : Statement (.lesGvMp r m) := fun osz asz rest h => by
  show decodeOpcode osz asz 0xC4 (encodeMem r.toBits m ++ rest) = _
  exact mem_reg (fun m r => .lesGvMp r m) h rest

theorem ldsGvMp (r : Reg) (m : Mem) : Statement (.ldsGvMp r m) := fun osz asz rest h => by
  show decodeOpcode osz asz 0xC5 (encodeMem r.toBits m ++ rest) = _
  exact mem_reg (fun m r => .ldsGvMp r m) h rest

theorem movEbIb (rm : RM) (imm : Byte) : Statement (.movEbIb rm imm) := fun osz asz rest h => by
  show decodeOpcode osz asz 0xC6 ((encodeRM 0 rm ++ [imm]) ++ rest) = _
  rw [List.append_assoc]
  exact group_rm (fun rm => nextByte >>= fun imm => pure (.movEbIb rm imm)) h _ fun b e => by rw [e]; rfl

theorem movEvIv (rm : RM) (imm : Word32) : Statement (.movEvIv rm imm) := fun osz asz rest h => by
  have h := Bool.and_eq_true_iff.mp h
  show decodeOpcode osz asz 0xC7 ((encodeRM 0 rm ++ bytesV osz imm) ++ rest) = _
  rw [List.append_assoc]
  exact (group_rm (fun rm => wordV osz >>= fun imm => pure (.movEvIv rm imm)) h.1 _ fun b e => by rw [e]; rfl).trans
    (Parser.bind_ok (wordV_bytes osz imm h.2 rest))

theorem enterIwIb (size : Word16) (level : Byte) : Statement (.enterIwIb size level) := fun osz asz rest _ => by
  show decodeOpcode osz asz 0xC8 (bytes16 size ++ [level] ++ rest) = _
  rw [List.append_assoc]
  exact (Parser.bind_ok (word16_bytes size _)).trans (Parser.bind_ok (nextByte_cons level rest))

theorem retIwFar (imm : Word16) : Statement (.retIwFar imm) := fun osz asz rest _ => by
  show decodeOpcode osz asz 0xCA (bytes16 imm ++ rest) = _
  exact word_16 (fun imm => .retIwFar imm) imm rest

theorem intIb (imm : Byte) : Statement (.intIb imm) := fun _ _ _ _ => by
  rfl

theorem aamIb (imm : Byte) : Statement (.aamIb imm) := fun _ _ _ _ => by
  rfl

theorem aadIb (imm : Byte) : Statement (.aadIb imm) := fun _ _ _ _ => by
  rfl

theorem esc (op : BitVec 3) (n : BitVec 3) (rm : RM) : Statement (.esc op n rm) := fun osz asz rest h => by
  obtain ⟨b, tl, e, mid, read⟩ := encodeRM_spec n h
  show decode osz asz ((0xD8 + op.setWidth 8) :: (encodeRM n rm ++ rest)) = _
  rw [e]
  refine (Parser.bind_ok (nextByte_cons _ _)).trans ?_
  obtain ⟨k⟩ := op
  match k with
  | ⟨0, _⟩ => exact (Parser.bind_ok (nextByte_cons _ _)).trans ((Parser.bind_ok (read _)).trans (by rw [mid]; rfl))
  | ⟨1, _⟩ => exact (Parser.bind_ok (nextByte_cons _ _)).trans ((Parser.bind_ok (read _)).trans (by rw [mid]; rfl))
  | ⟨2, _⟩ => exact (Parser.bind_ok (nextByte_cons _ _)).trans ((Parser.bind_ok (read _)).trans (by rw [mid]; rfl))
  | ⟨3, _⟩ => exact (Parser.bind_ok (nextByte_cons _ _)).trans ((Parser.bind_ok (read _)).trans (by rw [mid]; rfl))
  | ⟨4, _⟩ => exact (Parser.bind_ok (nextByte_cons _ _)).trans ((Parser.bind_ok (read _)).trans (by rw [mid]; rfl))
  | ⟨5, _⟩ => exact (Parser.bind_ok (nextByte_cons _ _)).trans ((Parser.bind_ok (read _)).trans (by rw [mid]; rfl))
  | ⟨6, _⟩ => exact (Parser.bind_ok (nextByte_cons _ _)).trans ((Parser.bind_ok (read _)).trans (by rw [mid]; rfl))
  | ⟨7, _⟩ => exact (Parser.bind_ok (nextByte_cons _ _)).trans ((Parser.bind_ok (read _)).trans (by rw [mid]; rfl))

theorem loopneJb (imm : Byte) : Statement (.loopneJb imm) := fun _ _ _ _ => by
  rfl

theorem loopeJb (imm : Byte) : Statement (.loopeJb imm) := fun _ _ _ _ => by
  rfl

theorem loopJb (imm : Byte) : Statement (.loopJb imm) := fun _ _ _ _ => by
  rfl

theorem jcxzJb (imm : Byte) : Statement (.jcxzJb imm) := fun _ asz _ h => by
  cases asz <;> first | exact Bool.noConfusion h | rfl

theorem jecxzJb (imm : Byte) : Statement (.jecxzJb imm) := fun _ asz _ h => by
  cases asz <;> first | exact Bool.noConfusion h | rfl

theorem inAlIb (imm : Byte) : Statement (.inAlIb imm) := fun _ _ _ _ => by
  rfl

theorem inEaxIb (imm : Byte) : Statement (.inEaxIb imm) := fun _ _ _ _ => by
  rfl

theorem outIbAl (imm : Byte) : Statement (.outIbAl imm) := fun _ _ _ _ => by
  rfl

theorem outIbEax (imm : Byte) : Statement (.outIbEax imm) := fun _ _ _ _ => by
  rfl

theorem callJvNear (imm : Word32) : Statement (.callJvNear imm) := fun osz asz rest h => by
  show decodeOpcode osz asz 0xE8 (bytesV osz imm ++ rest) = _
  exact word (fun imm => .callJvNear imm) h rest

theorem jmpJvNear (imm : Word32) : Statement (.jmpJvNear imm) := fun osz asz rest h => by
  show decodeOpcode osz asz 0xE9 (bytesV osz imm ++ rest) = _
  exact word (fun imm => .jmpJvNear imm) h rest

theorem jmpApFar (off : Word32) (sel : Word16) : Statement (.jmpApFar off sel) := fun osz asz rest h => by
  show decodeOpcode osz asz 0xEA ((bytesV osz off ++ bytes16 sel) ++ rest) = _
  rw [List.append_assoc]
  exact pointer (fun off sel => .jmpApFar off sel) h sel rest

theorem jmpJbShort (imm : Byte) : Statement (.jmpJbShort imm) := fun _ _ _ _ => by
  rfl

theorem testEbIb (rm : RM) (imm : Byte) : Statement (.testEbIb rm imm) := fun osz asz rest h => by
  show decodeOpcode osz asz 0xF6 ((encodeRM 0 rm ++ [imm]) ++ rest) = _
  rw [List.append_assoc]
  exact group_rm (fun rm => nextByte >>= fun imm => pure (.testEbIb rm imm)) h _ fun b e => by rw [e]; rfl

theorem testEvIv (rm : RM) (imm : Word32) : Statement (.testEvIv rm imm) := fun osz asz rest h => by
  have h := Bool.and_eq_true_iff.mp h
  show decodeOpcode osz asz 0xF7 ((encodeRM 0 rm ++ bytesV osz imm) ++ rest) = _
  rw [List.append_assoc]
  exact (group_rm (fun rm => wordV osz >>= fun imm => pure (.testEvIv rm imm)) h.1 _ fun b e => by rw [e]; rfl).trans
    (Parser.bind_ok (wordV_bytes osz imm h.2 rest))

theorem notEb (rm : RM) : Statement (.notEb rm) := fun osz asz rest h => by
  show decodeOpcode osz asz 0xF6 (encodeRM 2 rm ++ rest) = _
  exact group_rm (fun rm => pure (.notEb rm)) h _ fun b e => by rw [e]; rfl

theorem notEv (rm : RM) : Statement (.notEv rm) := fun osz asz rest h => by
  show decodeOpcode osz asz 0xF7 (encodeRM 2 rm ++ rest) = _
  exact group_rm (fun rm => pure (.notEv rm)) h _ fun b e => by rw [e]; rfl

theorem negEb (rm : RM) : Statement (.negEb rm) := fun osz asz rest h => by
  show decodeOpcode osz asz 0xF6 (encodeRM 3 rm ++ rest) = _
  exact group_rm (fun rm => pure (.negEb rm)) h _ fun b e => by rw [e]; rfl

theorem negEv (rm : RM) : Statement (.negEv rm) := fun osz asz rest h => by
  show decodeOpcode osz asz 0xF7 (encodeRM 3 rm ++ rest) = _
  exact group_rm (fun rm => pure (.negEv rm)) h _ fun b e => by rw [e]; rfl

theorem mulEb (rm : RM) : Statement (.mulEb rm) := fun osz asz rest h => by
  show decodeOpcode osz asz 0xF6 (encodeRM 4 rm ++ rest) = _
  exact group_rm (fun rm => pure (.mulEb rm)) h _ fun b e => by rw [e]; rfl

theorem mulEv (rm : RM) : Statement (.mulEv rm) := fun osz asz rest h => by
  show decodeOpcode osz asz 0xF7 (encodeRM 4 rm ++ rest) = _
  exact group_rm (fun rm => pure (.mulEv rm)) h _ fun b e => by rw [e]; rfl

theorem imulEb (rm : RM) : Statement (.imulEb rm) := fun osz asz rest h => by
  show decodeOpcode osz asz 0xF6 (encodeRM 5 rm ++ rest) = _
  exact group_rm (fun rm => pure (.imulEb rm)) h _ fun b e => by rw [e]; rfl

theorem imulEv (rm : RM) : Statement (.imulEv rm) := fun osz asz rest h => by
  show decodeOpcode osz asz 0xF7 (encodeRM 5 rm ++ rest) = _
  exact group_rm (fun rm => pure (.imulEv rm)) h _ fun b e => by rw [e]; rfl

theorem divEb (rm : RM) : Statement (.divEb rm) := fun osz asz rest h => by
  show decodeOpcode osz asz 0xF6 (encodeRM 6 rm ++ rest) = _
  exact group_rm (fun rm => pure (.divEb rm)) h _ fun b e => by rw [e]; rfl

theorem divEv (rm : RM) : Statement (.divEv rm) := fun osz asz rest h => by
  show decodeOpcode osz asz 0xF7 (encodeRM 6 rm ++ rest) = _
  exact group_rm (fun rm => pure (.divEv rm)) h _ fun b e => by rw [e]; rfl

theorem idivEb (rm : RM) : Statement (.idivEb rm) := fun osz asz rest h => by
  show decodeOpcode osz asz 0xF6 (encodeRM 7 rm ++ rest) = _
  exact group_rm (fun rm => pure (.idivEb rm)) h _ fun b e => by rw [e]; rfl

theorem idivEv (rm : RM) : Statement (.idivEv rm) := fun osz asz rest h => by
  show decodeOpcode osz asz 0xF7 (encodeRM 7 rm ++ rest) = _
  exact group_rm (fun rm => pure (.idivEv rm)) h _ fun b e => by rw [e]; rfl

theorem incEb (rm : RM) : Statement (.incEb rm) := fun osz asz rest h => by
  show decodeOpcode osz asz 0xFE (encodeRM 0 rm ++ rest) = _
  exact group_rm (fun rm => pure (.incEb rm)) h _ fun b e => by rw [e]; rfl

theorem decEb (rm : RM) : Statement (.decEb rm) := fun osz asz rest h => by
  show decodeOpcode osz asz 0xFE (encodeRM 1 rm ++ rest) = _
  exact group_rm (fun rm => pure (.decEb rm)) h _ fun b e => by rw [e]; rfl

theorem incEv (rm : RM) : Statement (.incEv rm) := fun osz asz rest h => by
  show decodeOpcode osz asz 0xFF (encodeRM 0 rm ++ rest) = _
  exact group_rm (fun rm => pure (.incEv rm)) h _ fun b e => by rw [e]; rfl

theorem decEv (rm : RM) : Statement (.decEv rm) := fun osz asz rest h => by
  show decodeOpcode osz asz 0xFF (encodeRM 1 rm ++ rest) = _
  exact group_rm (fun rm => pure (.decEv rm)) h _ fun b e => by rw [e]; rfl

theorem callEvNear (rm : RM) : Statement (.callEvNear rm) := fun osz asz rest h => by
  show decodeOpcode osz asz 0xFF (encodeRM 2 rm ++ rest) = _
  exact group_rm (fun rm => pure (.callEvNear rm)) h _ fun b e => by rw [e]; rfl

theorem callMpFar (m : Mem) : Statement (.callMpFar m) := fun osz asz rest h => by
  show decodeOpcode osz asz 0xFF (encodeMem 3 m ++ rest) = _
  exact group_mem (fun m => pure (.callMpFar m)) h _ fun b e => by rw [e]; rfl

theorem jmpEvNear (rm : RM) : Statement (.jmpEvNear rm) := fun osz asz rest h => by
  show decodeOpcode osz asz 0xFF (encodeRM 4 rm ++ rest) = _
  exact group_rm (fun rm => pure (.jmpEvNear rm)) h _ fun b e => by rw [e]; rfl

theorem jmpMpFar (m : Mem) : Statement (.jmpMpFar m) := fun osz asz rest h => by
  show decodeOpcode osz asz 0xFF (encodeMem 5 m ++ rest) = _
  exact group_mem (fun m => pure (.jmpMpFar m)) h _ fun b e => by rw [e]; rfl

theorem pushEv (rm : RM) : Statement (.pushEv rm) := fun osz asz rest h => by
  show decodeOpcode osz asz 0xFF (encodeRM 6 rm ++ rest) = _
  exact group_rm (fun rm => pure (.pushEv rm)) h _ fun b e => by rw [e]; rfl

theorem sldtEw (rm : RM) : Statement (.sldtEw rm) := fun osz asz rest h => by
  show decodeTwoByte osz asz 0x00 (encodeRM 0 rm ++ rest) = _
  exact group_rm (fun rm => pure (.sldtEw rm)) h _ fun b e => by rw [e]; rfl

theorem strEw (rm : RM) : Statement (.strEw rm) := fun osz asz rest h => by
  show decodeTwoByte osz asz 0x00 (encodeRM 1 rm ++ rest) = _
  exact group_rm (fun rm => pure (.strEw rm)) h _ fun b e => by rw [e]; rfl

theorem lldtEw (rm : RM) : Statement (.lldtEw rm) := fun osz asz rest h => by
  show decodeTwoByte osz asz 0x00 (encodeRM 2 rm ++ rest) = _
  exact group_rm (fun rm => pure (.lldtEw rm)) h _ fun b e => by rw [e]; rfl

theorem ltrEw (rm : RM) : Statement (.ltrEw rm) := fun osz asz rest h => by
  show decodeTwoByte osz asz 0x00 (encodeRM 3 rm ++ rest) = _
  exact group_rm (fun rm => pure (.ltrEw rm)) h _ fun b e => by rw [e]; rfl

theorem verrEw (rm : RM) : Statement (.verrEw rm) := fun osz asz rest h => by
  show decodeTwoByte osz asz 0x00 (encodeRM 4 rm ++ rest) = _
  exact group_rm (fun rm => pure (.verrEw rm)) h _ fun b e => by rw [e]; rfl

theorem verwEw (rm : RM) : Statement (.verwEw rm) := fun osz asz rest h => by
  show decodeTwoByte osz asz 0x00 (encodeRM 5 rm ++ rest) = _
  exact group_rm (fun rm => pure (.verwEw rm)) h _ fun b e => by rw [e]; rfl

theorem sgdtM (m : Mem) : Statement (.sgdtM m) := fun osz asz rest h => by
  show decodeTwoByte osz asz 0x01 (encodeMem 0 m ++ rest) = _
  exact group_mem (fun m => pure (.sgdtM m)) h _ fun b e => by rw [e]; rfl

theorem sidtM (m : Mem) : Statement (.sidtM m) := fun osz asz rest h => by
  show decodeTwoByte osz asz 0x01 (encodeMem 1 m ++ rest) = _
  exact group_mem (fun m => pure (.sidtM m)) h _ fun b e => by rw [e]; rfl

theorem lgdtM (m : Mem) : Statement (.lgdtM m) := fun osz asz rest h => by
  show decodeTwoByte osz asz 0x01 (encodeMem 2 m ++ rest) = _
  exact group_mem (fun m => pure (.lgdtM m)) h _ fun b e => by rw [e]; rfl

theorem lidtM (m : Mem) : Statement (.lidtM m) := fun osz asz rest h => by
  show decodeTwoByte osz asz 0x01 (encodeMem 3 m ++ rest) = _
  exact group_mem (fun m => pure (.lidtM m)) h _ fun b e => by rw [e]; rfl

theorem smswEw (rm : RM) : Statement (.smswEw rm) := fun osz asz rest h => by
  show decodeTwoByte osz asz 0x01 (encodeRM 4 rm ++ rest) = _
  exact group_rm (fun rm => pure (.smswEw rm)) h _ fun b e => by rw [e]; rfl

theorem lmswEw (rm : RM) : Statement (.lmswEw rm) := fun osz asz rest h => by
  show decodeTwoByte osz asz 0x01 (encodeRM 6 rm ++ rest) = _
  exact group_rm (fun rm => pure (.lmswEw rm)) h _ fun b e => by rw [e]; rfl

theorem larGvEw (r : Reg) (rm : RM) : Statement (.larGvEw r rm) := fun osz asz rest h => by
  show decodeTwoByte osz asz 0x02 (encodeRM r.toBits rm ++ rest) = _
  exact rm_reg (fun rm r => .larGvEw r rm) h rest

theorem lslGvEw (r : Reg) (rm : RM) : Statement (.lslGvEw r rm) := fun osz asz rest h => by
  show decodeTwoByte osz asz 0x03 (encodeRM r.toBits rm ++ rest) = _
  exact rm_reg (fun rm r => .lslGvEw r rm) h rest

theorem movR32Crn (r : Reg) (n : BitVec 3) : Statement (.movR32Crn r n) := fun _ _ rest _ => by
  exact special n r (fun n r => .movR32Crn r n) (fun _ => rfl) rest

theorem movR32Drn (r : Reg) (n : BitVec 3) : Statement (.movR32Drn r n) := fun _ _ rest _ => by
  exact special n r (fun n r => .movR32Drn r n) (fun _ => rfl) rest

theorem movCrnR32 (n : BitVec 3) (r : Reg) : Statement (.movCrnR32 n r) := fun _ _ rest _ => by
  exact special n r (fun n r => .movCrnR32 n r) (fun _ => rfl) rest

theorem movDrnR32 (n : BitVec 3) (r : Reg) : Statement (.movDrnR32 n r) := fun _ _ rest _ => by
  exact special n r (fun n r => .movDrnR32 n r) (fun _ => rfl) rest

theorem movR32Trn (r : Reg) (n : BitVec 3) : Statement (.movR32Trn r n) := fun _ _ rest _ => by
  exact special n r (fun n r => .movR32Trn r n) (fun _ => rfl) rest

theorem movTrnR32 (n : BitVec 3) (r : Reg) : Statement (.movTrnR32 n r) := fun _ _ rest _ => by
  exact special n r (fun n r => .movTrnR32 n r) (fun _ => rfl) rest

theorem btEvGv (rm : RM) (r : Reg) : Statement (.btEvGv rm r) := fun osz asz rest h => by
  show decodeTwoByte osz asz 0xA3 (encodeRM r.toBits rm ++ rest) = _
  exact rm_reg (fun rm r => .btEvGv rm r) h rest

theorem shldEvGvIb (rm : RM) (r : Reg) (imm : Byte) : Statement (.shldEvGvIb rm r imm) := fun osz asz rest h => by
  show decodeTwoByte osz asz 0xA4 ((encodeRM r.toBits rm ++ [imm]) ++ rest) = _
  rw [List.append_assoc]
  exact rm_reg_byte (fun rm r imm => .shldEvGvIb rm r imm) h imm rest

theorem shldEvGvCl (rm : RM) (r : Reg) : Statement (.shldEvGvCl rm r) := fun osz asz rest h => by
  show decodeTwoByte osz asz 0xA5 (encodeRM r.toBits rm ++ rest) = _
  exact rm_reg (fun rm r => .shldEvGvCl rm r) h rest

theorem btsEvGv (rm : RM) (r : Reg) : Statement (.btsEvGv rm r) := fun osz asz rest h => by
  show decodeTwoByte osz asz 0xAB (encodeRM r.toBits rm ++ rest) = _
  exact rm_reg (fun rm r => .btsEvGv rm r) h rest

theorem shrdEvGvIb (rm : RM) (r : Reg) (imm : Byte) : Statement (.shrdEvGvIb rm r imm) := fun osz asz rest h => by
  show decodeTwoByte osz asz 0xAC ((encodeRM r.toBits rm ++ [imm]) ++ rest) = _
  rw [List.append_assoc]
  exact rm_reg_byte (fun rm r imm => .shrdEvGvIb rm r imm) h imm rest

theorem shrdEvGvCl (rm : RM) (r : Reg) : Statement (.shrdEvGvCl rm r) := fun osz asz rest h => by
  show decodeTwoByte osz asz 0xAD (encodeRM r.toBits rm ++ rest) = _
  exact rm_reg (fun rm r => .shrdEvGvCl rm r) h rest

theorem imulGvEv (r : Reg) (rm : RM) : Statement (.imulGvEv r rm) := fun osz asz rest h => by
  show decodeTwoByte osz asz 0xAF (encodeRM r.toBits rm ++ rest) = _
  exact rm_reg (fun rm r => .imulGvEv r rm) h rest

theorem lssGvMp (r : Reg) (m : Mem) : Statement (.lssGvMp r m) := fun osz asz rest h => by
  show decodeTwoByte osz asz 0xB2 (encodeMem r.toBits m ++ rest) = _
  exact mem_reg (fun m r => .lssGvMp r m) h rest

theorem btrEvGv (rm : RM) (r : Reg) : Statement (.btrEvGv rm r) := fun osz asz rest h => by
  show decodeTwoByte osz asz 0xB3 (encodeRM r.toBits rm ++ rest) = _
  exact rm_reg (fun rm r => .btrEvGv rm r) h rest

theorem lfsGvMp (r : Reg) (m : Mem) : Statement (.lfsGvMp r m) := fun osz asz rest h => by
  show decodeTwoByte osz asz 0xB4 (encodeMem r.toBits m ++ rest) = _
  exact mem_reg (fun m r => .lfsGvMp r m) h rest

theorem lgsGvMp (r : Reg) (m : Mem) : Statement (.lgsGvMp r m) := fun osz asz rest h => by
  show decodeTwoByte osz asz 0xB5 (encodeMem r.toBits m ++ rest) = _
  exact mem_reg (fun m r => .lgsGvMp r m) h rest

theorem movzxGvEb (r : Reg) (rm : RM) : Statement (.movzxGvEb r rm) := fun osz asz rest h => by
  show decodeTwoByte osz asz 0xB6 (encodeRM r.toBits rm ++ rest) = _
  exact rm_reg (fun rm r => .movzxGvEb r rm) h rest

theorem movzxGvEw (r : Reg) (rm : RM) : Statement (.movzxGvEw r rm) := fun osz asz rest h => by
  show decodeTwoByte osz asz 0xB7 (encodeRM r.toBits rm ++ rest) = _
  exact rm_reg (fun rm r => .movzxGvEw r rm) h rest

theorem btEvIb (rm : RM) (imm : Byte) : Statement (.btEvIb rm imm) := fun osz asz rest h => by
  show decodeTwoByte osz asz 0xBA ((encodeRM 4 rm ++ [imm]) ++ rest) = _
  rw [List.append_assoc]
  exact group_rm (fun rm => nextByte >>= fun imm => pure (.btEvIb rm imm)) h _ fun b e => by rw [e]; rfl

theorem btsEvIb (rm : RM) (imm : Byte) : Statement (.btsEvIb rm imm) := fun osz asz rest h => by
  show decodeTwoByte osz asz 0xBA ((encodeRM 5 rm ++ [imm]) ++ rest) = _
  rw [List.append_assoc]
  exact group_rm (fun rm => nextByte >>= fun imm => pure (.btsEvIb rm imm)) h _ fun b e => by rw [e]; rfl

theorem btrEvIb (rm : RM) (imm : Byte) : Statement (.btrEvIb rm imm) := fun osz asz rest h => by
  show decodeTwoByte osz asz 0xBA ((encodeRM 6 rm ++ [imm]) ++ rest) = _
  rw [List.append_assoc]
  exact group_rm (fun rm => nextByte >>= fun imm => pure (.btrEvIb rm imm)) h _ fun b e => by rw [e]; rfl

theorem btcEvIb (rm : RM) (imm : Byte) : Statement (.btcEvIb rm imm) := fun osz asz rest h => by
  show decodeTwoByte osz asz 0xBA ((encodeRM 7 rm ++ [imm]) ++ rest) = _
  rw [List.append_assoc]
  exact group_rm (fun rm => nextByte >>= fun imm => pure (.btcEvIb rm imm)) h _ fun b e => by rw [e]; rfl

theorem btcEvGv (rm : RM) (r : Reg) : Statement (.btcEvGv rm r) := fun osz asz rest h => by
  show decodeTwoByte osz asz 0xBB (encodeRM r.toBits rm ++ rest) = _
  exact rm_reg (fun rm r => .btcEvGv rm r) h rest

theorem bsfGvEv (r : Reg) (rm : RM) : Statement (.bsfGvEv r rm) := fun osz asz rest h => by
  show decodeTwoByte osz asz 0xBC (encodeRM r.toBits rm ++ rest) = _
  exact rm_reg (fun rm r => .bsfGvEv r rm) h rest

theorem bsrGvEv (r : Reg) (rm : RM) : Statement (.bsrGvEv r rm) := fun osz asz rest h => by
  show decodeTwoByte osz asz 0xBD (encodeRM r.toBits rm ++ rest) = _
  exact rm_reg (fun rm r => .bsrGvEv r rm) h rest

theorem movsxGvEb (r : Reg) (rm : RM) : Statement (.movsxGvEb r rm) := fun osz asz rest h => by
  show decodeTwoByte osz asz 0xBE (encodeRM r.toBits rm ++ rest) = _
  exact rm_reg (fun rm r => .movsxGvEb r rm) h rest

theorem movsxGvEw (r : Reg) (rm : RM) : Statement (.movsxGvEw r rm) := fun osz asz rest h => by
  show decodeTwoByte osz asz 0xBF (encodeRM r.toBits rm ++ rest) = _
  exact rm_reg (fun rm r => .movsxGvEw r rm) h rest

theorem pushEs : Statement .pushEs := fun _ _ _ _ => by
  rfl

theorem pushCs : Statement .pushCs := fun _ _ _ _ => by
  rfl

theorem pushSs : Statement .pushSs := fun _ _ _ _ => by
  rfl

theorem pushDs : Statement .pushDs := fun _ _ _ _ => by
  rfl

theorem pushFs : Statement .pushFs := fun _ _ _ _ => by
  rfl

theorem pushGs : Statement .pushGs := fun _ _ _ _ => by
  rfl

theorem popEs : Statement .popEs := fun _ _ _ _ => by
  rfl

theorem popSs : Statement .popSs := fun _ _ _ _ => by
  rfl

theorem popDs : Statement .popDs := fun _ _ _ _ => by
  rfl

theorem popFs : Statement .popFs := fun _ _ _ _ => by
  rfl

theorem popGs : Statement .popGs := fun _ _ _ _ => by
  rfl

theorem daa : Statement .daa := fun _ _ _ _ => by
  rfl

theorem das : Statement .das := fun _ _ _ _ => by
  rfl

theorem aaa : Statement .aaa := fun _ _ _ _ => by
  rfl

theorem aas : Statement .aas := fun _ _ _ _ => by
  rfl

theorem pusha : Statement .pusha := fun osz _ _ h => by
  cases osz <;> first | exact Bool.noConfusion h | rfl

theorem pushad : Statement .pushad := fun osz _ _ h => by
  cases osz <;> first | exact Bool.noConfusion h | rfl

theorem popa : Statement .popa := fun osz _ _ h => by
  cases osz <;> first | exact Bool.noConfusion h | rfl

theorem popad : Statement .popad := fun osz _ _ h => by
  cases osz <;> first | exact Bool.noConfusion h | rfl

theorem insb : Statement .insb := fun _ _ _ _ => by
  rfl

theorem insw : Statement .insw := fun osz _ _ h => by
  cases osz <;> first | exact Bool.noConfusion h | rfl

theorem insd : Statement .insd := fun osz _ _ h => by
  cases osz <;> first | exact Bool.noConfusion h | rfl

theorem outsb : Statement .outsb := fun _ _ _ _ => by
  rfl

theorem outsw : Statement .outsw := fun osz _ _ h => by
  cases osz <;> first | exact Bool.noConfusion h | rfl

theorem outsd : Statement .outsd := fun osz _ _ h => by
  cases osz <;> first | exact Bool.noConfusion h | rfl

theorem nop : Statement .nop := fun _ _ _ _ => by
  rfl

theorem xchgEaxEcx : Statement .xchgEaxEcx := fun _ _ _ _ => by
  rfl

theorem xchgEaxEdx : Statement .xchgEaxEdx := fun _ _ _ _ => by
  rfl

theorem xchgEaxEbx : Statement .xchgEaxEbx := fun _ _ _ _ => by
  rfl

theorem xchgEaxEsp : Statement .xchgEaxEsp := fun _ _ _ _ => by
  rfl

theorem xchgEaxEbp : Statement .xchgEaxEbp := fun _ _ _ _ => by
  rfl

theorem xchgEaxEsi : Statement .xchgEaxEsi := fun _ _ _ _ => by
  rfl

theorem xchgEaxEdi : Statement .xchgEaxEdi := fun _ _ _ _ => by
  rfl

theorem cbw : Statement .cbw := fun osz _ _ h => by
  cases osz <;> first | exact Bool.noConfusion h | rfl

theorem cwde : Statement .cwde := fun osz _ _ h => by
  cases osz <;> first | exact Bool.noConfusion h | rfl

theorem cwd : Statement .cwd := fun osz _ _ h => by
  cases osz <;> first | exact Bool.noConfusion h | rfl

theorem cdq : Statement .cdq := fun osz _ _ h => by
  cases osz <;> first | exact Bool.noConfusion h | rfl

theorem wait : Statement .wait := fun _ _ _ _ => by
  rfl

theorem pushf : Statement .pushf := fun osz _ _ h => by
  cases osz <;> first | exact Bool.noConfusion h | rfl

theorem pushfd : Statement .pushfd := fun osz _ _ h => by
  cases osz <;> first | exact Bool.noConfusion h | rfl

theorem popf : Statement .popf := fun osz _ _ h => by
  cases osz <;> first | exact Bool.noConfusion h | rfl

theorem popfd : Statement .popfd := fun osz _ _ h => by
  cases osz <;> first | exact Bool.noConfusion h | rfl

theorem sahf : Statement .sahf := fun _ _ _ _ => by
  rfl

theorem lahf : Statement .lahf := fun _ _ _ _ => by
  rfl

theorem movsb : Statement .movsb := fun _ _ _ _ => by
  rfl

theorem movsw : Statement .movsw := fun osz _ _ h => by
  cases osz <;> first | exact Bool.noConfusion h | rfl

theorem movsd : Statement .movsd := fun osz _ _ h => by
  cases osz <;> first | exact Bool.noConfusion h | rfl

theorem cmpsb : Statement .cmpsb := fun _ _ _ _ => by
  rfl

theorem cmpsw : Statement .cmpsw := fun osz _ _ h => by
  cases osz <;> first | exact Bool.noConfusion h | rfl

theorem cmpsd : Statement .cmpsd := fun osz _ _ h => by
  cases osz <;> first | exact Bool.noConfusion h | rfl

theorem stosb : Statement .stosb := fun _ _ _ _ => by
  rfl

theorem stosw : Statement .stosw := fun osz _ _ h => by
  cases osz <;> first | exact Bool.noConfusion h | rfl

theorem stosd : Statement .stosd := fun osz _ _ h => by
  cases osz <;> first | exact Bool.noConfusion h | rfl

theorem lodsb : Statement .lodsb := fun _ _ _ _ => by
  rfl

theorem lodsw : Statement .lodsw := fun osz _ _ h => by
  cases osz <;> first | exact Bool.noConfusion h | rfl

theorem lodsd : Statement .lodsd := fun osz _ _ h => by
  cases osz <;> first | exact Bool.noConfusion h | rfl

theorem scasb : Statement .scasb := fun _ _ _ _ => by
  rfl

theorem scasw : Statement .scasw := fun osz _ _ h => by
  cases osz <;> first | exact Bool.noConfusion h | rfl

theorem scasd : Statement .scasd := fun osz _ _ h => by
  cases osz <;> first | exact Bool.noConfusion h | rfl

theorem retNear : Statement .retNear := fun _ _ _ _ => by
  rfl

theorem leave : Statement .leave := fun _ _ _ _ => by
  rfl

theorem retFar : Statement .retFar := fun _ _ _ _ => by
  rfl

theorem int3 : Statement .int3 := fun _ _ _ _ => by
  rfl

theorem into : Statement .into := fun _ _ _ _ => by
  rfl

theorem iret : Statement .iret := fun osz _ _ h => by
  cases osz <;> first | exact Bool.noConfusion h | rfl

theorem iretd : Statement .iretd := fun osz _ _ h => by
  cases osz <;> first | exact Bool.noConfusion h | rfl

theorem xlat : Statement .xlat := fun _ _ _ _ => by
  rfl

theorem inAlDx : Statement .inAlDx := fun _ _ _ _ => by
  rfl

theorem inEaxDx : Statement .inEaxDx := fun _ _ _ _ => by
  rfl

theorem outDxAl : Statement .outDxAl := fun _ _ _ _ => by
  rfl

theorem outDxEax : Statement .outDxEax := fun _ _ _ _ => by
  rfl

theorem hlt : Statement .hlt := fun _ _ _ _ => by
  rfl

theorem cmc : Statement .cmc := fun _ _ _ _ => by
  rfl

theorem clc : Statement .clc := fun _ _ _ _ => by
  rfl

theorem stc : Statement .stc := fun _ _ _ _ => by
  rfl

theorem cli : Statement .cli := fun _ _ _ _ => by
  rfl

theorem sti : Statement .sti := fun _ _ _ _ => by
  rfl

theorem cld : Statement .cld := fun _ _ _ _ => by
  rfl

theorem std : Statement .std := fun _ _ _ _ => by
  rfl

theorem clts : Statement .clts := fun _ _ _ _ => by
  rfl

theorem pfxEs : Statement .pfxEs := fun _ _ _ _ => by
  rfl

theorem pfxCs : Statement .pfxCs := fun _ _ _ _ => by
  rfl

theorem pfxSs : Statement .pfxSs := fun _ _ _ _ => by
  rfl

theorem pfxDs : Statement .pfxDs := fun _ _ _ _ => by
  rfl

theorem pfxFs : Statement .pfxFs := fun _ _ _ _ => by
  rfl

theorem pfxGs : Statement .pfxGs := fun _ _ _ _ => by
  rfl

theorem pfxOpSize : Statement .pfxOpSize := fun _ _ _ _ => by
  rfl

theorem pfxAddrSize : Statement .pfxAddrSize := fun _ _ _ _ => by
  rfl

theorem pfxLock : Statement .pfxLock := fun _ _ _ _ => by
  rfl

theorem pfxRepne : Statement .pfxRepne := fun _ _ _ _ => by
  rfl

theorem pfxRep : Statement .pfxRep := fun _ _ _ _ => by
  rfl

theorem undef82 : Statement .undef82 := fun _ _ _ _ => by
  rfl

theorem undefD6 : Statement .undefD6 := fun _ _ _ _ => by
  rfl

theorem undefF1 : Statement .undefF1 := fun _ _ _ _ => by
  rfl

end Sys2Proof.Laws.RoundTrip
end

