-- ==== Sys2Proof/Laws/Run.lean ====
section
/-! SUPPORT. Run.lean: how an instruction's outcome follows from its action, and what storing at a place does. -/

namespace Sys2Proof.Machine

@[simp] theorem endState_ok {α : Type} (a : α) (t : State) : endState (.ok a t : EStateM.Result Stop State α) = t := rfl
@[simp] theorem endState_error {α : Type} (x : Stop) (t : State) :
    endState (.error x t : EStateM.Result Stop State α) = t := rfl

theorem begin_run {lockable : Bool} {m : M Unit} {s : State} (lock : s.cur.lock = true → lockable = true) :
    begin lockable m s = m s.entered := by
  have c : (!s.cur.lock || lockable) = true := by
    cases h : s.cur.lock
    · rfl
    · simp [lock h]
  simp only [begin, bind_run, get_run, require_run, c, if_true, modify_run]
  rfl

/-- An instruction whose action ends well. -/
theorem run_ok {lockable : Bool} {m : M Unit} {s t : State} (lock : s.cur.lock = true → lockable = true)
    (h : m s.entered = .ok () t) : run lockable m s = .next t := by
  rw [run, begin_run lock, h]; rfl

/-- An instruction whose action raises an exception. -/
theorem run_exc {lockable : Bool} {m : M Unit} {s t : State} {x : Exn} (lock : s.cur.lock = true → lockable = true)
    (h : m s.entered = .error (.exc x) t) : run lockable m s = takeFault s t x := by
  rw [run, begin_run lock, h]; rfl

/-- An instruction whose action is refused. -/
theorem run_refuse {lockable : Bool} {m : M Unit} {s t : State} {r : Refusal}
    (lock : s.cur.lock = true → lockable = true) (h : m s.entered = .error (.refuse r) t) :
    run lockable m s = .refused r := by
  rw [run, begin_run lock, h]; rfl

/-- A LOCK prefix on a form that does not take it. -/
theorem run_locked {m : M Unit} {s : State} (lock : s.cur.lock = true) : run false m s = takeFault s s ud := by
  simp [run, begin, lock, settle]

theorem secondFirst_run (pas : List Word32) (s : State) :
    ∃ b u, secondFirst pas s = .ok b u ∧ (u = s ∨ u = { s with free := s.free + 1 }) := by
  unfold secondFirst
  cases h : touchesDevice s.plat.map pas
  · exact ⟨false, s, by simp [h], .inl rfl⟩
  · exact ⟨_, _, by simp only [bind_run, get_run, h, if_true]; rfl, .inr rfl⟩

/-- Writing a run of bytes always ends well, in the state with its one or two bus cycles written. -/
theorem physWrite_run (cells : List (Word32 × Byte)) (s : State) :
    ∃ t, physWrite cells s = .ok () t ∧
      (t = s ∨ (∃ p, (∀ c ∈ p, c ∈ cells) ∧ t = s.writePiece p) ∨
        ∃ p q u, (∀ c, c ∈ p ∨ c ∈ q → c ∈ cells) ∧ (u = s ∨ u = { s with free := s.free + 1 }) ∧
          t = (u.writePiece p).writePiece q) := by
  unfold physWrite
  cases cells with
  | nil => exact ⟨s, rfl, .inl rfl⟩
  | cons c rest =>
    dsimp only
    have hp : ∀ d, d ∈ List.take (firstPiece c.1) (c :: rest) → d ∈ c :: rest := fun d h => List.mem_of_mem_take h
    have hq : ∀ d, d ∈ List.drop (firstPiece c.1) (c :: rest) → d ∈ c :: rest := fun d h => List.mem_of_mem_drop h
    split
    · exact ⟨_, rfl, .inr (.inl ⟨_, hp, rfl⟩)⟩
    · obtain ⟨b, u, e, hu⟩ := secondFirst_run ((c :: rest).map (·.1)) s
      rw [bind_ok e]
      cases b
      · exact ⟨_, rfl, .inr (.inr ⟨_, _, u, fun d h => h.elim (hp d) (hq d), hu, rfl⟩)⟩
      · exact ⟨_, rfl, .inr (.inr ⟨_, _, u, fun d h => h.elim (hq d) (hp d), hu, rfl⟩)⟩

theorem physWrite_ok (cells : List (Word32 × Byte)) (s : State) : ∃ t, physWrite cells s = .ok () t := by
  obtain ⟨t, h, _⟩ := physWrite_run cells s
  exact ⟨t, h⟩

/-- What another bus master is about to write after a bus cycle, it was about to write before. -/
theorem State.writePiece_outside {s : State} {p : List (Word32 × Byte)} {x : Nat} (h : (s.writePiece p).outside x) :
    s.outside x := (Access.writePiece s p).outside h

/-- Writing a run of bytes leaves every other byte alone, but for those of other bus masters. -/
theorem physWrite_get_other {cells : List (Word32 × Byte)} {s t : State} (h : physWrite cells s = .ok () t)
    (wf : s.mem.wf = true) {x : Nat} (hx : ∀ c ∈ cells, c.1.toNat ≠ x) (ho : ¬ s.outside x) :
    t.mem.get x = s.mem.get x := by
  obtain ⟨t', h', e⟩ := physWrite_run cells s
  rw [h] at h'
  cases h'
  rcases e with rfl | ⟨p, sub, rfl⟩ | ⟨p, q, u, sub, hu, rfl⟩
  · rfl
  · exact State.writePiece_get_other wf p (fun c h => hx c (sub c h)) ho
  · have hw : u.mem.wf = true := by rcases hu with rfl | rfl <;> exact wf
    have hu' : ¬ u.outside x := by rcases hu with rfl | rfl <;> exact ho
    rw [State.writePiece_get_other (State.writePiece_wf hw p) q (fun c h => hx c (sub c (.inr h)))
        fun k => hu' (State.writePiece_outside k),
      State.writePiece_get_other hw p (fun c h => hx c (sub c (.inl h))) hu']
    rcases hu with rfl | rfl <;> rfl

/-- Writing a place always ends well. -/
theorem writeLoc_ok (w : Width) (l : Loc) (v : Val w) (s : State) : writeLoc w l v s = .ok () (s.stored w l v) := by
  cases l with
  | reg r => rfl
  | mem pas =>
    obtain ⟨t, h⟩ := physWrite_ok (pas.zip (toBytes w.bytes v)) s
    simp only [State.stored, writeLoc, h, endState_ok]

@[simp] theorem stored_reg (s : State) (w : Width) (r : Reg) (v : Val w) : s.stored w (.reg r) v = s.withReg w r v := rfl

/-- Storing at a place leaves every byte outside it alone, but for those of other bus masters. -/
theorem stored_kept {s : State} (wf : s.mem.wf = true) (w : Width) (l : Loc) (v : Val w) :
    MemoryKept s (s.stored w l v) l := fun x hx ho => by
  cases l with
  | reg r => rfl
  | mem pas =>
    refine physWrite_get_other (writeLoc_ok w (.mem pas) v s) wf (fun c hc e => hx ⟨c.1, ?_, e⟩) ho
    exact (List.of_mem_zip hc).1

/-- Storing at a place changes the place and nothing else. -/
theorem stored_access (s : State) (w : Width) (pas : List Word32) (v : Val w) :
    Access s (s.stored w (.mem pas) v) := (physWrite_access _).run s |> fun h => by
  rw [State.stored, writeLoc]
  obtain ⟨t, e⟩ := physWrite_ok (pas.zip (toBytes w.bytes v)) s
  rw [e] at h ⊢
  exact h

/-! ## LOCK# -/

/-- An action under LOCK# that ends well. -/
theorem locked_ok {α : Type} {m : M α} {s t : State} {a : α} (h : m s.lockBus = .ok a t) :
    locked m s = .ok a { t with busLock := s.busLock } := by
  unfold locked
  rw [h]

@[simp] theorem lockedIf_false {α : Type} (m : M α) : lockedIf false m = m := rfl
@[simp] theorem lockedIf_true {α : Type} (m : M α) : lockedIf true m = locked m := rfl
@[simp] theorem State.lockedIf_false (s : State) : s.lockedIf false = s := rfl
@[simp] theorem State.lockedIf_true (s : State) : s.lockedIf true = s.lockBus := rfl

/-- With no other bus master about to write, LOCK# asserted is all that changes. -/
theorem State.lockBus_quiet {s : State} (h : s.masters = []) : s.lockBus = { s with busLock := true } := by
  unfold State.lockBus
  rw [State.cycle_quiet h]

/-- Writing back outside LOCK# is storing. -/
@[simp] theorem State.writtenBack_false (s : State) (w : Width) (l : Loc) (v : Val w) :
    s.writtenBack false w l v = { s.stored w l v with busLock := s.busLock } := by
  unfold State.writtenBack
  rw [Bool.or_false]

/-- Writing back leaves every byte outside the place alone, but for those of other bus masters. -/
theorem writtenBack_kept {s : State} (wf : s.mem.wf = true) (c : Bool) (w : Width) (l : Loc) (v : Val w) :
    MemoryKept s (s.writtenBack c w l v) l := fun x hx ho =>
  stored_kept (s := { s with busLock := s.busLock || c }) wf w l v x hx ho

theorem setEffect_run (e : FlagEffect) (s : State) : setEffect e s = .ok () (s.effect e) := rfl

/-- What an action that reads from `entered` on leaves. -/
theorem Reading.through {s u : State} (h : Reading s.entered u) : u = s.through u := h.1.1

/-- Memory keeps its canonical form. -/
theorem Reading.wf {s u : State} (h : Reading s u) (wf : s.mem.wf = true) : u.mem.wf = true := h.1.2.1 wf

/-- Every byte is as it was since the operands began to be read, and no byte was about to be written by another bus master
that was not. -/
theorem Reading.kept {s u : State} (h : Reading s u) (pg : s.cr0.pg = false) (wf : s.mem.wf = true) :
    MemoryKept s u .nowhere := fun x _ ho => (h.2 pg).2.2.1 wf x ho

/-- The same from the state the instruction began in. -/
theorem Reading.keptSince {s u : State} (h : Reading s.entered u) (pg : s.cr0.pg = false) (wf : s.mem.wf = true) :
    MemoryKept s u .nowhere := h.kept (s := s.entered) pg wf

/-- With paging off, memory kept since the operands were read is memory kept since the instruction began. -/
theorem MemoryKept.since {s u t : State} {l : Loc} (h : Reading s.entered u) (k : MemoryKept u t l)
    (pg : s.cr0.pg = false) (wf : s.mem.wf = true) : MemoryKept s t l := fun x hx ho =>
  (k x hx fun o => ho (h.1.outside o)).trans ((h.2 pg).2.2.1 wf x ho)

/-- Memory kept by a store in a state that differs from `u` elsewhere only. -/
theorem stored_kept_of {s u : State} (h : s.mem = u.mem) (m : s.masters = u.masters) (wf : u.mem.wf = true) (w : Width)
    (l : Loc) (v : Val w) : MemoryKept u (s.stored w l v) l := fun x hx ho =>
  (stored_kept (by rw [h]; exact wf) w l v x hx (by unfold State.outside; rw [m]; exact ho)).trans (by rw [h])

end Sys2Proof.Machine
end

