-- ==== Sys2Proof/Laws/Stack.lean ====
section
/-! SUPPORT. Stack.lean: what probes and pushes do, in the terms of the statements: where they store, what they leave of
the stack pointer, and that with paging off nothing else in memory changes. -/

namespace Sys2Proof.Machine

/-! ## The stack pointer -/

theorem setLow16_bit (a : Word32) (v : Word16) (i : Nat) :
    (setLow16 a v).getLsbD i = if i < 16 then v.getLsbD i else a.getLsbD i := by
  have h := BitVec.getLsbD_append (x := a.extractLsb' 16 16) (y := v) (i := i)
  unfold setLow16
  by_cases k : i < 16
  · simp only [k, if_true] at h ⊢
    exact h
  · simp only [k, if_false] at h ⊢
    refine h.trans ?_
    rw [BitVec.getLsbD_extractLsb', show 16 + (i - 16) = i by omega]
    by_cases j : i - 16 < 16
    · simp [j]
    · simp only [j, decide_false, Bool.false_and]
      exact (BitVec.getLsbD_of_ge a i (by omega)).symm

theorem low_setLow16 (a : Word32) (v : Word16) : (setLow16 a v).extractLsb' 0 16 = v := by
  apply BitVec.eq_of_getLsbD_eq
  intro i hi
  simp [setLow16_bit, hi]

theorem setLow16_setLow16 (a : Word32) (v u : Word16) : setLow16 (setLow16 a v) u = setLow16 a u := by
  apply BitVec.eq_of_getLsbD_eq
  intro i hi
  simp only [setLow16_bit]
  split <;> rfl

theorem setLow16_low (a : Word32) : setLow16 a (a.extractLsb' 0 16) = a := by
  apply BitVec.eq_of_getLsbD_eq
  intro i hi
  simp only [setLow16_bit, BitVec.getLsbD_extractLsb']
  split <;> simp_all

theorem low_add (a b : Word32) : (a + b).extractLsb' 0 16 = a.extractLsb' 0 16 + b.extractLsb' 0 16 := by
  apply BitVec.eq_of_toNat_eq
  simp only [BitVec.extractLsb'_toNat, BitVec.toNat_add, Nat.shiftRight_zero]
  omega

theorem stackOff_low (v : Word32) : stackOff .s16 v = (v.extractLsb' 0 16).setWidth 32 := by
  apply BitVec.eq_of_toNat_eq
  have := Nat.and_two_pow_sub_one_eq_mod v.toNat 16
  simp only [stackOff, BitVec.toNat_and, BitVec.toNat_setWidth, BitVec.extractLsb'_toNat, Nat.shiftRight_zero]
  simp at this
  simp [this]
  omega

theorem Regs.setSP_stackOff (g : Regs) (z : Size) (a b : Word32) :
    stackOff z ((g.setSP z (g.esp + a)).esp + b) = stackOff z (g.esp + (a + b)) := by
  cases z
  · simp only [stackOff_low, Regs.setSP, low_add, low_setLow16, BitVec.add_assoc]
  · simp only [stackOff, Regs.setSP, BitVec.add_assoc]

theorem Regs.setSP_setSP (g : Regs) (z : Size) (a b : Word32) :
    (g.setSP z (g.esp + a)).setSP z ((g.setSP z (g.esp + a)).esp + b) = g.setSP z (g.esp + (a + b)) := by
  cases z
  · simp only [Regs.setSP, low_add, low_setLow16, setLow16_setLow16, BitVec.add_assoc]
  · simp only [Regs.setSP, BitVec.add_assoc]

theorem Regs.setSP_self (g : Regs) (z : Size) : g.setSP z g.esp = g := by
  cases z
  · simp only [Regs.setSP, setLow16_low]
  · rfl

/-- An offset from the top of the stack after (E)SP has moved. -/
theorem State.stackAt_moveSP (s : State) (a b : Word32) : (s.moveSP a).stackAt b = s.stackAt (a + b) :=
  Regs.setSP_stackOff _ _ _ _

/-- Two moves of (E)SP are one. -/
theorem State.moveSP_moveSP (s : State) (a b : Word32) : (s.moveSP a).moveSP b = s.moveSP (a + b) :=
  congrArg (fun g => { s with regs := g }) (Regs.setSP_setSP s.regs s.stackSize a b)

@[simp] theorem State.moveSP_zero (s : State) : s.moveSP 0 = s :=
  congrArg (fun g => { s with regs := g })
    ((congrArg (s.regs.setSP s.stackSize) (BitVec.add_zero _)).trans (Regs.setSP_self s.regs s.stackSize))

/-! ## Probes and pushes -/

theorem Probed.run {user : Bool} {w : Width} : ∀ {k : Nat} {s t : State}, Probed user w k s t →
    probePushesAs user w k s = .ok () t
  | 0, _, _, h => by cases h; rfl
  | _ + 1, _, _, ⟨u, pas, h, e⟩ => by
    unfold probePushesAs
    simp only [bind_run, Probed.run h, get_run, e, pure_run]

/-- The slots before the one that fails pass. -/
theorem ProbeFails.run {user : Bool} {w : Width} : ∀ {k : Nat} {s t : State} {x : Exn}, ProbeFails user w k s x t →
    probePushesAs user w k s = .error (.exc x) t
  | 0, _, _, _, ⟨i, _, h, _⟩ => absurd h (Nat.not_lt_zero i)
  | k + 1, s, t, x, ⟨i, u, h, p, e⟩ => by
    unfold probePushesAs
    rcases Nat.lt_succ_iff_lt_or_eq.mp h with l | rfl
    · simp only [bind_run, ProbeFails.run ⟨i, u, l, p, e⟩]
    · simp only [bind_run, Probed.run p, get_run, e]

/-- One push: its slot resolved, the value stored, (E)SP down. -/
theorem pushAs_run (user : Bool) (w : Width) (v : Val w) (s : State) :
    pushAs user w v s = match segResolveAs user .ss (s.stackAt (-distOf w)) w.bytes true true s with
      | .error x t => .error x t
      | .ok pas u => .ok () ((u.stored w (.mem pas) v).moveSP (-distOf w)) := by
  unfold pushAs
  simp only [bind_run, get_run]
  cases segResolveAs user .ss (s.stackAt (-distOf w)) w.bytes true true s with
  | error x t => rfl
  | ok pas u =>
    have h := writeLoc_ok w (.mem pas) v u
    unfold writeLoc at h
    simp only [h, modify_run]

theorem Probed.of_run {user : Bool} {w : Width} : ∀ {k : Nat} {s t : State},
    probePushesAs user w k s = .ok () t → Probed user w k s t
  | 0, _, _, h => by cases h; rfl
  | k + 1, s, t, h => by
    unfold probePushesAs at h
    cases e : probePushesAs user w k s with
    | error x u => rw [bind_error e] at h; cases h
    | ok a u =>
      rw [bind_ok e, bind_ok (get_run u)] at h
      cases r : segResolveAs user .ss (u.stackAt (-BitVec.ofNat 32 ((k + 1) * w.bytes))) w.bytes true false u with
      | error x v => rw [bind_error r] at h; cases h
      | ok pas v => rw [bind_ok r] at h; cases h; exact ⟨u, pas, Probed.of_run e, r⟩

/-- A check of slots passes exactly if it answers. -/
theorem probePushesAs_ok {user : Bool} {w : Width} {k : Nat} {s t : State} :
    probePushesAs user w k s = .ok () t ↔ Probed user w k s t := ⟨Probed.of_run, Probed.run⟩

theorem ProbeFails.of_run {user : Bool} {w : Width} : ∀ {k : Nat} {s t : State} {x : Exn},
    probePushesAs user w k s = .error (.exc x) t → ProbeFails user w k s x t
  | 0, _, _, _, h => by cases h
  | k + 1, s, t, x, h => by
    unfold probePushesAs at h
    cases e : probePushesAs user w k s with
    | error y u =>
      rw [bind_error e] at h
      cases h
      obtain ⟨i, u, l, p, r⟩ := ProbeFails.of_run e
      exact ⟨i, u, Nat.lt_succ_of_lt l, p, r⟩
    | ok a u =>
      rw [bind_ok e, bind_ok (get_run u)] at h
      cases r : segResolveAs user .ss (u.stackAt (-BitVec.ofNat 32 ((k + 1) * w.bytes))) w.bytes true false u with
      | error y v => rw [bind_error r] at h; cases h; exact ⟨k, u, Nat.lt_succ_self k, Probed.of_run e, r⟩
      | ok pas v => rw [bind_ok r] at h; cases h

/-- A check of slots fails exactly if it raises an exception. -/
theorem probePushesAs_exc {user : Bool} {w : Width} {k : Nat} {s t : State} {x : Exn} :
    probePushesAs user w k s = .error (.exc x) t ↔ ProbeFails user w k s x t := ⟨ProbeFails.of_run, ProbeFails.run⟩

/-- Values pushed in order at a page level. -/
def pushAllAs (user : Bool) (w : Width) : List (Val w) → M Unit
  | [] => pure ()
  | v :: vs => do
    pushAs user w v
    pushAllAs user w vs

theorem Pushed.run {user : Bool} {w : Width} : ∀ {vs : List (Val w)} {s t : State} {pas : List Word32},
    Pushed user w vs s t pas → pushAllAs user w vs s = .ok () t
  | [], _, _, _, h => by cases h.1; rfl
  | v :: vs, s, t, _, ⟨p, q, u, e, h, _⟩ => by
    unfold pushAllAs
    simp only [bind_run, pushAs_run, e]
    exact h.run

theorem Pushed.of_run {user : Bool} {w : Width} : ∀ {vs : List (Val w)} {s t : State},
    pushAllAs user w vs s = .ok () t → ∃ pas, Pushed user w vs s t pas
  | [], s, t, h => by cases h; exact ⟨[], rfl, rfl⟩
  | v :: vs, s, t, h => by
    unfold pushAllAs at h
    simp only [bind_run, pushAs_run] at h
    cases e : segResolveAs user .ss (s.stackAt (-distOf w)) w.bytes true true s with
    | error x u => rw [e] at h; cases h
    | ok p u =>
      rw [e] at h
      obtain ⟨q, k⟩ := Pushed.of_run h
      exact ⟨p ++ q, p, q, u, e, k, rfl⟩

/-- Values are pushed exactly if the pushes answer. -/
theorem pushAllAs_ok {user : Bool} {w : Width} {vs : List (Val w)} {s t : State} :
    pushAllAs user w vs s = .ok () t ↔ ∃ pas, Pushed user w vs s t pas := ⟨Pushed.of_run, fun ⟨_, h⟩ => h.run⟩

theorem PushFails.run {user : Bool} {w : Width} : ∀ {vs : List (Val w)} {s t : State} {x : Exn},
    PushFails user w vs s x t → pushAllAs user w vs s = .error (.exc x) t
  | [], _, _, _, ⟨i, _, _, h, _⟩ => absurd h (Nat.not_lt_zero i)
  | v :: vs, s, t, x, ⟨0, u, pas, _, h, e⟩ => by
    obtain ⟨rfl, _⟩ := h
    unfold pushAllAs
    simp only [bind_run, pushAs_run, e]
  | v :: vs, s, t, x, ⟨i + 1, u, pas, l, ⟨p, q, y, e', h, _⟩, e⟩ => by
    unfold pushAllAs
    simp only [bind_run, pushAs_run, e']
    exact PushFails.run ⟨i, u, q, Nat.lt_of_succ_lt_succ l, h, e⟩

theorem PushFails.of_run {user : Bool} {w : Width} : ∀ {vs : List (Val w)} {s t : State} {x : Exn},
    pushAllAs user w vs s = .error (.exc x) t → PushFails user w vs s x t
  | [], _, _, _, h => by cases h
  | v :: vs, s, t, x, h => by
    unfold pushAllAs at h
    simp only [bind_run, pushAs_run] at h
    cases e : segResolveAs user .ss (s.stackAt (-distOf w)) w.bytes true true s with
    | error y u =>
      rw [e] at h
      cases h
      exact ⟨0, s, [], Nat.succ_pos _, ⟨rfl, rfl⟩, e⟩
    | ok p u =>
      rw [e] at h
      obtain ⟨i, z, q, l, k, r⟩ := PushFails.of_run h
      exact ⟨i + 1, z, p ++ q, Nat.succ_lt_succ l, ⟨p, q, u, e, k, rfl⟩, r⟩

/-- One of values pushed in order cannot be exactly if the pushes raise an exception. -/
theorem pushAllAs_exc {user : Bool} {w : Width} {vs : List (Val w)} {s t : State} {x : Exn} :
    pushAllAs user w vs s = .error (.exc x) t ↔ PushFails user w vs s x t := ⟨PushFails.of_run, PushFails.run⟩

theorem pushAllSystem_eq : ∀ vs : List Word32, pushAllSystem vs = pushAllAs false .b32 vs
  | [] => rfl
  | v :: vs => by unfold pushAllSystem pushAllAs pushSystem; rw [pushAllSystem_eq vs]

theorem Pushed.pushAllSystem {vs : List Word32} {s t : State} {pas : List Word32} (h : Pushed false .b32 vs s t pas) :
    pushAllSystem vs s = .ok () t := by rw [pushAllSystem_eq]; exact h.run

theorem PushFails.pushAllSystem {vs : List Word32} {s t : State} {x : Exn} (h : PushFails false .b32 vs s x t) :
    pushAllSystem vs s = .error (.exc x) t := by rw [pushAllSystem_eq]; exact h.run

/-- The state after a push: (E)SP down, and what an access changes. -/
theorem push_access {user : Bool} {w : Width} {v : Val w} {s u : State} {p : List Word32}
    (e : segResolveAs user .ss (s.stackAt (-distOf w)) w.bytes true true s = .ok p u) :
    ((u.stored w (.mem p) v).moveSP (-distOf w)) = (s.moveSP (-distOf w)).rollback (u.stored w (.mem p) v) := by
  have a : Access s u := (segResolveAs_access _ _ _ _ _ _).ok e
  have b := (Access.order.trans a (stored_access u w p v)).1
  unfold State.moveSP State.stackSize
  rw [b]; rfl

/-- Pushes at user level or at supervisor level, in order. -/
theorem Pushed.pushAll {w : Width} : ∀ {vs : List (Val w)} {s t : State} {pas : List Word32},
    Pushed s.user w vs s t pas → pushAll w vs s = .ok () t
  | [], _, _, _, h => by cases h.1; rfl
  | v :: vs, s, t, _, ⟨p, q, u, e, h, _⟩ => by
    have k : ((u.stored w (.mem p) v).moveSP (-distOf w)).user = s.user := by rw [push_access e]; rfl
    unfold Sys2Proof.Machine.pushAll push
    simp only [bind_run, get_run, pushAs_run, e]
    exact Pushed.pushAll (by rw [k]; exact h)

theorem Pushed.append {user : Bool} {w : Width} : ∀ {vs ws : List (Val w)} {s t : State} {pas : List Word32},
    Pushed user w (vs ++ ws) s t pas ↔
      ∃ u p q, Pushed user w vs s u p ∧ Pushed user w ws u t q ∧ pas = p ++ q
  | [], ws, s, t, pas => by
    constructor
    · exact fun h => ⟨s, [], pas, ⟨rfl, rfl⟩, h, rfl⟩
    · rintro ⟨u, p, q, ⟨rfl, rfl⟩, h, rfl⟩; exact h
  | v :: vs, ws, s, t, pas => by
    constructor
    · rintro ⟨p, q, u, e, h, rfl⟩
      obtain ⟨x, p', q', h1, h2, rfl⟩ := Pushed.append.mp h
      exact ⟨x, p ++ p', q', ⟨p, p', u, e, h1, rfl⟩, h2, by rw [List.append_assoc]⟩
    · rintro ⟨x, _, q', ⟨p, p', u, e, h1, rfl⟩, h2, rfl⟩
      exact ⟨p, p' ++ q', u, e, Pushed.append.mpr ⟨x, p', q', h1, h2, rfl⟩, by rw [List.append_assoc]⟩

theorem Access.moveSP {s t : State} (h : Access s t) (k : Word32) : Access (s.moveSP k) (t.moveSP k) := by
  obtain ⟨h1, h2, h3⟩ := h
  refine ⟨?_, h2, h3⟩
  unfold State.moveSP State.stackSize
  rw [h1]; rfl

/-- One push leaves (E)SP down, and what accesses change. -/
theorem push_state {user : Bool} {w : Width} {v : Val w} {s u : State} {p : List Word32}
    (e : segResolveAs user .ss (s.stackAt (-distOf w)) w.bytes true true s = .ok p u) :
    Access (s.moveSP (-distOf w)) ((u.stored w (.mem p) v).moveSP (-distOf w)) :=
  (Access.order.trans ((segResolveAs_access _ _ _ _ _ _).ok e) (stored_access u w p v)).moveSP _

theorem slot_succ (w : Width) (k : Nat) :
    -distOf w + -BitVec.ofNat 32 (k * w.bytes) = -BitVec.ofNat 32 ((k + 1) * w.bytes) := by
  unfold distOf
  rw [Nat.succ_mul, BitVec.ofNat_add]
  generalize BitVec.ofNat 32 w.bytes = x
  generalize BitVec.ofNat 32 (k * w.bytes) = y
  apply BitVec.eq_of_toNat_eq
  simp only [BitVec.toNat_add, BitVec.toNat_neg]
  omega

/-- What pushes leave: (E)SP down by their bytes, and what accesses change. -/
theorem Pushed.state {user : Bool} {w : Width} : ∀ {vs : List (Val w)} {s t : State} {pas : List Word32},
    Pushed user w vs s t pas → Access (s.moveSP (-BitVec.ofNat 32 (vs.length * w.bytes))) t
  | [], s, t, _, h => by
    cases h.1
    rw [show -BitVec.ofNat 32 (([] : List (Val w)).length * w.bytes) = 0 by simp, State.moveSP_zero]
    exact Access.order.refl _
  | v :: vs, s, t, _, ⟨p, q, u, e, h, _⟩ => by
    have k := (push_state (v := v) e).moveSP (-BitVec.ofNat 32 (vs.length * w.bytes))
    rw [State.moveSP_moveSP, slot_succ] at k
    exact Access.order.trans k h.state

theorem segResolveAs_off {user : Bool} {r : SReg} {off : Word32} {n : Nat} {wr c : Bool} {s t : State} {pas : List Word32}
    (pg : s.cr0.pg = false) (h : segResolveAs user r off n wr c s = .ok pas t) :
    pas = addrs ((s.seg r).base + off) n ∧ t = s := by
  unfold segResolveAs segCheck at h
  simp only [bind_run, get_run, require_run] at h
  generalize (!s.cr0.pe || (s.seg r).allows wr) = x at h
  generalize (s.seg r).inLimit s.cr0.pe off n = y at h
  cases x <;> cases y <;> simp only [Bool.false_eq_true, if_true, if_false, reduceCtorEq, pure_run, linResolve_off pg] at h
  cases h
  exact ⟨rfl, rfl⟩

theorem slots_succ (s : State) (w : Width) (k : Nat) :
    s.slots w (k + 1) = addrs (s.ss.base + s.stackAt (-distOf w)) w.bytes ++ (s.moveSP (-distOf w)).slots w k := by
  unfold State.slots
  rw [List.range_succ_eq_map, List.flatMap_cons, List.flatMap_map]
  congr 2
  · rw [show (0 + 1) * w.bytes = w.bytes by omega]; rfl
  · funext i
    rw [State.stackAt_moveSP, slot_succ]; rfl

theorem slots_access {s t : State} (h : Access s t) (w : Width) (k : Nat) : t.slots w k = s.slots w k := by
  rw [h.1]; rfl

/-- A byte that another bus master was not about to write, and a place does not cover, is as it was. -/
theorem MemoryKept.trans {s t u : State} {p q : List Word32} (a : ∀ x, t.outside x → s.outside x)
    (h : MemoryKept s t (.mem p)) (k : MemoryKept t u (.mem q)) : MemoryKept s u (.mem (p ++ q)) := fun x hx ho =>
  (k x (fun ⟨c, m, e⟩ => hx ⟨c, List.mem_append_right _ m, e⟩) fun o => ho (a x o)).trans
    (h x (fun ⟨c, m, e⟩ => hx ⟨c, List.mem_append_left _ m, e⟩) ho)

/-- With paging off pushes store in their slots, and nothing else in memory changes. -/
theorem Pushed.kept {user : Bool} {w : Width} : ∀ {vs : List (Val w)} {s t : State} {pas : List Word32},
    Pushed user w vs s t pas → s.cr0.pg = false → s.mem.wf = true →
      pas = s.slots w vs.length ∧ MemoryKept s t (.mem pas)
  | [], s, t, pas, h, _, _ => by
    obtain ⟨rfl, rfl⟩ := h
    exact ⟨rfl, fun _ _ _ => rfl⟩
  | v :: vs, s, t, _, ⟨p, q, u, e, h, rfl⟩, pg, wf => by
    obtain ⟨rfl, rfl⟩ := segResolveAs_off pg e
    have a := push_state (v := v) e
    obtain ⟨rfl, k⟩ := h.kept (by rw [a.1]; exact pg) (a.2.1 wf)
    refine ⟨?_, MemoryKept.trans (fun x o => a.outside o) (fun x hx ho => stored_kept wf w _ v x hx ho) k⟩
    rw [List.length_cons, slots_succ, slots_access a]; rfl

/-! ## The display of ENTER -/

theorem display_eq (s : State) (w : Width) :
    s.display w = { s with regs := { s.regs with ebp := match s.stackSize with
      | .s16 => setLow16 s.regs.ebp ((s.regs.ebp - distOf w).extractLsb' 0 16)
      | .s32 => s.regs.ebp - distOf w } } := by
  have h : s.regs.ebp.extractLsb' 0 16 - BitVec.ofNat 16 w.bytes = (s.regs.ebp - distOf w).extractLsb' 0 16 := by
    apply BitVec.eq_of_toNat_eq
    cases w <;> simp only [distOf, Width.bytes, BitVec.extractLsb'_toNat, BitVec.toNat_sub, Nat.shiftRight_zero,
      BitVec.toNat_ofNat] <;> omega
  unfold State.display State.withReg
  cases s.stackSize
  · exact congrArg (fun v => { s with regs := { s.regs with ebp := setLow16 s.regs.ebp v } }) h
  · rfl

theorem copyDisplay_succ (w : Width) (k : Nat) : copyDisplay w (k + 1) = (do
      modify fun s => s.display w
      let s ← get
      let v ← segRead w .ss (stackOff s.stackSize s.regs.ebp)
      push w v
      copyDisplay w k) := by
  rw [show (fun s : State => s.display w) = _ from funext fun s => display_eq s w]
  rfl

/-- ENTER copies the pointers, and where one cannot be read or pushed it stops there. -/
theorem Displayed.run {w : Width} : ∀ {k : Nat} {s t : State} {pas : List Word32},
    Displayed w k s t pas → copyDisplay w k s = .ok () t
  | 0, _, _, _, h => by cases h.1; rfl
  | k + 1, s, t, pas, ⟨v, u, x, p, q, e, hp, h, _⟩ => by
    have us : u.user = s.user := by
      have := ((segRead_access _ _ _).ok e).1
      rw [this]; rfl
    rw [copyDisplay_succ]
    simp only [bind_run, modify_run, get_run]
    rw [show (s.display w).stackSize = s.stackSize from rfl, e]
    obtain ⟨p1, q1, y, e1, h1, _⟩ := hp
    cases h1.1
    simp only [push, bind_run, get_run, us, pushAs_run, e1]
    exact h.run

theorem DisplayFails.run {w : Width} : ∀ {k : Nat} {s t : State} {x : Exn},
    DisplayFails w k s x t → copyDisplay w k s = .error (.exc x) t
  | 0, _, _, _, ⟨i, _, _, h, _⟩ => absurd h (Nat.not_lt_zero i)
  | k + 1, s, t, x, ⟨0, u, pas, _, h, e⟩ => by
    obtain ⟨rfl, _⟩ := h
    rw [copyDisplay_succ]
    simp only [bind_run, modify_run, get_run]
    rw [show (u.display w).stackSize = u.stackSize from rfl]
    rcases e with e | ⟨v, y, e, i, z, _, hi, hz, e'⟩
    · rw [e]
    · have us : y.user = u.user := by
        have := ((segRead_access _ _ _).ok e).1
        rw [this]; rfl
      have hi : i = 0 := by simpa using hi
      subst hi
      cases hz.1
      rw [e]
      simp only [push, bind_run, get_run, us, pushAs_run, e']
  | k + 1, s, t, x, ⟨i + 1, u, pas, l, ⟨v, y, z, p, q, e', hp, h, _⟩, e⟩ => by
    have us : y.user = s.user := by
      have := ((segRead_access _ _ _).ok e').1
      rw [this]; rfl
    have uz : z.user = s.user := by
      have := hp.state.1
      rw [this]; exact us
    rw [copyDisplay_succ]
    simp only [bind_run, modify_run, get_run]
    rw [show (s.display w).stackSize = s.stackSize from rfl, e']
    obtain ⟨p1, q1, a, e1, h1, _⟩ := hp
    cases h1.1
    simp only [push, bind_run, get_run, us, pushAs_run, e1]
    exact DisplayFails.run ⟨i, u, q, Nat.lt_of_succ_lt_succ l, h, by rw [uz]; exact e⟩

theorem push_ok {w : Width} {v : Val w} {s t : State} :
    push w v s = .ok () t ↔ ∃ p, Pushed s.user w [v] s t p := by
  rw [← pushAllAs_ok]
  unfold push pushAllAs pushAllAs
  simp only [bind_run, get_run]
  cases pushAs s.user w v s <;> simp

theorem push_exc {w : Width} {v : Val w} {s t : State} {x : Exn} :
    push w v s = .error (.exc x) t ↔ PushFails s.user w [v] s x t := by
  rw [← pushAllAs_exc]
  unfold push pushAllAs pushAllAs
  simp only [bind_run, get_run]
  cases pushAs s.user w v s <;> simp

theorem display_user {w : Width} {s u : State} {r : SReg} {off : Word32} {v : Val w}
    (e : segRead w r off (s.display w) = .ok v u) : u.user = s.user := by
  rw [((segRead_access _ _ _).ok e).1]; rfl

theorem Displayed.of_run {w : Width} : ∀ {k : Nat} {s t : State},
    copyDisplay w k s = .ok () t → ∃ pas, Displayed w k s t pas
  | 0, s, t, h => by cases h; exact ⟨[], rfl, rfl⟩
  | k + 1, s, t, h => by
    rw [copyDisplay_succ, bind_ok (modify_run _ _), bind_ok (get_run _)] at h
    rw [show (s.display w).stackSize = s.stackSize from rfl] at h
    cases e : segRead w .ss (stackOff s.stackSize (s.display w).regs.ebp) (s.display w) with
    | error x u => rw [bind_error e] at h; cases h
    | ok v u =>
      rw [bind_ok e] at h
      cases ep : push w v u with
      | error x y => rw [bind_error ep] at h; cases h
      | ok a y =>
        rw [bind_ok ep] at h
        obtain ⟨p, hp⟩ := push_ok.mp ep
        rw [display_user e] at hp
        obtain ⟨q, hq⟩ := Displayed.of_run h
        exact ⟨p ++ q, v, u, y, p, q, e, hp, hq, rfl⟩

/-- The pointers are copied exactly if the copying answers. -/
theorem copyDisplay_ok {w : Width} {k : Nat} {s t : State} :
    copyDisplay w k s = .ok () t ↔ ∃ pas, Displayed w k s t pas := ⟨Displayed.of_run, fun ⟨_, h⟩ => h.run⟩

theorem DisplayFails.of_run {w : Width} : ∀ {k : Nat} {s t : State} {x : Exn},
    copyDisplay w k s = .error (.exc x) t → DisplayFails w k s x t
  | 0, s, t, x, h => by cases h
  | k + 1, s, t, x, h => by
    rw [copyDisplay_succ, bind_ok (modify_run _ _), bind_ok (get_run _)] at h
    rw [show (s.display w).stackSize = s.stackSize from rfl] at h
    cases e : segRead w .ss (stackOff s.stackSize (s.display w).regs.ebp) (s.display w) with
    | error y u =>
      rw [bind_error e] at h; cases h
      exact ⟨0, s, [], Nat.succ_pos _, ⟨rfl, rfl⟩, .inl e⟩
    | ok v u =>
      rw [bind_ok e] at h
      cases ep : push w v u with
      | error y z =>
        rw [bind_error ep] at h; cases h
        have hp := push_exc.mp ep
        rw [display_user e] at hp
        exact ⟨0, s, [], Nat.succ_pos _, ⟨rfl, rfl⟩, .inr ⟨v, u, e, hp⟩⟩
      | ok a y =>
        rw [bind_ok ep] at h
        obtain ⟨p, hp⟩ := push_ok.mp ep
        have uy : y.user = u.user := by rw [hp.state.1]; rfl
        rw [display_user e] at hp uy
        obtain ⟨i, z, q, l, hd, r⟩ := DisplayFails.of_run h
        exact ⟨i + 1, z, p ++ q, Nat.succ_lt_succ l, ⟨v, u, y, p, q, e, hp, hd, rfl⟩, by rw [← uy]; exact r⟩

/-- Copying the pointers fails exactly if it raises an exception. -/
theorem copyDisplay_exc {w : Width} {k : Nat} {s t : State} {x : Exn} :
    copyDisplay w k s = .error (.exc x) t ↔ DisplayFails w k s x t := ⟨DisplayFails.of_run, DisplayFails.run⟩

/-- A state with (E)BP replaced. -/
def State.withBP (s : State) (b : Word32) : State := { s with regs := { s.regs with ebp := b } }

theorem Regs.setSP_ebp (g : Regs) (z : Size) (v b : Word32) :
    ({ g with ebp := b } : Regs).setSP z v = { g.setSP z v with ebp := b } := by cases z <;> rfl

theorem moveSP_withBP (s : State) (b k : Word32) : (s.withBP b).moveSP k = (s.moveSP k).withBP b :=
  congrArg (fun g => { s with regs := g }) (Regs.setSP_ebp s.regs s.stackSize (s.regs.esp + k) b)

theorem Access.withBP {s t : State} (h : Access s t) (b : Word32) : Access (s.withBP b) (t.withBP b) := by
  obtain ⟨h1, h2, h3⟩ := h
  refine ⟨?_, h2, h3⟩
  rw [h1]; rfl

/-- What copying the pointers leaves: (E)SP down by their bytes, (E)BP moved, and what accesses change. -/
theorem Displayed.state {w : Width} : ∀ {k : Nat} {s t : State} {pas : List Word32}, Displayed w k s t pas →
    ∃ b, Access ((s.moveSP (-BitVec.ofNat 32 (k * w.bytes))).withBP b) t
  | 0, s, t, _, h => by
    cases h.1
    refine ⟨s.regs.ebp, ?_⟩
    rw [show -BitVec.ofNat 32 (0 * w.bytes) = 0 by simp, State.moveSP_zero]
    exact Access.order.refl _
  | k + 1, s, t, _, ⟨v, u, x, p, q, e, hp, h, _⟩ => by
    obtain ⟨b, a⟩ := h.state
    have hu : Access (s.withBP (s.display w).regs.ebp) u := by
      have := (segRead_access _ _ _).ok e
      rwa [show s.display w = s.withBP (s.display w).regs.ebp by rw [display_eq]; rfl] at this
    have hx := Access.order.trans (hu.moveSP _) hp.state
    have hx := (hx.moveSP (-BitVec.ofNat 32 (k * w.bytes))).withBP b
    refine ⟨b, Access.order.trans ?_ a⟩
    rw [State.moveSP_moveSP, moveSP_withBP, show -BitVec.ofNat 32 ([v].length * w.bytes) = -distOf w by simp [distOf],
      slot_succ] at hx
    exact hx

/-- With paging off the pointers are stored in their slots, and nothing else in memory changes. -/
theorem Displayed.kept {w : Width} : ∀ {k : Nat} {s t : State} {pas : List Word32}, Displayed w k s t pas →
    s.cr0.pg = false → s.mem.wf = true → pas = s.slots w k ∧ MemoryKept s t (.mem pas)
  | 0, s, t, pas, h, _, _ => by
    obtain ⟨rfl, rfl⟩ := h
    exact ⟨rfl, fun _ _ _ => rfl⟩
  | k + 1, s, t, _, ⟨v, u, x, p, q, e, hp, h, rfl⟩, pg, wf => by
    have r := (segRead_reading _ _ _).ok e
    have au : Access (s.withBP (s.display w).regs.ebp) u := by
      have := r.1
      rwa [show s.display w = s.withBP (s.display w).regs.ebp by rw [display_eq]; rfl] at this
    have ax := Access.order.trans (au.moveSP _) hp.state
    obtain ⟨rfl, k1⟩ := hp.kept (by rw [au.1]; exact pg) (r.1.2.1 wf)
    obtain ⟨rfl, k2⟩ := h.kept (by rw [ax.1]; exact pg) (ax.2.1 wf)
    have k0 : MemoryKept s u (.mem []) := fun y _ ho => (r.2 pg).2.2.1 wf y ho
    refine ⟨?_, ?_⟩
    · rw [slots_access au, slots_access ax, slots_succ]
      rw [moveSP_withBP, show -BitVec.ofNat 32 ([v].length * w.bytes) = -distOf w by simp [distOf]]
      congr 1
      show (s.withBP _).slots w 1 = _
      rw [slots_succ]
      exact List.append_nil _
    · have := MemoryKept.trans (fun y o => r.1.outside o) k0 k1
      rw [List.nil_append] at this
      exact MemoryKept.trans (fun y o => ax.outside o) this k2

end Sys2Proof.Machine
end

