-- ==== Sys2Proof/Laws/State.lean ====
section
/-! SUPPORT. State.lean: what each named update of the state leaves in each field, so that no proof unfolds one. -/

namespace Sys2Proof.Machine

/-! ## The instruction entered -/

@[simp] theorem State.entered_regs (s : State) : (s.entered).regs = s.regs := rfl
@[simp] theorem State.entered_eip (s : State) : (s.entered).eip = s.cur.next := rfl
@[simp] theorem State.entered_flags (s : State) : (s.entered).flags = s.flags := rfl
@[simp] theorem State.entered_es (s : State) : (s.entered).es = s.es := rfl
@[simp] theorem State.entered_cs (s : State) : (s.entered).cs = s.cs := rfl
@[simp] theorem State.entered_ss (s : State) : (s.entered).ss = s.ss := rfl
@[simp] theorem State.entered_ds (s : State) : (s.entered).ds = s.ds := rfl
@[simp] theorem State.entered_fs (s : State) : (s.entered).fs = s.fs := rfl
@[simp] theorem State.entered_gs (s : State) : (s.entered).gs = s.gs := rfl
@[simp] theorem State.entered_cpl (s : State) : (s.entered).cpl = s.cpl := rfl
@[simp] theorem State.entered_gdtr (s : State) : (s.entered).gdtr = s.gdtr := rfl
@[simp] theorem State.entered_idtr (s : State) : (s.entered).idtr = s.idtr := rfl
@[simp] theorem State.entered_ldtr (s : State) : (s.entered).ldtr = s.ldtr := rfl
@[simp] theorem State.entered_tr (s : State) : (s.entered).tr = s.tr := rfl
@[simp] theorem State.entered_cr0 (s : State) : (s.entered).cr0 = s.cr0 := rfl
@[simp] theorem State.entered_cr2 (s : State) : (s.entered).cr2 = s.cr2 := rfl
@[simp] theorem State.entered_cr3 (s : State) : (s.entered).cr3 = s.cr3 := rfl
@[simp] theorem State.entered_dbg (s : State) : (s.entered).dbg = s.dbg := rfl
@[simp] theorem State.entered_test (s : State) : (s.entered).test = s.test := rfl
@[simp] theorem State.entered_mem (s : State) : (s.entered).mem = s.mem := rfl
@[simp] theorem State.entered_tlb (s : State) : (s.entered).tlb = s.tlb := rfl
@[simp] theorem State.entered_prefetch (s : State) : (s.entered).prefetch = s.prefetch := rfl
@[simp] theorem State.entered_modeStale (s : State) : (s.entered).modeStale = s.modeStale := rfl
@[simp] theorem State.entered_nmiLatch (s : State) : (s.entered).nmiLatch = s.nmiLatch := rfl
@[simp] theorem State.entered_nmiPending (s : State) : (s.entered).nmiPending = s.nmiPending := rfl
@[simp] theorem State.entered_intr (s : State) : (s.entered).intr = s.intr := rfl
@[simp] theorem State.entered_inhibit (s : State) : (s.entered).inhibit = s.inhibit := rfl
@[simp] theorem State.entered_stiShadow (s : State) : (s.entered).stiShadow = s.stiShadow := rfl
@[simp] theorem State.entered_debugTrap (s : State) : (s.entered).debugTrap = s.debugTrap := rfl
@[simp] theorem State.entered_activity (s : State) : (s.entered).activity = s.activity := rfl
@[simp] theorem State.entered_busyLine (s : State) : (s.entered).busyLine = s.busyLine := rfl
@[simp] theorem State.entered_errorLine (s : State) : (s.entered).errorLine = s.errorLine := rfl
@[simp] theorem State.entered_busLock (s : State) : (s.entered).busLock = s.busLock := rfl
@[simp] theorem State.entered_cur (s : State) : (s.entered).cur = s.cur := rfl
@[simp] theorem State.entered_inputs (s : State) : (s.entered).inputs = s.inputs := rfl
@[simp] theorem State.entered_masters (s : State) : (s.entered).masters = s.masters := rfl
@[simp] theorem State.entered_events (s : State) : (s.entered).events = s.events := rfl
@[simp] theorem State.entered_free (s : State) : (s.entered).free = s.free := rfl
@[simp] theorem State.entered_plat (s : State) : (s.entered).plat = s.plat := rfl

/-! ## What an access may change, put back -/

@[simp] theorem State.rollback_regs (s : State) (u : State) : (s.rollback u).regs = s.regs := rfl
@[simp] theorem State.rollback_eip (s : State) (u : State) : (s.rollback u).eip = s.eip := rfl
@[simp] theorem State.rollback_flags (s : State) (u : State) : (s.rollback u).flags = s.flags := rfl
@[simp] theorem State.rollback_es (s : State) (u : State) : (s.rollback u).es = s.es := rfl
@[simp] theorem State.rollback_cs (s : State) (u : State) : (s.rollback u).cs = s.cs := rfl
@[simp] theorem State.rollback_ss (s : State) (u : State) : (s.rollback u).ss = s.ss := rfl
@[simp] theorem State.rollback_ds (s : State) (u : State) : (s.rollback u).ds = s.ds := rfl
@[simp] theorem State.rollback_fs (s : State) (u : State) : (s.rollback u).fs = s.fs := rfl
@[simp] theorem State.rollback_gs (s : State) (u : State) : (s.rollback u).gs = s.gs := rfl
@[simp] theorem State.rollback_cpl (s : State) (u : State) : (s.rollback u).cpl = s.cpl := rfl
@[simp] theorem State.rollback_gdtr (s : State) (u : State) : (s.rollback u).gdtr = s.gdtr := rfl
@[simp] theorem State.rollback_idtr (s : State) (u : State) : (s.rollback u).idtr = s.idtr := rfl
@[simp] theorem State.rollback_ldtr (s : State) (u : State) : (s.rollback u).ldtr = s.ldtr := rfl
@[simp] theorem State.rollback_tr (s : State) (u : State) : (s.rollback u).tr = s.tr := rfl
@[simp] theorem State.rollback_cr0 (s : State) (u : State) : (s.rollback u).cr0 = s.cr0 := rfl
@[simp] theorem State.rollback_cr2 (s : State) (u : State) : (s.rollback u).cr2 = u.cr2 := rfl
@[simp] theorem State.rollback_cr3 (s : State) (u : State) : (s.rollback u).cr3 = s.cr3 := rfl
@[simp] theorem State.rollback_dbg (s : State) (u : State) : (s.rollback u).dbg = s.dbg := rfl
@[simp] theorem State.rollback_test (s : State) (u : State) : (s.rollback u).test = s.test := rfl
@[simp] theorem State.rollback_mem (s : State) (u : State) : (s.rollback u).mem = u.mem := rfl
@[simp] theorem State.rollback_tlb (s : State) (u : State) : (s.rollback u).tlb = u.tlb := rfl
@[simp] theorem State.rollback_prefetch (s : State) (u : State) : (s.rollback u).prefetch = u.prefetch := rfl
@[simp] theorem State.rollback_modeStale (s : State) (u : State) : (s.rollback u).modeStale = s.modeStale := rfl
@[simp] theorem State.rollback_nmiLatch (s : State) (u : State) : (s.rollback u).nmiLatch = s.nmiLatch := rfl
@[simp] theorem State.rollback_nmiPending (s : State) (u : State) : (s.rollback u).nmiPending = s.nmiPending := rfl
@[simp] theorem State.rollback_intr (s : State) (u : State) : (s.rollback u).intr = s.intr := rfl
@[simp] theorem State.rollback_inhibit (s : State) (u : State) : (s.rollback u).inhibit = s.inhibit := rfl
@[simp] theorem State.rollback_stiShadow (s : State) (u : State) : (s.rollback u).stiShadow = s.stiShadow := rfl
@[simp] theorem State.rollback_debugTrap (s : State) (u : State) : (s.rollback u).debugTrap = s.debugTrap := rfl
@[simp] theorem State.rollback_activity (s : State) (u : State) : (s.rollback u).activity = s.activity := rfl
@[simp] theorem State.rollback_busyLine (s : State) (u : State) : (s.rollback u).busyLine = s.busyLine := rfl
@[simp] theorem State.rollback_errorLine (s : State) (u : State) : (s.rollback u).errorLine = s.errorLine := rfl
@[simp] theorem State.rollback_busLock (s : State) (u : State) : (s.rollback u).busLock = s.busLock := rfl
@[simp] theorem State.rollback_cur (s : State) (u : State) : (s.rollback u).cur = s.cur := rfl
@[simp] theorem State.rollback_inputs (s : State) (u : State) : (s.rollback u).inputs = s.inputs := rfl
@[simp] theorem State.rollback_masters (s : State) (u : State) : (s.rollback u).masters = u.masters := rfl
@[simp] theorem State.rollback_events (s : State) (u : State) : (s.rollback u).events = u.events := rfl
@[simp] theorem State.rollback_free (s : State) (u : State) : (s.rollback u).free = u.free := rfl
@[simp] theorem State.rollback_plat (s : State) (u : State) : (s.rollback u).plat = s.plat := rfl

/-! ## An instruction begun, and its accesses -/

@[simp] theorem State.through_regs (s : State) (u : State) : (s.through u).regs = s.regs := rfl
@[simp] theorem State.through_eip (s : State) (u : State) : (s.through u).eip = s.cur.next := rfl
@[simp] theorem State.through_flags (s : State) (u : State) : (s.through u).flags = s.flags := rfl
@[simp] theorem State.through_es (s : State) (u : State) : (s.through u).es = s.es := rfl
@[simp] theorem State.through_cs (s : State) (u : State) : (s.through u).cs = s.cs := rfl
@[simp] theorem State.through_ss (s : State) (u : State) : (s.through u).ss = s.ss := rfl
@[simp] theorem State.through_ds (s : State) (u : State) : (s.through u).ds = s.ds := rfl
@[simp] theorem State.through_fs (s : State) (u : State) : (s.through u).fs = s.fs := rfl
@[simp] theorem State.through_gs (s : State) (u : State) : (s.through u).gs = s.gs := rfl
@[simp] theorem State.through_cpl (s : State) (u : State) : (s.through u).cpl = s.cpl := rfl
@[simp] theorem State.through_gdtr (s : State) (u : State) : (s.through u).gdtr = s.gdtr := rfl
@[simp] theorem State.through_idtr (s : State) (u : State) : (s.through u).idtr = s.idtr := rfl
@[simp] theorem State.through_ldtr (s : State) (u : State) : (s.through u).ldtr = s.ldtr := rfl
@[simp] theorem State.through_tr (s : State) (u : State) : (s.through u).tr = s.tr := rfl
@[simp] theorem State.through_cr0 (s : State) (u : State) : (s.through u).cr0 = s.cr0 := rfl
@[simp] theorem State.through_cr2 (s : State) (u : State) : (s.through u).cr2 = u.cr2 := rfl
@[simp] theorem State.through_cr3 (s : State) (u : State) : (s.through u).cr3 = s.cr3 := rfl
@[simp] theorem State.through_dbg (s : State) (u : State) : (s.through u).dbg = s.dbg := rfl
@[simp] theorem State.through_test (s : State) (u : State) : (s.through u).test = s.test := rfl
@[simp] theorem State.through_mem (s : State) (u : State) : (s.through u).mem = u.mem := rfl
@[simp] theorem State.through_tlb (s : State) (u : State) : (s.through u).tlb = u.tlb := rfl
@[simp] theorem State.through_prefetch (s : State) (u : State) : (s.through u).prefetch = u.prefetch := rfl
@[simp] theorem State.through_modeStale (s : State) (u : State) : (s.through u).modeStale = s.modeStale := rfl
@[simp] theorem State.through_nmiLatch (s : State) (u : State) : (s.through u).nmiLatch = s.nmiLatch := rfl
@[simp] theorem State.through_nmiPending (s : State) (u : State) : (s.through u).nmiPending = s.nmiPending := rfl
@[simp] theorem State.through_intr (s : State) (u : State) : (s.through u).intr = s.intr := rfl
@[simp] theorem State.through_inhibit (s : State) (u : State) : (s.through u).inhibit = s.inhibit := rfl
@[simp] theorem State.through_stiShadow (s : State) (u : State) : (s.through u).stiShadow = s.stiShadow := rfl
@[simp] theorem State.through_debugTrap (s : State) (u : State) : (s.through u).debugTrap = s.debugTrap := rfl
@[simp] theorem State.through_activity (s : State) (u : State) : (s.through u).activity = s.activity := rfl
@[simp] theorem State.through_busyLine (s : State) (u : State) : (s.through u).busyLine = s.busyLine := rfl
@[simp] theorem State.through_errorLine (s : State) (u : State) : (s.through u).errorLine = s.errorLine := rfl
@[simp] theorem State.through_busLock (s : State) (u : State) : (s.through u).busLock = s.busLock := rfl
@[simp] theorem State.through_cur (s : State) (u : State) : (s.through u).cur = s.cur := rfl
@[simp] theorem State.through_inputs (s : State) (u : State) : (s.through u).inputs = s.inputs := rfl
@[simp] theorem State.through_masters (s : State) (u : State) : (s.through u).masters = u.masters := rfl
@[simp] theorem State.through_events (s : State) (u : State) : (s.through u).events = u.events := rfl
@[simp] theorem State.through_free (s : State) (u : State) : (s.through u).free = u.free := rfl
@[simp] theorem State.through_plat (s : State) (u : State) : (s.through u).plat = s.plat := rfl

/-! ## A general register written -/

@[simp] theorem State.withReg_regs (s : State) (w : Width) (r : Reg) (v : Val w) : (s.withReg w r v).regs = s.regs.write w r v := rfl
@[simp] theorem State.withReg_eip (s : State) (w : Width) (r : Reg) (v : Val w) : (s.withReg w r v).eip = s.eip := rfl
@[simp] theorem State.withReg_flags (s : State) (w : Width) (r : Reg) (v : Val w) : (s.withReg w r v).flags = s.flags := rfl
@[simp] theorem State.withReg_es (s : State) (w : Width) (r : Reg) (v : Val w) : (s.withReg w r v).es = s.es := rfl
@[simp] theorem State.withReg_cs (s : State) (w : Width) (r : Reg) (v : Val w) : (s.withReg w r v).cs = s.cs := rfl
@[simp] theorem State.withReg_ss (s : State) (w : Width) (r : Reg) (v : Val w) : (s.withReg w r v).ss = s.ss := rfl
@[simp] theorem State.withReg_ds (s : State) (w : Width) (r : Reg) (v : Val w) : (s.withReg w r v).ds = s.ds := rfl
@[simp] theorem State.withReg_fs (s : State) (w : Width) (r : Reg) (v : Val w) : (s.withReg w r v).fs = s.fs := rfl
@[simp] theorem State.withReg_gs (s : State) (w : Width) (r : Reg) (v : Val w) : (s.withReg w r v).gs = s.gs := rfl
@[simp] theorem State.withReg_cpl (s : State) (w : Width) (r : Reg) (v : Val w) : (s.withReg w r v).cpl = s.cpl := rfl
@[simp] theorem State.withReg_gdtr (s : State) (w : Width) (r : Reg) (v : Val w) : (s.withReg w r v).gdtr = s.gdtr := rfl
@[simp] theorem State.withReg_idtr (s : State) (w : Width) (r : Reg) (v : Val w) : (s.withReg w r v).idtr = s.idtr := rfl
@[simp] theorem State.withReg_ldtr (s : State) (w : Width) (r : Reg) (v : Val w) : (s.withReg w r v).ldtr = s.ldtr := rfl
@[simp] theorem State.withReg_tr (s : State) (w : Width) (r : Reg) (v : Val w) : (s.withReg w r v).tr = s.tr := rfl
@[simp] theorem State.withReg_cr0 (s : State) (w : Width) (r : Reg) (v : Val w) : (s.withReg w r v).cr0 = s.cr0 := rfl
@[simp] theorem State.withReg_cr2 (s : State) (w : Width) (r : Reg) (v : Val w) : (s.withReg w r v).cr2 = s.cr2 := rfl
@[simp] theorem State.withReg_cr3 (s : State) (w : Width) (r : Reg) (v : Val w) : (s.withReg w r v).cr3 = s.cr3 := rfl
@[simp] theorem State.withReg_dbg (s : State) (w : Width) (r : Reg) (v : Val w) : (s.withReg w r v).dbg = s.dbg := rfl
@[simp] theorem State.withReg_test (s : State) (w : Width) (r : Reg) (v : Val w) : (s.withReg w r v).test = s.test := rfl
@[simp] theorem State.withReg_mem (s : State) (w : Width) (r : Reg) (v : Val w) : (s.withReg w r v).mem = s.mem := rfl
@[simp] theorem State.withReg_tlb (s : State) (w : Width) (r : Reg) (v : Val w) : (s.withReg w r v).tlb = s.tlb := rfl
@[simp] theorem State.withReg_prefetch (s : State) (w : Width) (r : Reg) (v : Val w) : (s.withReg w r v).prefetch = s.prefetch := rfl
@[simp] theorem State.withReg_modeStale (s : State) (w : Width) (r : Reg) (v : Val w) : (s.withReg w r v).modeStale = s.modeStale := rfl
@[simp] theorem State.withReg_nmiLatch (s : State) (w : Width) (r : Reg) (v : Val w) : (s.withReg w r v).nmiLatch = s.nmiLatch := rfl
@[simp] theorem State.withReg_nmiPending (s : State) (w : Width) (r : Reg) (v : Val w) : (s.withReg w r v).nmiPending = s.nmiPending := rfl
@[simp] theorem State.withReg_intr (s : State) (w : Width) (r : Reg) (v : Val w) : (s.withReg w r v).intr = s.intr := rfl
@[simp] theorem State.withReg_inhibit (s : State) (w : Width) (r : Reg) (v : Val w) : (s.withReg w r v).inhibit = s.inhibit := rfl
@[simp] theorem State.withReg_stiShadow (s : State) (w : Width) (r : Reg) (v : Val w) : (s.withReg w r v).stiShadow = s.stiShadow := rfl
@[simp] theorem State.withReg_debugTrap (s : State) (w : Width) (r : Reg) (v : Val w) : (s.withReg w r v).debugTrap = s.debugTrap := rfl
@[simp] theorem State.withReg_activity (s : State) (w : Width) (r : Reg) (v : Val w) : (s.withReg w r v).activity = s.activity := rfl
@[simp] theorem State.withReg_busyLine (s : State) (w : Width) (r : Reg) (v : Val w) : (s.withReg w r v).busyLine = s.busyLine := rfl
@[simp] theorem State.withReg_errorLine (s : State) (w : Width) (r : Reg) (v : Val w) : (s.withReg w r v).errorLine = s.errorLine := rfl
@[simp] theorem State.withReg_busLock (s : State) (w : Width) (r : Reg) (v : Val w) : (s.withReg w r v).busLock = s.busLock := rfl
@[simp] theorem State.withReg_cur (s : State) (w : Width) (r : Reg) (v : Val w) : (s.withReg w r v).cur = s.cur := rfl
@[simp] theorem State.withReg_inputs (s : State) (w : Width) (r : Reg) (v : Val w) : (s.withReg w r v).inputs = s.inputs := rfl
@[simp] theorem State.withReg_masters (s : State) (w : Width) (r : Reg) (v : Val w) : (s.withReg w r v).masters = s.masters := rfl
@[simp] theorem State.withReg_events (s : State) (w : Width) (r : Reg) (v : Val w) : (s.withReg w r v).events = s.events := rfl
@[simp] theorem State.withReg_free (s : State) (w : Width) (r : Reg) (v : Val w) : (s.withReg w r v).free = s.free := rfl
@[simp] theorem State.withReg_plat (s : State) (w : Width) (r : Reg) (v : Val w) : (s.withReg w r v).plat = s.plat := rfl

/-! ## The status flags changed -/

@[simp] theorem State.effect_regs (s : State) (e : FlagEffect) : (s.effect e).regs = s.regs := rfl
@[simp] theorem State.effect_eip (s : State) (e : FlagEffect) : (s.effect e).eip = s.eip := rfl
@[simp] theorem State.effect_flags (s : State) (e : FlagEffect) : (s.effect e).flags = s.flags.apply e (Config.freeValue s.free) := rfl
@[simp] theorem State.effect_es (s : State) (e : FlagEffect) : (s.effect e).es = s.es := rfl
@[simp] theorem State.effect_cs (s : State) (e : FlagEffect) : (s.effect e).cs = s.cs := rfl
@[simp] theorem State.effect_ss (s : State) (e : FlagEffect) : (s.effect e).ss = s.ss := rfl
@[simp] theorem State.effect_ds (s : State) (e : FlagEffect) : (s.effect e).ds = s.ds := rfl
@[simp] theorem State.effect_fs (s : State) (e : FlagEffect) : (s.effect e).fs = s.fs := rfl
@[simp] theorem State.effect_gs (s : State) (e : FlagEffect) : (s.effect e).gs = s.gs := rfl
@[simp] theorem State.effect_cpl (s : State) (e : FlagEffect) : (s.effect e).cpl = s.cpl := rfl
@[simp] theorem State.effect_gdtr (s : State) (e : FlagEffect) : (s.effect e).gdtr = s.gdtr := rfl
@[simp] theorem State.effect_idtr (s : State) (e : FlagEffect) : (s.effect e).idtr = s.idtr := rfl
@[simp] theorem State.effect_ldtr (s : State) (e : FlagEffect) : (s.effect e).ldtr = s.ldtr := rfl
@[simp] theorem State.effect_tr (s : State) (e : FlagEffect) : (s.effect e).tr = s.tr := rfl
@[simp] theorem State.effect_cr0 (s : State) (e : FlagEffect) : (s.effect e).cr0 = s.cr0 := rfl
@[simp] theorem State.effect_cr2 (s : State) (e : FlagEffect) : (s.effect e).cr2 = s.cr2 := rfl
@[simp] theorem State.effect_cr3 (s : State) (e : FlagEffect) : (s.effect e).cr3 = s.cr3 := rfl
@[simp] theorem State.effect_dbg (s : State) (e : FlagEffect) : (s.effect e).dbg = s.dbg := rfl
@[simp] theorem State.effect_test (s : State) (e : FlagEffect) : (s.effect e).test = s.test := rfl
@[simp] theorem State.effect_mem (s : State) (e : FlagEffect) : (s.effect e).mem = s.mem := rfl
@[simp] theorem State.effect_tlb (s : State) (e : FlagEffect) : (s.effect e).tlb = s.tlb := rfl
@[simp] theorem State.effect_prefetch (s : State) (e : FlagEffect) : (s.effect e).prefetch = s.prefetch := rfl
@[simp] theorem State.effect_modeStale (s : State) (e : FlagEffect) : (s.effect e).modeStale = s.modeStale := rfl
@[simp] theorem State.effect_nmiLatch (s : State) (e : FlagEffect) : (s.effect e).nmiLatch = s.nmiLatch := rfl
@[simp] theorem State.effect_nmiPending (s : State) (e : FlagEffect) : (s.effect e).nmiPending = s.nmiPending := rfl
@[simp] theorem State.effect_intr (s : State) (e : FlagEffect) : (s.effect e).intr = s.intr := rfl
@[simp] theorem State.effect_inhibit (s : State) (e : FlagEffect) : (s.effect e).inhibit = s.inhibit := rfl
@[simp] theorem State.effect_stiShadow (s : State) (e : FlagEffect) : (s.effect e).stiShadow = s.stiShadow := rfl
@[simp] theorem State.effect_debugTrap (s : State) (e : FlagEffect) : (s.effect e).debugTrap = s.debugTrap := rfl
@[simp] theorem State.effect_activity (s : State) (e : FlagEffect) : (s.effect e).activity = s.activity := rfl
@[simp] theorem State.effect_busyLine (s : State) (e : FlagEffect) : (s.effect e).busyLine = s.busyLine := rfl
@[simp] theorem State.effect_errorLine (s : State) (e : FlagEffect) : (s.effect e).errorLine = s.errorLine := rfl
@[simp] theorem State.effect_busLock (s : State) (e : FlagEffect) : (s.effect e).busLock = s.busLock := rfl
@[simp] theorem State.effect_cur (s : State) (e : FlagEffect) : (s.effect e).cur = s.cur := rfl
@[simp] theorem State.effect_inputs (s : State) (e : FlagEffect) : (s.effect e).inputs = s.inputs := rfl
@[simp] theorem State.effect_masters (s : State) (e : FlagEffect) : (s.effect e).masters = s.masters := rfl
@[simp] theorem State.effect_events (s : State) (e : FlagEffect) : (s.effect e).events = s.events := rfl
@[simp] theorem State.effect_free (s : State) (e : FlagEffect) : (s.effect e).free = s.free + 1 := rfl
@[simp] theorem State.effect_plat (s : State) (e : FlagEffect) : (s.effect e).plat = s.plat := rfl

/-! ## The stack pointer moved -/

@[simp] theorem State.moveSP_regs (s : State) (k : Word32) : (s.moveSP k).regs = s.regs.setSP s.stackSize (s.regs.esp + k) := rfl
@[simp] theorem State.moveSP_eip (s : State) (k : Word32) : (s.moveSP k).eip = s.eip := rfl
@[simp] theorem State.moveSP_flags (s : State) (k : Word32) : (s.moveSP k).flags = s.flags := rfl
@[simp] theorem State.moveSP_es (s : State) (k : Word32) : (s.moveSP k).es = s.es := rfl
@[simp] theorem State.moveSP_cs (s : State) (k : Word32) : (s.moveSP k).cs = s.cs := rfl
@[simp] theorem State.moveSP_ss (s : State) (k : Word32) : (s.moveSP k).ss = s.ss := rfl
@[simp] theorem State.moveSP_ds (s : State) (k : Word32) : (s.moveSP k).ds = s.ds := rfl
@[simp] theorem State.moveSP_fs (s : State) (k : Word32) : (s.moveSP k).fs = s.fs := rfl
@[simp] theorem State.moveSP_gs (s : State) (k : Word32) : (s.moveSP k).gs = s.gs := rfl
@[simp] theorem State.moveSP_cpl (s : State) (k : Word32) : (s.moveSP k).cpl = s.cpl := rfl
@[simp] theorem State.moveSP_gdtr (s : State) (k : Word32) : (s.moveSP k).gdtr = s.gdtr := rfl
@[simp] theorem State.moveSP_idtr (s : State) (k : Word32) : (s.moveSP k).idtr = s.idtr := rfl
@[simp] theorem State.moveSP_ldtr (s : State) (k : Word32) : (s.moveSP k).ldtr = s.ldtr := rfl
@[simp] theorem State.moveSP_tr (s : State) (k : Word32) : (s.moveSP k).tr = s.tr := rfl
@[simp] theorem State.moveSP_cr0 (s : State) (k : Word32) : (s.moveSP k).cr0 = s.cr0 := rfl
@[simp] theorem State.moveSP_cr2 (s : State) (k : Word32) : (s.moveSP k).cr2 = s.cr2 := rfl
@[simp] theorem State.moveSP_cr3 (s : State) (k : Word32) : (s.moveSP k).cr3 = s.cr3 := rfl
@[simp] theorem State.moveSP_dbg (s : State) (k : Word32) : (s.moveSP k).dbg = s.dbg := rfl
@[simp] theorem State.moveSP_test (s : State) (k : Word32) : (s.moveSP k).test = s.test := rfl
@[simp] theorem State.moveSP_mem (s : State) (k : Word32) : (s.moveSP k).mem = s.mem := rfl
@[simp] theorem State.moveSP_tlb (s : State) (k : Word32) : (s.moveSP k).tlb = s.tlb := rfl
@[simp] theorem State.moveSP_prefetch (s : State) (k : Word32) : (s.moveSP k).prefetch = s.prefetch := rfl
@[simp] theorem State.moveSP_modeStale (s : State) (k : Word32) : (s.moveSP k).modeStale = s.modeStale := rfl
@[simp] theorem State.moveSP_nmiLatch (s : State) (k : Word32) : (s.moveSP k).nmiLatch = s.nmiLatch := rfl
@[simp] theorem State.moveSP_nmiPending (s : State) (k : Word32) : (s.moveSP k).nmiPending = s.nmiPending := rfl
@[simp] theorem State.moveSP_intr (s : State) (k : Word32) : (s.moveSP k).intr = s.intr := rfl
@[simp] theorem State.moveSP_inhibit (s : State) (k : Word32) : (s.moveSP k).inhibit = s.inhibit := rfl
@[simp] theorem State.moveSP_stiShadow (s : State) (k : Word32) : (s.moveSP k).stiShadow = s.stiShadow := rfl
@[simp] theorem State.moveSP_debugTrap (s : State) (k : Word32) : (s.moveSP k).debugTrap = s.debugTrap := rfl
@[simp] theorem State.moveSP_activity (s : State) (k : Word32) : (s.moveSP k).activity = s.activity := rfl
@[simp] theorem State.moveSP_busyLine (s : State) (k : Word32) : (s.moveSP k).busyLine = s.busyLine := rfl
@[simp] theorem State.moveSP_errorLine (s : State) (k : Word32) : (s.moveSP k).errorLine = s.errorLine := rfl
@[simp] theorem State.moveSP_busLock (s : State) (k : Word32) : (s.moveSP k).busLock = s.busLock := rfl
@[simp] theorem State.moveSP_cur (s : State) (k : Word32) : (s.moveSP k).cur = s.cur := rfl
@[simp] theorem State.moveSP_inputs (s : State) (k : Word32) : (s.moveSP k).inputs = s.inputs := rfl
@[simp] theorem State.moveSP_masters (s : State) (k : Word32) : (s.moveSP k).masters = s.masters := rfl
@[simp] theorem State.moveSP_events (s : State) (k : Word32) : (s.moveSP k).events = s.events := rfl
@[simp] theorem State.moveSP_free (s : State) (k : Word32) : (s.moveSP k).free = s.free := rfl
@[simp] theorem State.moveSP_plat (s : State) (k : Word32) : (s.moveSP k).plat = s.plat := rfl

/-! ## Control transferred -/

@[simp] theorem State.jumped_regs (s : State) (t : Word32) : (s.jumped t).regs = s.regs := rfl
@[simp] theorem State.jumped_eip (s : State) (t : Word32) : (s.jumped t).eip = t := rfl
@[simp] theorem State.jumped_flags (s : State) (t : Word32) : (s.jumped t).flags = s.flags := rfl
@[simp] theorem State.jumped_es (s : State) (t : Word32) : (s.jumped t).es = s.es := rfl
@[simp] theorem State.jumped_cs (s : State) (t : Word32) : (s.jumped t).cs = s.cs := rfl
@[simp] theorem State.jumped_ss (s : State) (t : Word32) : (s.jumped t).ss = s.ss := rfl
@[simp] theorem State.jumped_ds (s : State) (t : Word32) : (s.jumped t).ds = s.ds := rfl
@[simp] theorem State.jumped_fs (s : State) (t : Word32) : (s.jumped t).fs = s.fs := rfl
@[simp] theorem State.jumped_gs (s : State) (t : Word32) : (s.jumped t).gs = s.gs := rfl
@[simp] theorem State.jumped_cpl (s : State) (t : Word32) : (s.jumped t).cpl = s.cpl := rfl
@[simp] theorem State.jumped_gdtr (s : State) (t : Word32) : (s.jumped t).gdtr = s.gdtr := rfl
@[simp] theorem State.jumped_idtr (s : State) (t : Word32) : (s.jumped t).idtr = s.idtr := rfl
@[simp] theorem State.jumped_ldtr (s : State) (t : Word32) : (s.jumped t).ldtr = s.ldtr := rfl
@[simp] theorem State.jumped_tr (s : State) (t : Word32) : (s.jumped t).tr = s.tr := rfl
@[simp] theorem State.jumped_cr0 (s : State) (t : Word32) : (s.jumped t).cr0 = s.cr0 := rfl
@[simp] theorem State.jumped_cr2 (s : State) (t : Word32) : (s.jumped t).cr2 = s.cr2 := rfl
@[simp] theorem State.jumped_cr3 (s : State) (t : Word32) : (s.jumped t).cr3 = s.cr3 := rfl
@[simp] theorem State.jumped_dbg (s : State) (t : Word32) : (s.jumped t).dbg = s.dbg := rfl
@[simp] theorem State.jumped_test (s : State) (t : Word32) : (s.jumped t).test = s.test := rfl
@[simp] theorem State.jumped_mem (s : State) (t : Word32) : (s.jumped t).mem = s.mem := rfl
@[simp] theorem State.jumped_tlb (s : State) (t : Word32) : (s.jumped t).tlb = s.tlb := rfl
@[simp] theorem State.jumped_prefetch (s : State) (t : Word32) : (s.jumped t).prefetch = [] := rfl
@[simp] theorem State.jumped_modeStale (s : State) (t : Word32) : (s.jumped t).modeStale = false := rfl
@[simp] theorem State.jumped_nmiLatch (s : State) (t : Word32) : (s.jumped t).nmiLatch = s.nmiLatch := rfl
@[simp] theorem State.jumped_nmiPending (s : State) (t : Word32) : (s.jumped t).nmiPending = s.nmiPending := rfl
@[simp] theorem State.jumped_intr (s : State) (t : Word32) : (s.jumped t).intr = s.intr := rfl
@[simp] theorem State.jumped_inhibit (s : State) (t : Word32) : (s.jumped t).inhibit = s.inhibit := rfl
@[simp] theorem State.jumped_stiShadow (s : State) (t : Word32) : (s.jumped t).stiShadow = s.stiShadow := rfl
@[simp] theorem State.jumped_debugTrap (s : State) (t : Word32) : (s.jumped t).debugTrap = s.debugTrap := rfl
@[simp] theorem State.jumped_activity (s : State) (t : Word32) : (s.jumped t).activity = s.activity := rfl
@[simp] theorem State.jumped_busyLine (s : State) (t : Word32) : (s.jumped t).busyLine = s.busyLine := rfl
@[simp] theorem State.jumped_errorLine (s : State) (t : Word32) : (s.jumped t).errorLine = s.errorLine := rfl
@[simp] theorem State.jumped_busLock (s : State) (t : Word32) : (s.jumped t).busLock = s.busLock := rfl
@[simp] theorem State.jumped_cur (s : State) (t : Word32) : (s.jumped t).cur = s.cur := rfl
@[simp] theorem State.jumped_inputs (s : State) (t : Word32) : (s.jumped t).inputs = s.inputs := rfl
@[simp] theorem State.jumped_masters (s : State) (t : Word32) : (s.jumped t).masters = s.masters := rfl
@[simp] theorem State.jumped_events (s : State) (t : Word32) : (s.jumped t).events = s.events := rfl
@[simp] theorem State.jumped_free (s : State) (t : Word32) : (s.jumped t).free = s.free := rfl
@[simp] theorem State.jumped_plat (s : State) (t : Word32) : (s.jumped t).plat = s.plat := rfl

/-! ## A byte of memory written -/

@[simp] theorem State.writeByte_regs (s : State) (a : Word32) (v : Byte) : (s.writeByte a v).regs = s.regs := rfl
@[simp] theorem State.writeByte_eip (s : State) (a : Word32) (v : Byte) : (s.writeByte a v).eip = s.eip := rfl
@[simp] theorem State.writeByte_flags (s : State) (a : Word32) (v : Byte) : (s.writeByte a v).flags = s.flags := rfl
@[simp] theorem State.writeByte_es (s : State) (a : Word32) (v : Byte) : (s.writeByte a v).es = s.es := rfl
@[simp] theorem State.writeByte_cs (s : State) (a : Word32) (v : Byte) : (s.writeByte a v).cs = s.cs := rfl
@[simp] theorem State.writeByte_ss (s : State) (a : Word32) (v : Byte) : (s.writeByte a v).ss = s.ss := rfl
@[simp] theorem State.writeByte_ds (s : State) (a : Word32) (v : Byte) : (s.writeByte a v).ds = s.ds := rfl
@[simp] theorem State.writeByte_fs (s : State) (a : Word32) (v : Byte) : (s.writeByte a v).fs = s.fs := rfl
@[simp] theorem State.writeByte_gs (s : State) (a : Word32) (v : Byte) : (s.writeByte a v).gs = s.gs := rfl
@[simp] theorem State.writeByte_cpl (s : State) (a : Word32) (v : Byte) : (s.writeByte a v).cpl = s.cpl := rfl
@[simp] theorem State.writeByte_gdtr (s : State) (a : Word32) (v : Byte) : (s.writeByte a v).gdtr = s.gdtr := rfl
@[simp] theorem State.writeByte_idtr (s : State) (a : Word32) (v : Byte) : (s.writeByte a v).idtr = s.idtr := rfl
@[simp] theorem State.writeByte_ldtr (s : State) (a : Word32) (v : Byte) : (s.writeByte a v).ldtr = s.ldtr := rfl
@[simp] theorem State.writeByte_tr (s : State) (a : Word32) (v : Byte) : (s.writeByte a v).tr = s.tr := rfl
@[simp] theorem State.writeByte_cr0 (s : State) (a : Word32) (v : Byte) : (s.writeByte a v).cr0 = s.cr0 := rfl
@[simp] theorem State.writeByte_cr2 (s : State) (a : Word32) (v : Byte) : (s.writeByte a v).cr2 = s.cr2 := rfl
@[simp] theorem State.writeByte_cr3 (s : State) (a : Word32) (v : Byte) : (s.writeByte a v).cr3 = s.cr3 := rfl
@[simp] theorem State.writeByte_dbg (s : State) (a : Word32) (v : Byte) : (s.writeByte a v).dbg = s.dbg := rfl
@[simp] theorem State.writeByte_test (s : State) (a : Word32) (v : Byte) : (s.writeByte a v).test = s.test := rfl
@[simp] theorem State.writeByte_mem (s : State) (a : Word32) (v : Byte) : (s.writeByte a v).mem = s.mem.set a.toNat v := rfl
@[simp] theorem State.writeByte_tlb (s : State) (a : Word32) (v : Byte) : (s.writeByte a v).tlb = s.tlb := rfl
@[simp] theorem State.writeByte_prefetch (s : State) (a : Word32) (v : Byte) : (s.writeByte a v).prefetch = s.staleAfter a v := rfl
@[simp] theorem State.writeByte_modeStale (s : State) (a : Word32) (v : Byte) : (s.writeByte a v).modeStale = s.modeStale := rfl
@[simp] theorem State.writeByte_nmiLatch (s : State) (a : Word32) (v : Byte) : (s.writeByte a v).nmiLatch = s.nmiLatch := rfl
@[simp] theorem State.writeByte_nmiPending (s : State) (a : Word32) (v : Byte) : (s.writeByte a v).nmiPending = s.nmiPending := rfl
@[simp] theorem State.writeByte_intr (s : State) (a : Word32) (v : Byte) : (s.writeByte a v).intr = s.intr := rfl
@[simp] theorem State.writeByte_inhibit (s : State) (a : Word32) (v : Byte) : (s.writeByte a v).inhibit = s.inhibit := rfl
@[simp] theorem State.writeByte_stiShadow (s : State) (a : Word32) (v : Byte) : (s.writeByte a v).stiShadow = s.stiShadow := rfl
@[simp] theorem State.writeByte_debugTrap (s : State) (a : Word32) (v : Byte) : (s.writeByte a v).debugTrap = s.debugTrap := rfl
@[simp] theorem State.writeByte_activity (s : State) (a : Word32) (v : Byte) : (s.writeByte a v).activity = s.activity := rfl
@[simp] theorem State.writeByte_busyLine (s : State) (a : Word32) (v : Byte) : (s.writeByte a v).busyLine = s.busyLine := rfl
@[simp] theorem State.writeByte_errorLine (s : State) (a : Word32) (v : Byte) : (s.writeByte a v).errorLine = s.errorLine := rfl
@[simp] theorem State.writeByte_busLock (s : State) (a : Word32) (v : Byte) : (s.writeByte a v).busLock = s.busLock := rfl
@[simp] theorem State.writeByte_cur (s : State) (a : Word32) (v : Byte) : (s.writeByte a v).cur = s.cur := rfl
@[simp] theorem State.writeByte_inputs (s : State) (a : Word32) (v : Byte) : (s.writeByte a v).inputs = s.inputs := rfl
@[simp] theorem State.writeByte_masters (s : State) (a : Word32) (v : Byte) : (s.writeByte a v).masters = s.masters := rfl
@[simp] theorem State.writeByte_events (s : State) (a : Word32) (v : Byte) : (s.writeByte a v).events = s.events := rfl
@[simp] theorem State.writeByte_free (s : State) (a : Word32) (v : Byte) : (s.writeByte a v).free = s.free := rfl
@[simp] theorem State.writeByte_plat (s : State) (a : Word32) (v : Byte) : (s.writeByte a v).plat = s.plat := rfl

/-! ## A segment register replaced -/

@[simp] theorem State.setSeg_regs (s : State) (r : SReg) (g : Seg) : (s.setSeg r g).regs = s.regs := by cases r <;> rfl
@[simp] theorem State.setSeg_eip (s : State) (r : SReg) (g : Seg) : (s.setSeg r g).eip = s.eip := by cases r <;> rfl
@[simp] theorem State.setSeg_flags (s : State) (r : SReg) (g : Seg) : (s.setSeg r g).flags = s.flags := by cases r <;> rfl
@[simp] theorem State.setSeg_cpl (s : State) (r : SReg) (g : Seg) : (s.setSeg r g).cpl = s.cpl := by cases r <;> rfl
@[simp] theorem State.setSeg_gdtr (s : State) (r : SReg) (g : Seg) : (s.setSeg r g).gdtr = s.gdtr := by cases r <;> rfl
@[simp] theorem State.setSeg_idtr (s : State) (r : SReg) (g : Seg) : (s.setSeg r g).idtr = s.idtr := by cases r <;> rfl
@[simp] theorem State.setSeg_ldtr (s : State) (r : SReg) (g : Seg) : (s.setSeg r g).ldtr = s.ldtr := by cases r <;> rfl
@[simp] theorem State.setSeg_tr (s : State) (r : SReg) (g : Seg) : (s.setSeg r g).tr = s.tr := by cases r <;> rfl
@[simp] theorem State.setSeg_cr0 (s : State) (r : SReg) (g : Seg) : (s.setSeg r g).cr0 = s.cr0 := by cases r <;> rfl
@[simp] theorem State.setSeg_cr2 (s : State) (r : SReg) (g : Seg) : (s.setSeg r g).cr2 = s.cr2 := by cases r <;> rfl
@[simp] theorem State.setSeg_cr3 (s : State) (r : SReg) (g : Seg) : (s.setSeg r g).cr3 = s.cr3 := by cases r <;> rfl
@[simp] theorem State.setSeg_dbg (s : State) (r : SReg) (g : Seg) : (s.setSeg r g).dbg = s.dbg := by cases r <;> rfl
@[simp] theorem State.setSeg_test (s : State) (r : SReg) (g : Seg) : (s.setSeg r g).test = s.test := by cases r <;> rfl
@[simp] theorem State.setSeg_mem (s : State) (r : SReg) (g : Seg) : (s.setSeg r g).mem = s.mem := by cases r <;> rfl
@[simp] theorem State.setSeg_tlb (s : State) (r : SReg) (g : Seg) : (s.setSeg r g).tlb = s.tlb := by cases r <;> rfl
@[simp] theorem State.setSeg_prefetch (s : State) (r : SReg) (g : Seg) : (s.setSeg r g).prefetch = s.prefetch := by cases r <;> rfl
@[simp] theorem State.setSeg_modeStale (s : State) (r : SReg) (g : Seg) : (s.setSeg r g).modeStale = s.modeStale := by cases r <;> rfl
@[simp] theorem State.setSeg_nmiLatch (s : State) (r : SReg) (g : Seg) : (s.setSeg r g).nmiLatch = s.nmiLatch := by cases r <;> rfl
@[simp] theorem State.setSeg_nmiPending (s : State) (r : SReg) (g : Seg) : (s.setSeg r g).nmiPending = s.nmiPending := by cases r <;> rfl
@[simp] theorem State.setSeg_intr (s : State) (r : SReg) (g : Seg) : (s.setSeg r g).intr = s.intr := by cases r <;> rfl
@[simp] theorem State.setSeg_inhibit (s : State) (r : SReg) (g : Seg) : (s.setSeg r g).inhibit = s.inhibit := by cases r <;> rfl
@[simp] theorem State.setSeg_stiShadow (s : State) (r : SReg) (g : Seg) : (s.setSeg r g).stiShadow = s.stiShadow := by cases r <;> rfl
@[simp] theorem State.setSeg_debugTrap (s : State) (r : SReg) (g : Seg) : (s.setSeg r g).debugTrap = s.debugTrap := by cases r <;> rfl
@[simp] theorem State.setSeg_activity (s : State) (r : SReg) (g : Seg) : (s.setSeg r g).activity = s.activity := by cases r <;> rfl
@[simp] theorem State.setSeg_busyLine (s : State) (r : SReg) (g : Seg) : (s.setSeg r g).busyLine = s.busyLine := by cases r <;> rfl
@[simp] theorem State.setSeg_errorLine (s : State) (r : SReg) (g : Seg) : (s.setSeg r g).errorLine = s.errorLine := by cases r <;> rfl
@[simp] theorem State.setSeg_busLock (s : State) (r : SReg) (g : Seg) : (s.setSeg r g).busLock = s.busLock := by cases r <;> rfl
@[simp] theorem State.setSeg_cur (s : State) (r : SReg) (g : Seg) : (s.setSeg r g).cur = s.cur := by cases r <;> rfl
@[simp] theorem State.setSeg_inputs (s : State) (r : SReg) (g : Seg) : (s.setSeg r g).inputs = s.inputs := by cases r <;> rfl
@[simp] theorem State.setSeg_masters (s : State) (r : SReg) (g : Seg) : (s.setSeg r g).masters = s.masters := by cases r <;> rfl
@[simp] theorem State.setSeg_events (s : State) (r : SReg) (g : Seg) : (s.setSeg r g).events = s.events := by cases r <;> rfl
@[simp] theorem State.setSeg_free (s : State) (r : SReg) (g : Seg) : (s.setSeg r g).free = s.free := by cases r <;> rfl
@[simp] theorem State.setSeg_plat (s : State) (r : SReg) (g : Seg) : (s.setSeg r g).plat = s.plat := by cases r <;> rfl

@[simp] theorem State.setSeg_seg_self (s : State) (r : SReg) (g : Seg) : (s.setSeg r g).seg r = g := by cases r <;> rfl

theorem State.setSeg_seg_other (s : State) {r q : SReg} (h : q ≠ r) (g : Seg) : (s.setSeg r g).seg q = s.seg q := by
  cases r <;> cases q <;> first | rfl | exact absurd rfl h

/-! ## General registers -/

/-- Reading the 32 bits that were written. -/
@[simp] theorem Regs.get_set_self (g : Regs) (r : Reg) (v : Word32) : (g.set r v).get r = v := by cases r <;> rfl

/-- Writing one register leaves the others alone. -/
theorem Regs.get_set_other (g : Regs) {r q : Reg} (h : q ≠ r) (v : Word32) : (g.set r v).get q = g.get q := by
  cases r <;> cases q <;> first | rfl | exact absurd rfl h

/-! ## The registers of an incoming task loaded -/

@[simp] theorem State.withTask_regs (s : State) (k : TaskKind) (f : Nat → Word32) :
    (s.withTask k f).regs =
      { eax := f 3, ecx := f 4, edx := f 5, ebx := f 6, esp := f 7, ebp := f 8, esi := f 9, edi := f 10 } := rfl
@[simp] theorem State.withTask_eip (s : State) (k : TaskKind) (f : Nat → Word32) : (s.withTask k f).eip = f 2 := rfl
@[simp] theorem State.withTask_flags (s : State) (k : TaskKind) (f : Nat → Word32) :
    (s.withTask k f).flags = { Flags.ofImage (f 1) with nt := k.nests || (f 1).getLsbD 14 } := rfl
@[simp] theorem State.withTask_es (s : State) (k : TaskKind) (f : Nat → Word32) :
    (s.withTask k f).es = s.es.pending (low16 (f 11)) := rfl
@[simp] theorem State.withTask_cs (s : State) (k : TaskKind) (f : Nat → Word32) :
    (s.withTask k f).cs = s.cs.pending (low16 (f 12)) := rfl
@[simp] theorem State.withTask_ss (s : State) (k : TaskKind) (f : Nat → Word32) :
    (s.withTask k f).ss = s.ss.pending (low16 (f 13)) := rfl
@[simp] theorem State.withTask_ds (s : State) (k : TaskKind) (f : Nat → Word32) :
    (s.withTask k f).ds = s.ds.pending (low16 (f 14)) := rfl
@[simp] theorem State.withTask_fs (s : State) (k : TaskKind) (f : Nat → Word32) :
    (s.withTask k f).fs = s.fs.pending (low16 (f 15)) := rfl
@[simp] theorem State.withTask_gs (s : State) (k : TaskKind) (f : Nat → Word32) :
    (s.withTask k f).gs = s.gs.pending (low16 (f 16)) := rfl
@[simp] theorem State.withTask_cpl (s : State) (k : TaskKind) (f : Nat → Word32) :
    (s.withTask k f).cpl = rpl (low16 (f 12)) := rfl
@[simp] theorem State.withTask_gdtr (s : State) (k : TaskKind) (f : Nat → Word32) :
    (s.withTask k f).gdtr = s.gdtr := rfl
@[simp] theorem State.withTask_idtr (s : State) (k : TaskKind) (f : Nat → Word32) :
    (s.withTask k f).idtr = s.idtr := rfl
@[simp] theorem State.withTask_ldtr (s : State) (k : TaskKind) (f : Nat → Word32) :
    (s.withTask k f).ldtr = { s.ldtr with sel := low16 (f 0), valid := false } := rfl
@[simp] theorem State.withTask_tr (s : State) (k : TaskKind) (f : Nat → Word32) : (s.withTask k f).tr = s.tr := rfl
@[simp] theorem State.withTask_cr0 (s : State) (k : TaskKind) (f : Nat → Word32) : (s.withTask k f).cr0 = s.cr0 := rfl
@[simp] theorem State.withTask_cr2 (s : State) (k : TaskKind) (f : Nat → Word32) : (s.withTask k f).cr2 = s.cr2 := rfl
@[simp] theorem State.withTask_cr3 (s : State) (k : TaskKind) (f : Nat → Word32) : (s.withTask k f).cr3 = s.cr3 := rfl
@[simp] theorem State.withTask_dbg (s : State) (k : TaskKind) (f : Nat → Word32) : (s.withTask k f).dbg = s.dbg := rfl
@[simp] theorem State.withTask_test (s : State) (k : TaskKind) (f : Nat → Word32) :
    (s.withTask k f).test = s.test := rfl
@[simp] theorem State.withTask_mem (s : State) (k : TaskKind) (f : Nat → Word32) : (s.withTask k f).mem = s.mem := rfl
@[simp] theorem State.withTask_tlb (s : State) (k : TaskKind) (f : Nat → Word32) : (s.withTask k f).tlb = s.tlb := rfl
@[simp] theorem State.withTask_prefetch (s : State) (k : TaskKind) (f : Nat → Word32) :
    (s.withTask k f).prefetch = [] := rfl
@[simp] theorem State.withTask_modeStale (s : State) (k : TaskKind) (f : Nat → Word32) :
    (s.withTask k f).modeStale = false := rfl
@[simp] theorem State.withTask_nmiLatch (s : State) (k : TaskKind) (f : Nat → Word32) :
    (s.withTask k f).nmiLatch = s.nmiLatch := rfl
@[simp] theorem State.withTask_nmiPending (s : State) (k : TaskKind) (f : Nat → Word32) :
    (s.withTask k f).nmiPending = s.nmiPending := rfl
@[simp] theorem State.withTask_intr (s : State) (k : TaskKind) (f : Nat → Word32) :
    (s.withTask k f).intr = s.intr := rfl
@[simp] theorem State.withTask_inhibit (s : State) (k : TaskKind) (f : Nat → Word32) :
    (s.withTask k f).inhibit = s.inhibit := rfl
@[simp] theorem State.withTask_stiShadow (s : State) (k : TaskKind) (f : Nat → Word32) :
    (s.withTask k f).stiShadow = s.stiShadow := rfl
@[simp] theorem State.withTask_debugTrap (s : State) (k : TaskKind) (f : Nat → Word32) :
    (s.withTask k f).debugTrap = s.debugTrap := rfl
@[simp] theorem State.withTask_activity (s : State) (k : TaskKind) (f : Nat → Word32) :
    (s.withTask k f).activity = s.activity := rfl
@[simp] theorem State.withTask_busyLine (s : State) (k : TaskKind) (f : Nat → Word32) :
    (s.withTask k f).busyLine = s.busyLine := rfl
@[simp] theorem State.withTask_errorLine (s : State) (k : TaskKind) (f : Nat → Word32) :
    (s.withTask k f).errorLine = s.errorLine := rfl
@[simp] theorem State.withTask_busLock (s : State) (k : TaskKind) (f : Nat → Word32) :
    (s.withTask k f).busLock = s.busLock := rfl
@[simp] theorem State.withTask_cur (s : State) (k : TaskKind) (f : Nat → Word32) : (s.withTask k f).cur = s.cur := rfl
@[simp] theorem State.withTask_inputs (s : State) (k : TaskKind) (f : Nat → Word32) :
    (s.withTask k f).inputs = s.inputs := rfl
@[simp] theorem State.withTask_masters (s : State) (k : TaskKind) (f : Nat → Word32) :
    (s.withTask k f).masters = s.masters := rfl
@[simp] theorem State.withTask_events (s : State) (k : TaskKind) (f : Nat → Word32) :
    (s.withTask k f).events = s.events := rfl
@[simp] theorem State.withTask_free (s : State) (k : TaskKind) (f : Nat → Word32) :
    (s.withTask k f).free = s.free := rfl
@[simp] theorem State.withTask_plat (s : State) (k : TaskKind) (f : Nat → Word32) :
    (s.withTask k f).plat = s.plat := rfl

/-! ## A segment register loaded from a descriptor -/

@[simp] theorem Desc.seg_sel (d : Desc) (sel : Word16) : (d.seg sel).sel = sel := rfl
@[simp] theorem Desc.seg_base (d : Desc) (sel : Word16) : (d.seg sel).base = d.base := rfl
@[simp] theorem Desc.seg_limit (d : Desc) (sel : Word16) : (d.seg sel).limit = d.limit := rfl
@[simp] theorem Desc.seg_attr (d : Desc) (sel : Word16) : (d.seg sel).attr = d.attr := rfl
@[simp] theorem Desc.seg_valid (d : Desc) (sel : Word16) : (d.seg sel).valid = true := rfl

end Sys2Proof.Machine
end

