-- ==== Sys2Proof/Tests/Slice0.lean ====
section
/-! SUPPORT. Slice0.lean: tests of the model against spec/ (decoding, well-formedness, the worked examples of
95_test_vectors.md), and for each statement that has hypotheses a concrete state and operands that meet them. -/

open Sys2Proof Sys2Proof.Machine

namespace Sys2Proof.Tests

set_option Elab.async false


/-! ## Well-formedness: each check refuses an ill-formed term -/

theorem wf_refuses_mem16_in_32 : (Mem.ind16 .bx .none).wf .s32 = false ∧ (Mem.abs16 5).wf .s32 = false := by decide

theorem wf_refuses_bp_without_displacement : (Mem.ind16 .bp .none).wf .s16 = false := by decide

theorem wf_refuses_mem32_in_16 : (Mem.ind32 .ebx .none).wf .s16 = false ∧ (Mem.abs32 5).wf .s16 = false ∧
    (Mem.sib 0 .eax .ebx .none).wf .s16 = false ∧ (Mem.sibAbs 0 .eax 5).wf .s16 = false := by decide

theorem wf_refuses_esp_without_sib : (Mem.ind32 .esp .none).wf .s32 = false := by decide

theorem wf_refuses_ebp_without_displacement : (Mem.ind32 .ebp .none).wf .s32 = false ∧ (Mem.sib 0 .eax .ebp .none).wf .s32 = false := by
  decide

theorem wf_refuses_long_immediate : fits .s16 0x10000 = false ∧ (Instr.addEaxIv 0x10000).wf .s16 .s16 = false ∧
    (Instr.je (.near 0x10000)).wf .s16 .s16 = false ∧ (Instr.jmpApFar 0x10000 0).wf .s16 .s16 = false := by decide

theorem wf_refuses_long_moffs : (Instr.movAlOb 0x10000).wf .s32 .s16 = false := by decide

theorem wf_refuses_operand : (Instr.addEbGb (.mem (.ind16 .bp .none)) .eax).wf .s16 .s16 = false ∧
    (Instr.leaGvM .eax (.ind16 .bx .none)).wf .s16 .s32 = false := by decide

theorem wf_refuses_other_size : Instr.pusha.wf .s32 .s16 = false ∧ Instr.pushad.wf .s16 .s32 = false ∧
    Instr.movsd.wf .s16 .s16 = false ∧ Instr.iret.wf .s32 .s32 = false ∧ (Instr.jcxzJb 0).wf .s16 .s32 = false ∧
    (Instr.jecxzJb 0).wf .s32 .s16 = false := by decide

/-! ## Decoding

The bytes of every row of spec/opcode_table.json, written out from its fixed bits with the operand [BP+DI+12H] or a
register where it has a ModR/M byte, and immediates A5H, 9234H; then words of 95_test_vectors.md. -/

/-- Each instruction's bytes are read as it, to the last. -/
def rowsRead (l : List (Size × Size × List Byte × Instr)) : Bool :=
  l.all fun (osz, asz, bs, i) =>
    match decode osz asz bs with
    | .ok (j, []) => decide (j = i)
    | _ => false

theorem test_decode_rows_1 : rowsRead
    [(.s16, .s16, [0x00, 0x73, 0x12], .addEbGb (.mem (.ind16 .bpDi (.d8 0x12))) .esi),
     (.s16, .s16, [0x01, 0x73, 0x12], .addEvGv (.mem (.ind16 .bpDi (.d8 0x12))) .esi),
     (.s16, .s16, [0x02, 0x73, 0x12], .addGbEb .esi (.mem (.ind16 .bpDi (.d8 0x12)))),
     (.s16, .s16, [0x03, 0x73, 0x12], .addGvEv .esi (.mem (.ind16 .bpDi (.d8 0x12)))),
     (.s16, .s16, [0x04, 0xA5], .addAlIb 0xA5),
     (.s16, .s16, [0x05, 0x34, 0x92], .addEaxIv 0x9234),
     (.s16, .s16, [0x80, 0x43, 0x12, 0xA5], .addEbIb (.mem (.ind16 .bpDi (.d8 0x12))) 0xA5),
     (.s16, .s16, [0x81, 0x43, 0x12, 0x34, 0x92], .addEvIv (.mem (.ind16 .bpDi (.d8 0x12))) 0x9234),
     (.s16, .s16, [0x83, 0x43, 0x12, 0xA5], .addEvIb (.mem (.ind16 .bpDi (.d8 0x12))) 0xA5),
     (.s16, .s16, [0x08, 0x73, 0x12], .orEbGb (.mem (.ind16 .bpDi (.d8 0x12))) .esi),
     (.s16, .s16, [0x09, 0x73, 0x12], .orEvGv (.mem (.ind16 .bpDi (.d8 0x12))) .esi),
     (.s16, .s16, [0x0A, 0x73, 0x12], .orGbEb .esi (.mem (.ind16 .bpDi (.d8 0x12)))),
     (.s16, .s16, [0x0B, 0x73, 0x12], .orGvEv .esi (.mem (.ind16 .bpDi (.d8 0x12)))),
     (.s16, .s16, [0x0C, 0xA5], .orAlIb 0xA5),
     (.s16, .s16, [0x0D, 0x34, 0x92], .orEaxIv 0x9234),
     (.s16, .s16, [0x80, 0x4B, 0x12, 0xA5], .orEbIb (.mem (.ind16 .bpDi (.d8 0x12))) 0xA5),
     (.s16, .s16, [0x81, 0x4B, 0x12, 0x34, 0x92], .orEvIv (.mem (.ind16 .bpDi (.d8 0x12))) 0x9234),
     (.s16, .s16, [0x83, 0x4B, 0x12, 0xA5], .orEvIb (.mem (.ind16 .bpDi (.d8 0x12))) 0xA5),
     (.s16, .s16, [0x10, 0x73, 0x12], .adcEbGb (.mem (.ind16 .bpDi (.d8 0x12))) .esi),
     (.s16, .s16, [0x11, 0x73, 0x12], .adcEvGv (.mem (.ind16 .bpDi (.d8 0x12))) .esi),
     (.s16, .s16, [0x12, 0x73, 0x12], .adcGbEb .esi (.mem (.ind16 .bpDi (.d8 0x12)))),
     (.s16, .s16, [0x13, 0x73, 0x12], .adcGvEv .esi (.mem (.ind16 .bpDi (.d8 0x12)))),
     (.s16, .s16, [0x14, 0xA5], .adcAlIb 0xA5),
     (.s16, .s16, [0x15, 0x34, 0x92], .adcEaxIv 0x9234),
     (.s16, .s16, [0x80, 0x53, 0x12, 0xA5], .adcEbIb (.mem (.ind16 .bpDi (.d8 0x12))) 0xA5),
     (.s16, .s16, [0x81, 0x53, 0x12, 0x34, 0x92], .adcEvIv (.mem (.ind16 .bpDi (.d8 0x12))) 0x9234),
     (.s16, .s16, [0x83, 0x53, 0x12, 0xA5], .adcEvIb (.mem (.ind16 .bpDi (.d8 0x12))) 0xA5),
     (.s16, .s16, [0x18, 0x73, 0x12], .sbbEbGb (.mem (.ind16 .bpDi (.d8 0x12))) .esi),
     (.s16, .s16, [0x19, 0x73, 0x12], .sbbEvGv (.mem (.ind16 .bpDi (.d8 0x12))) .esi),
     (.s16, .s16, [0x1A, 0x73, 0x12], .sbbGbEb .esi (.mem (.ind16 .bpDi (.d8 0x12)))),
     (.s16, .s16, [0x1B, 0x73, 0x12], .sbbGvEv .esi (.mem (.ind16 .bpDi (.d8 0x12)))),
     (.s16, .s16, [0x1C, 0xA5], .sbbAlIb 0xA5),
     (.s16, .s16, [0x1D, 0x34, 0x92], .sbbEaxIv 0x9234),
     (.s16, .s16, [0x80, 0x5B, 0x12, 0xA5], .sbbEbIb (.mem (.ind16 .bpDi (.d8 0x12))) 0xA5),
     (.s16, .s16, [0x81, 0x5B, 0x12, 0x34, 0x92], .sbbEvIv (.mem (.ind16 .bpDi (.d8 0x12))) 0x9234),
     (.s16, .s16, [0x83, 0x5B, 0x12, 0xA5], .sbbEvIb (.mem (.ind16 .bpDi (.d8 0x12))) 0xA5),
     (.s16, .s16, [0x20, 0x73, 0x12], .andEbGb (.mem (.ind16 .bpDi (.d8 0x12))) .esi),
     (.s16, .s16, [0x21, 0x73, 0x12], .andEvGv (.mem (.ind16 .bpDi (.d8 0x12))) .esi),
     (.s16, .s16, [0x22, 0x73, 0x12], .andGbEb .esi (.mem (.ind16 .bpDi (.d8 0x12)))),
     (.s16, .s16, [0x23, 0x73, 0x12], .andGvEv .esi (.mem (.ind16 .bpDi (.d8 0x12)))),
     (.s16, .s16, [0x24, 0xA5], .andAlIb 0xA5),
     (.s16, .s16, [0x25, 0x34, 0x92], .andEaxIv 0x9234),
     (.s16, .s16, [0x80, 0x63, 0x12, 0xA5], .andEbIb (.mem (.ind16 .bpDi (.d8 0x12))) 0xA5),
     (.s16, .s16, [0x81, 0x63, 0x12, 0x34, 0x92], .andEvIv (.mem (.ind16 .bpDi (.d8 0x12))) 0x9234),
     (.s16, .s16, [0x83, 0x63, 0x12, 0xA5], .andEvIb (.mem (.ind16 .bpDi (.d8 0x12))) 0xA5),
     (.s16, .s16, [0x28, 0x73, 0x12], .subEbGb (.mem (.ind16 .bpDi (.d8 0x12))) .esi),
     (.s16, .s16, [0x29, 0x73, 0x12], .subEvGv (.mem (.ind16 .bpDi (.d8 0x12))) .esi)] = true := by decide +kernel

theorem test_decode_rows_2 : rowsRead
    [(.s16, .s16, [0x2A, 0x73, 0x12], .subGbEb .esi (.mem (.ind16 .bpDi (.d8 0x12)))),
     (.s16, .s16, [0x2B, 0x73, 0x12], .subGvEv .esi (.mem (.ind16 .bpDi (.d8 0x12)))),
     (.s16, .s16, [0x2C, 0xA5], .subAlIb 0xA5),
     (.s16, .s16, [0x2D, 0x34, 0x92], .subEaxIv 0x9234),
     (.s16, .s16, [0x80, 0x6B, 0x12, 0xA5], .subEbIb (.mem (.ind16 .bpDi (.d8 0x12))) 0xA5),
     (.s16, .s16, [0x81, 0x6B, 0x12, 0x34, 0x92], .subEvIv (.mem (.ind16 .bpDi (.d8 0x12))) 0x9234),
     (.s16, .s16, [0x83, 0x6B, 0x12, 0xA5], .subEvIb (.mem (.ind16 .bpDi (.d8 0x12))) 0xA5),
     (.s16, .s16, [0x30, 0x73, 0x12], .xorEbGb (.mem (.ind16 .bpDi (.d8 0x12))) .esi),
     (.s16, .s16, [0x31, 0x73, 0x12], .xorEvGv (.mem (.ind16 .bpDi (.d8 0x12))) .esi),
     (.s16, .s16, [0x32, 0x73, 0x12], .xorGbEb .esi (.mem (.ind16 .bpDi (.d8 0x12)))),
     (.s16, .s16, [0x33, 0x73, 0x12], .xorGvEv .esi (.mem (.ind16 .bpDi (.d8 0x12)))),
     (.s16, .s16, [0x34, 0xA5], .xorAlIb 0xA5),
     (.s16, .s16, [0x35, 0x34, 0x92], .xorEaxIv 0x9234),
     (.s16, .s16, [0x80, 0x73, 0x12, 0xA5], .xorEbIb (.mem (.ind16 .bpDi (.d8 0x12))) 0xA5),
     (.s16, .s16, [0x81, 0x73, 0x12, 0x34, 0x92], .xorEvIv (.mem (.ind16 .bpDi (.d8 0x12))) 0x9234),
     (.s16, .s16, [0x83, 0x73, 0x12, 0xA5], .xorEvIb (.mem (.ind16 .bpDi (.d8 0x12))) 0xA5),
     (.s16, .s16, [0x38, 0x73, 0x12], .cmpEbGb (.mem (.ind16 .bpDi (.d8 0x12))) .esi),
     (.s16, .s16, [0x39, 0x73, 0x12], .cmpEvGv (.mem (.ind16 .bpDi (.d8 0x12))) .esi),
     (.s16, .s16, [0x3A, 0x73, 0x12], .cmpGbEb .esi (.mem (.ind16 .bpDi (.d8 0x12)))),
     (.s16, .s16, [0x3B, 0x73, 0x12], .cmpGvEv .esi (.mem (.ind16 .bpDi (.d8 0x12)))),
     (.s16, .s16, [0x3C, 0xA5], .cmpAlIb 0xA5),
     (.s16, .s16, [0x3D, 0x34, 0x92], .cmpEaxIv 0x9234),
     (.s16, .s16, [0x80, 0x7B, 0x12, 0xA5], .cmpEbIb (.mem (.ind16 .bpDi (.d8 0x12))) 0xA5),
     (.s16, .s16, [0x81, 0x7B, 0x12, 0x34, 0x92], .cmpEvIv (.mem (.ind16 .bpDi (.d8 0x12))) 0x9234),
     (.s16, .s16, [0x83, 0x7B, 0x12, 0xA5], .cmpEvIb (.mem (.ind16 .bpDi (.d8 0x12))) 0xA5),
     (.s16, .s16, [0x06], .pushEs),
     (.s16, .s16, [0x0E], .pushCs),
     (.s16, .s16, [0x16], .pushSs),
     (.s16, .s16, [0x1E], .pushDs),
     (.s16, .s16, [0x0F, 0xA0], .pushFs),
     (.s16, .s16, [0x0F, 0xA8], .pushGs),
     (.s16, .s16, [0x07], .popEs),
     (.s16, .s16, [0x17], .popSs),
     (.s16, .s16, [0x1F], .popDs),
     (.s16, .s16, [0x0F, 0xA1], .popFs),
     (.s16, .s16, [0x0F, 0xA9], .popGs),
     (.s16, .s16, [0x27], .daa),
     (.s16, .s16, [0x2F], .das),
     (.s16, .s16, [0x37], .aaa),
     (.s16, .s16, [0x3F], .aas),
     (.s16, .s16, [0x46], .incRv .esi),
     (.s16, .s16, [0x4E], .decRv .esi),
     (.s16, .s16, [0x56], .pushRv .esi),
     (.s16, .s16, [0x5E], .popRv .esi),
     (.s16, .s16, [0x60], .pusha),
     (.s32, .s16, [0x60], .pushad),
     (.s16, .s16, [0x61], .popa)] = true := by decide +kernel

theorem test_decode_rows_3 : rowsRead
    [(.s32, .s16, [0x61], .popad),
     (.s16, .s16, [0x62, 0x73, 0x12], .boundGvMa .esi (.ind16 .bpDi (.d8 0x12))),
     (.s16, .s16, [0x63, 0x73, 0x12], .arplEwGw (.mem (.ind16 .bpDi (.d8 0x12))) .esi),
     (.s16, .s16, [0x68, 0x34, 0x92], .pushIv 0x9234),
     (.s16, .s16, [0x69, 0x73, 0x12, 0x34, 0x92], .imulGvEvIv .esi (.mem (.ind16 .bpDi (.d8 0x12))) 0x9234),
     (.s16, .s16, [0x6A, 0xA5], .pushIb 0xA5),
     (.s16, .s16, [0x6B, 0x73, 0x12, 0xA5], .imulGvEvIb .esi (.mem (.ind16 .bpDi (.d8 0x12))) 0xA5),
     (.s16, .s16, [0x6C], .insb),
     (.s16, .s16, [0x6D], .insw),
     (.s32, .s16, [0x6D], .insd),
     (.s16, .s16, [0x6E], .outsb),
     (.s16, .s16, [0x6F], .outsw),
     (.s32, .s16, [0x6F], .outsd),
     (.s16, .s16, [0x70, 0xA5], .jo (.short 0xA5)),
     (.s16, .s16, [0x71, 0xA5], .jno (.short 0xA5)),
     (.s16, .s16, [0x72, 0xA5], .jb (.short 0xA5)),
     (.s16, .s16, [0x73, 0xA5], .jae (.short 0xA5)),
     (.s16, .s16, [0x74, 0xA5], .je (.short 0xA5)),
     (.s16, .s16, [0x75, 0xA5], .jne (.short 0xA5)),
     (.s16, .s16, [0x76, 0xA5], .jbe (.short 0xA5)),
     (.s16, .s16, [0x77, 0xA5], .ja (.short 0xA5)),
     (.s16, .s16, [0x78, 0xA5], .js (.short 0xA5)),
     (.s16, .s16, [0x79, 0xA5], .jns (.short 0xA5)),
     (.s16, .s16, [0x7A, 0xA5], .jp (.short 0xA5)),
     (.s16, .s16, [0x7B, 0xA5], .jnp (.short 0xA5)),
     (.s16, .s16, [0x7C, 0xA5], .jl (.short 0xA5)),
     (.s16, .s16, [0x7D, 0xA5], .jge (.short 0xA5)),
     (.s16, .s16, [0x7E, 0xA5], .jle (.short 0xA5)),
     (.s16, .s16, [0x7F, 0xA5], .jg (.short 0xA5)),
     (.s16, .s16, [0x0F, 0x80, 0x34, 0x92], .jo (.near 0x9234)),
     (.s16, .s16, [0x0F, 0x81, 0x34, 0x92], .jno (.near 0x9234)),
     (.s16, .s16, [0x0F, 0x82, 0x34, 0x92], .jb (.near 0x9234)),
     (.s16, .s16, [0x0F, 0x83, 0x34, 0x92], .jae (.near 0x9234)),
     (.s16, .s16, [0x0F, 0x84, 0x34, 0x92], .je (.near 0x9234)),
     (.s16, .s16, [0x0F, 0x85, 0x34, 0x92], .jne (.near 0x9234)),
     (.s16, .s16, [0x0F, 0x86, 0x34, 0x92], .jbe (.near 0x9234)),
     (.s16, .s16, [0x0F, 0x87, 0x34, 0x92], .ja (.near 0x9234)),
     (.s16, .s16, [0x0F, 0x88, 0x34, 0x92], .js (.near 0x9234)),
     (.s16, .s16, [0x0F, 0x89, 0x34, 0x92], .jns (.near 0x9234)),
     (.s16, .s16, [0x0F, 0x8A, 0x34, 0x92], .jp (.near 0x9234)),
     (.s16, .s16, [0x0F, 0x8B, 0x34, 0x92], .jnp (.near 0x9234)),
     (.s16, .s16, [0x0F, 0x8C, 0x34, 0x92], .jl (.near 0x9234)),
     (.s16, .s16, [0x0F, 0x8D, 0x34, 0x92], .jge (.near 0x9234)),
     (.s16, .s16, [0x0F, 0x8E, 0x34, 0x92], .jle (.near 0x9234)),
     (.s16, .s16, [0x0F, 0x8F, 0x34, 0x92], .jg (.near 0x9234)),
     (.s16, .s16, [0x0F, 0x90, 0x43, 0x12], .setoEb (.mem (.ind16 .bpDi (.d8 0x12)))),
     (.s16, .s16, [0x0F, 0x91, 0x43, 0x12], .setnoEb (.mem (.ind16 .bpDi (.d8 0x12))))] = true := by decide +kernel

theorem test_decode_rows_4 : rowsRead
    [(.s16, .s16, [0x0F, 0x92, 0x43, 0x12], .setbEb (.mem (.ind16 .bpDi (.d8 0x12)))),
     (.s16, .s16, [0x0F, 0x93, 0x43, 0x12], .setaeEb (.mem (.ind16 .bpDi (.d8 0x12)))),
     (.s16, .s16, [0x0F, 0x94, 0x43, 0x12], .seteEb (.mem (.ind16 .bpDi (.d8 0x12)))),
     (.s16, .s16, [0x0F, 0x95, 0x43, 0x12], .setneEb (.mem (.ind16 .bpDi (.d8 0x12)))),
     (.s16, .s16, [0x0F, 0x96, 0x43, 0x12], .setbeEb (.mem (.ind16 .bpDi (.d8 0x12)))),
     (.s16, .s16, [0x0F, 0x97, 0x43, 0x12], .setaEb (.mem (.ind16 .bpDi (.d8 0x12)))),
     (.s16, .s16, [0x0F, 0x98, 0x43, 0x12], .setsEb (.mem (.ind16 .bpDi (.d8 0x12)))),
     (.s16, .s16, [0x0F, 0x99, 0x43, 0x12], .setnsEb (.mem (.ind16 .bpDi (.d8 0x12)))),
     (.s16, .s16, [0x0F, 0x9A, 0x43, 0x12], .setpEb (.mem (.ind16 .bpDi (.d8 0x12)))),
     (.s16, .s16, [0x0F, 0x9B, 0x43, 0x12], .setnpEb (.mem (.ind16 .bpDi (.d8 0x12)))),
     (.s16, .s16, [0x0F, 0x9C, 0x43, 0x12], .setlEb (.mem (.ind16 .bpDi (.d8 0x12)))),
     (.s16, .s16, [0x0F, 0x9D, 0x43, 0x12], .setgeEb (.mem (.ind16 .bpDi (.d8 0x12)))),
     (.s16, .s16, [0x0F, 0x9E, 0x43, 0x12], .setleEb (.mem (.ind16 .bpDi (.d8 0x12)))),
     (.s16, .s16, [0x0F, 0x9F, 0x43, 0x12], .setgEb (.mem (.ind16 .bpDi (.d8 0x12)))),
     (.s16, .s16, [0x84, 0x73, 0x12], .testEbGb (.mem (.ind16 .bpDi (.d8 0x12))) .esi),
     (.s16, .s16, [0x85, 0x73, 0x12], .testEvGv (.mem (.ind16 .bpDi (.d8 0x12))) .esi),
     (.s16, .s16, [0x86, 0x73, 0x12], .xchgEbGb (.mem (.ind16 .bpDi (.d8 0x12))) .esi),
     (.s16, .s16, [0x87, 0x73, 0x12], .xchgEvGv (.mem (.ind16 .bpDi (.d8 0x12))) .esi),
     (.s16, .s16, [0x88, 0x73, 0x12], .movEbGb (.mem (.ind16 .bpDi (.d8 0x12))) .esi),
     (.s16, .s16, [0x89, 0x73, 0x12], .movEvGv (.mem (.ind16 .bpDi (.d8 0x12))) .esi),
     (.s16, .s16, [0x8A, 0x73, 0x12], .movGbEb .esi (.mem (.ind16 .bpDi (.d8 0x12)))),
     (.s16, .s16, [0x8B, 0x73, 0x12], .movGvEv .esi (.mem (.ind16 .bpDi (.d8 0x12)))),
     (.s16, .s16, [0x8C, 0x5B, 0x12], .movEwSreg (.mem (.ind16 .bpDi (.d8 0x12))) 3),
     (.s16, .s16, [0x8D, 0x73, 0x12], .leaGvM .esi (.ind16 .bpDi (.d8 0x12))),
     (.s16, .s16, [0x8E, 0x5B, 0x12], .movSregEw 3 (.mem (.ind16 .bpDi (.d8 0x12)))),
     (.s16, .s16, [0x8F, 0x43, 0x12], .popEv (.mem (.ind16 .bpDi (.d8 0x12)))),
     (.s16, .s16, [0x90], .nop),
     (.s16, .s16, [0x91], .xchgEaxEcx),
     (.s16, .s16, [0x92], .xchgEaxEdx),
     (.s16, .s16, [0x93], .xchgEaxEbx),
     (.s16, .s16, [0x94], .xchgEaxEsp),
     (.s16, .s16, [0x95], .xchgEaxEbp),
     (.s16, .s16, [0x96], .xchgEaxEsi),
     (.s16, .s16, [0x97], .xchgEaxEdi),
     (.s16, .s16, [0x98], .cbw),
     (.s32, .s16, [0x98], .cwde),
     (.s16, .s16, [0x99], .cwd),
     (.s32, .s16, [0x99], .cdq),
     (.s16, .s16, [0x9A, 0x34, 0x92, 0xCD, 0xAB], .callApFar 0x9234 0xABCD),
     (.s16, .s16, [0x9B], .wait),
     (.s16, .s16, [0x9C], .pushf),
     (.s32, .s16, [0x9C], .pushfd),
     (.s16, .s16, [0x9D], .popf),
     (.s32, .s16, [0x9D], .popfd),
     (.s16, .s16, [0x9E], .sahf),
     (.s16, .s16, [0x9F], .lahf),
     (.s16, .s16, [0xA0, 0x34, 0x92], .movAlOb 0x9234)] = true := by decide +kernel

theorem test_decode_rows_5 : rowsRead
    [(.s16, .s16, [0xA1, 0x34, 0x92], .movEaxOv 0x9234),
     (.s16, .s16, [0xA2, 0x34, 0x92], .movObAl 0x9234),
     (.s16, .s16, [0xA3, 0x34, 0x92], .movOvEax 0x9234),
     (.s16, .s16, [0xA4], .movsb),
     (.s16, .s16, [0xA5], .movsw),
     (.s32, .s16, [0xA5], .movsd),
     (.s16, .s16, [0xA6], .cmpsb),
     (.s16, .s16, [0xA7], .cmpsw),
     (.s32, .s16, [0xA7], .cmpsd),
     (.s16, .s16, [0xAA], .stosb),
     (.s16, .s16, [0xAB], .stosw),
     (.s32, .s16, [0xAB], .stosd),
     (.s16, .s16, [0xAC], .lodsb),
     (.s16, .s16, [0xAD], .lodsw),
     (.s32, .s16, [0xAD], .lodsd),
     (.s16, .s16, [0xAE], .scasb),
     (.s16, .s16, [0xAF], .scasw),
     (.s32, .s16, [0xAF], .scasd),
     (.s16, .s16, [0xA8, 0xA5], .testAlIb 0xA5),
     (.s16, .s16, [0xA9, 0x34, 0x92], .testEaxIv 0x9234),
     (.s16, .s16, [0xB6, 0xA5], .movR8Ib .esi 0xA5),
     (.s16, .s16, [0xBE, 0x34, 0x92], .movRvIv .esi 0x9234),
     (.s16, .s16, [0xC0, 0x43, 0x12, 0xA5], .rolEb (.mem (.ind16 .bpDi (.d8 0x12))) (.imm 0xA5)),
     (.s16, .s16, [0xC1, 0x43, 0x12, 0xA5], .rolEv (.mem (.ind16 .bpDi (.d8 0x12))) (.imm 0xA5)),
     (.s16, .s16, [0xD0, 0x43, 0x12], .rolEb (.mem (.ind16 .bpDi (.d8 0x12))) .one),
     (.s16, .s16, [0xD1, 0x43, 0x12], .rolEv (.mem (.ind16 .bpDi (.d8 0x12))) .one),
     (.s16, .s16, [0xD2, 0x43, 0x12], .rolEb (.mem (.ind16 .bpDi (.d8 0x12))) .cl),
     (.s16, .s16, [0xD3, 0x43, 0x12], .rolEv (.mem (.ind16 .bpDi (.d8 0x12))) .cl),
     (.s16, .s16, [0xC0, 0x4B, 0x12, 0xA5], .rorEb (.mem (.ind16 .bpDi (.d8 0x12))) (.imm 0xA5)),
     (.s16, .s16, [0xC1, 0x4B, 0x12, 0xA5], .rorEv (.mem (.ind16 .bpDi (.d8 0x12))) (.imm 0xA5)),
     (.s16, .s16, [0xD0, 0x4B, 0x12], .rorEb (.mem (.ind16 .bpDi (.d8 0x12))) .one),
     (.s16, .s16, [0xD1, 0x4B, 0x12], .rorEv (.mem (.ind16 .bpDi (.d8 0x12))) .one),
     (.s16, .s16, [0xD2, 0x4B, 0x12], .rorEb (.mem (.ind16 .bpDi (.d8 0x12))) .cl),
     (.s16, .s16, [0xD3, 0x4B, 0x12], .rorEv (.mem (.ind16 .bpDi (.d8 0x12))) .cl),
     (.s16, .s16, [0xC0, 0x53, 0x12, 0xA5], .rclEb (.mem (.ind16 .bpDi (.d8 0x12))) (.imm 0xA5)),
     (.s16, .s16, [0xC1, 0x53, 0x12, 0xA5], .rclEv (.mem (.ind16 .bpDi (.d8 0x12))) (.imm 0xA5)),
     (.s16, .s16, [0xD0, 0x53, 0x12], .rclEb (.mem (.ind16 .bpDi (.d8 0x12))) .one),
     (.s16, .s16, [0xD1, 0x53, 0x12], .rclEv (.mem (.ind16 .bpDi (.d8 0x12))) .one),
     (.s16, .s16, [0xD2, 0x53, 0x12], .rclEb (.mem (.ind16 .bpDi (.d8 0x12))) .cl),
     (.s16, .s16, [0xD3, 0x53, 0x12], .rclEv (.mem (.ind16 .bpDi (.d8 0x12))) .cl),
     (.s16, .s16, [0xC0, 0x5B, 0x12, 0xA5], .rcrEb (.mem (.ind16 .bpDi (.d8 0x12))) (.imm 0xA5)),
     (.s16, .s16, [0xC1, 0x5B, 0x12, 0xA5], .rcrEv (.mem (.ind16 .bpDi (.d8 0x12))) (.imm 0xA5)),
     (.s16, .s16, [0xD0, 0x5B, 0x12], .rcrEb (.mem (.ind16 .bpDi (.d8 0x12))) .one),
     (.s16, .s16, [0xD1, 0x5B, 0x12], .rcrEv (.mem (.ind16 .bpDi (.d8 0x12))) .one),
     (.s16, .s16, [0xD2, 0x5B, 0x12], .rcrEb (.mem (.ind16 .bpDi (.d8 0x12))) .cl),
     (.s16, .s16, [0xD3, 0x5B, 0x12], .rcrEv (.mem (.ind16 .bpDi (.d8 0x12))) .cl),
     (.s16, .s16, [0xC0, 0x63, 0x12, 0xA5], .shlEb (.mem (.ind16 .bpDi (.d8 0x12))) (.imm 0xA5))] = true := by decide +kernel

theorem test_decode_rows_6 : rowsRead
    [(.s16, .s16, [0xC1, 0x63, 0x12, 0xA5], .shlEv (.mem (.ind16 .bpDi (.d8 0x12))) (.imm 0xA5)),
     (.s16, .s16, [0xD0, 0x63, 0x12], .shlEb (.mem (.ind16 .bpDi (.d8 0x12))) .one),
     (.s16, .s16, [0xD1, 0x63, 0x12], .shlEv (.mem (.ind16 .bpDi (.d8 0x12))) .one),
     (.s16, .s16, [0xD2, 0x63, 0x12], .shlEb (.mem (.ind16 .bpDi (.d8 0x12))) .cl),
     (.s16, .s16, [0xD3, 0x63, 0x12], .shlEv (.mem (.ind16 .bpDi (.d8 0x12))) .cl),
     (.s16, .s16, [0xC0, 0x6B, 0x12, 0xA5], .shrEb (.mem (.ind16 .bpDi (.d8 0x12))) (.imm 0xA5)),
     (.s16, .s16, [0xC1, 0x6B, 0x12, 0xA5], .shrEv (.mem (.ind16 .bpDi (.d8 0x12))) (.imm 0xA5)),
     (.s16, .s16, [0xD0, 0x6B, 0x12], .shrEb (.mem (.ind16 .bpDi (.d8 0x12))) .one),
     (.s16, .s16, [0xD1, 0x6B, 0x12], .shrEv (.mem (.ind16 .bpDi (.d8 0x12))) .one),
     (.s16, .s16, [0xD2, 0x6B, 0x12], .shrEb (.mem (.ind16 .bpDi (.d8 0x12))) .cl),
     (.s16, .s16, [0xD3, 0x6B, 0x12], .shrEv (.mem (.ind16 .bpDi (.d8 0x12))) .cl),
     (.s16, .s16, [0xC0, 0x7B, 0x12, 0xA5], .sarEb (.mem (.ind16 .bpDi (.d8 0x12))) (.imm 0xA5)),
     (.s16, .s16, [0xC1, 0x7B, 0x12, 0xA5], .sarEv (.mem (.ind16 .bpDi (.d8 0x12))) (.imm 0xA5)),
     (.s16, .s16, [0xD0, 0x7B, 0x12], .sarEb (.mem (.ind16 .bpDi (.d8 0x12))) .one),
     (.s16, .s16, [0xD1, 0x7B, 0x12], .sarEv (.mem (.ind16 .bpDi (.d8 0x12))) .one),
     (.s16, .s16, [0xD2, 0x7B, 0x12], .sarEb (.mem (.ind16 .bpDi (.d8 0x12))) .cl),
     (.s16, .s16, [0xD3, 0x7B, 0x12], .sarEv (.mem (.ind16 .bpDi (.d8 0x12))) .cl),
     (.s16, .s16, [0xC2, 0x34, 0x92], .retIwNear 0x9234),
     (.s16, .s16, [0xC3], .retNear),
     (.s16, .s16, [0xC4, 0x73, 0x12], .lesGvMp .esi (.ind16 .bpDi (.d8 0x12))),
     (.s16, .s16, [0xC5, 0x73, 0x12], .ldsGvMp .esi (.ind16 .bpDi (.d8 0x12))),
     (.s16, .s16, [0xC6, 0x43, 0x12, 0xA5], .movEbIb (.mem (.ind16 .bpDi (.d8 0x12))) 0xA5),
     (.s16, .s16, [0xC7, 0x43, 0x12, 0x34, 0x92], .movEvIv (.mem (.ind16 .bpDi (.d8 0x12))) 0x9234),
     (.s16, .s16, [0xC8, 0x34, 0x92, 0x03], .enterIwIb 0x9234 3),
     (.s16, .s16, [0xC9], .leave),
     (.s16, .s16, [0xCA, 0x34, 0x92], .retIwFar 0x9234),
     (.s16, .s16, [0xCB], .retFar),
     (.s16, .s16, [0xCC], .int3),
     (.s16, .s16, [0xCD, 0xA5], .intIb 0xA5),
     (.s16, .s16, [0xCE], .into),
     (.s16, .s16, [0xCF], .iret),
     (.s32, .s16, [0xCF], .iretd),
     (.s16, .s16, [0xD4, 0xA5], .aamIb 0xA5),
     (.s16, .s16, [0xD5, 0xA5], .aadIb 0xA5),
     (.s16, .s16, [0xD7], .xlat),
     (.s16, .s16, [0xDB, 0x6B, 0x12], .esc 3 5 (.mem (.ind16 .bpDi (.d8 0x12)))),
     (.s16, .s16, [0xE0, 0xA5], .loopneJb 0xA5),
     (.s16, .s16, [0xE1, 0xA5], .loopeJb 0xA5),
     (.s16, .s16, [0xE2, 0xA5], .loopJb 0xA5),
     (.s16, .s16, [0xE3, 0xA5], .jcxzJb 0xA5),
     (.s16, .s32, [0xE3, 0xA5], .jecxzJb 0xA5),
     (.s16, .s16, [0xE4, 0xA5], .inAlIb 0xA5),
     (.s16, .s16, [0xE5, 0xA5], .inEaxIb 0xA5),
     (.s16, .s16, [0xE6, 0xA5], .outIbAl 0xA5),
     (.s16, .s16, [0xE7, 0xA5], .outIbEax 0xA5),
     (.s16, .s16, [0xE8, 0x34, 0x92], .callJvNear 0x9234),
     (.s16, .s16, [0xE9, 0x34, 0x92], .jmpJvNear 0x9234)] = true := by decide +kernel

theorem test_decode_rows_7 : rowsRead
    [(.s16, .s16, [0xEA, 0x34, 0x92, 0xCD, 0xAB], .jmpApFar 0x9234 0xABCD),
     (.s16, .s16, [0xEB, 0xA5], .jmpJbShort 0xA5),
     (.s16, .s16, [0xEC], .inAlDx),
     (.s16, .s16, [0xED], .inEaxDx),
     (.s16, .s16, [0xEE], .outDxAl),
     (.s16, .s16, [0xEF], .outDxEax),
     (.s16, .s16, [0xF4], .hlt),
     (.s16, .s16, [0xF5], .cmc),
     (.s16, .s16, [0xF6, 0x43, 0x12, 0xA5], .testEbIb (.mem (.ind16 .bpDi (.d8 0x12))) 0xA5),
     (.s16, .s16, [0xF7, 0x43, 0x12, 0x34, 0x92], .testEvIv (.mem (.ind16 .bpDi (.d8 0x12))) 0x9234),
     (.s16, .s16, [0xF6, 0x53, 0x12], .notEb (.mem (.ind16 .bpDi (.d8 0x12)))),
     (.s16, .s16, [0xF7, 0x53, 0x12], .notEv (.mem (.ind16 .bpDi (.d8 0x12)))),
     (.s16, .s16, [0xF6, 0x5B, 0x12], .negEb (.mem (.ind16 .bpDi (.d8 0x12)))),
     (.s16, .s16, [0xF7, 0x5B, 0x12], .negEv (.mem (.ind16 .bpDi (.d8 0x12)))),
     (.s16, .s16, [0xF6, 0x63, 0x12], .mulEb (.mem (.ind16 .bpDi (.d8 0x12)))),
     (.s16, .s16, [0xF7, 0x63, 0x12], .mulEv (.mem (.ind16 .bpDi (.d8 0x12)))),
     (.s16, .s16, [0xF6, 0x6B, 0x12], .imulEb (.mem (.ind16 .bpDi (.d8 0x12)))),
     (.s16, .s16, [0xF7, 0x6B, 0x12], .imulEv (.mem (.ind16 .bpDi (.d8 0x12)))),
     (.s16, .s16, [0xF6, 0x73, 0x12], .divEb (.mem (.ind16 .bpDi (.d8 0x12)))),
     (.s16, .s16, [0xF7, 0x73, 0x12], .divEv (.mem (.ind16 .bpDi (.d8 0x12)))),
     (.s16, .s16, [0xF6, 0x7B, 0x12], .idivEb (.mem (.ind16 .bpDi (.d8 0x12)))),
     (.s16, .s16, [0xF7, 0x7B, 0x12], .idivEv (.mem (.ind16 .bpDi (.d8 0x12)))),
     (.s16, .s16, [0xF8], .clc),
     (.s16, .s16, [0xF9], .stc),
     (.s16, .s16, [0xFA], .cli),
     (.s16, .s16, [0xFB], .sti),
     (.s16, .s16, [0xFC], .cld),
     (.s16, .s16, [0xFD], .std),
     (.s16, .s16, [0xFE, 0x43, 0x12], .incEb (.mem (.ind16 .bpDi (.d8 0x12)))),
     (.s16, .s16, [0xFE, 0x4B, 0x12], .decEb (.mem (.ind16 .bpDi (.d8 0x12)))),
     (.s16, .s16, [0xFF, 0x43, 0x12], .incEv (.mem (.ind16 .bpDi (.d8 0x12)))),
     (.s16, .s16, [0xFF, 0x4B, 0x12], .decEv (.mem (.ind16 .bpDi (.d8 0x12)))),
     (.s16, .s16, [0xFF, 0x53, 0x12], .callEvNear (.mem (.ind16 .bpDi (.d8 0x12)))),
     (.s16, .s16, [0xFF, 0x5B, 0x12], .callMpFar (.ind16 .bpDi (.d8 0x12))),
     (.s16, .s16, [0xFF, 0x63, 0x12], .jmpEvNear (.mem (.ind16 .bpDi (.d8 0x12)))),
     (.s16, .s16, [0xFF, 0x6B, 0x12], .jmpMpFar (.ind16 .bpDi (.d8 0x12))),
     (.s16, .s16, [0xFF, 0x73, 0x12], .pushEv (.mem (.ind16 .bpDi (.d8 0x12)))),
     (.s16, .s16, [0x0F, 0x00, 0x43, 0x12], .sldtEw (.mem (.ind16 .bpDi (.d8 0x12)))),
     (.s16, .s16, [0x0F, 0x00, 0x4B, 0x12], .strEw (.mem (.ind16 .bpDi (.d8 0x12)))),
     (.s16, .s16, [0x0F, 0x00, 0x53, 0x12], .lldtEw (.mem (.ind16 .bpDi (.d8 0x12)))),
     (.s16, .s16, [0x0F, 0x00, 0x5B, 0x12], .ltrEw (.mem (.ind16 .bpDi (.d8 0x12)))),
     (.s16, .s16, [0x0F, 0x00, 0x63, 0x12], .verrEw (.mem (.ind16 .bpDi (.d8 0x12)))),
     (.s16, .s16, [0x0F, 0x00, 0x6B, 0x12], .verwEw (.mem (.ind16 .bpDi (.d8 0x12)))),
     (.s16, .s16, [0x0F, 0x01, 0x43, 0x12], .sgdtM (.ind16 .bpDi (.d8 0x12))),
     (.s16, .s16, [0x0F, 0x01, 0x4B, 0x12], .sidtM (.ind16 .bpDi (.d8 0x12))),
     (.s16, .s16, [0x0F, 0x01, 0x53, 0x12], .lgdtM (.ind16 .bpDi (.d8 0x12))),
     (.s16, .s16, [0x0F, 0x01, 0x5B, 0x12], .lidtM (.ind16 .bpDi (.d8 0x12)))] = true := by decide +kernel

theorem test_decode_rows_8 : rowsRead
    [(.s16, .s16, [0x0F, 0x01, 0x63, 0x12], .smswEw (.mem (.ind16 .bpDi (.d8 0x12)))),
     (.s16, .s16, [0x0F, 0x01, 0x73, 0x12], .lmswEw (.mem (.ind16 .bpDi (.d8 0x12)))),
     (.s16, .s16, [0x0F, 0x02, 0x73, 0x12], .larGvEw .esi (.mem (.ind16 .bpDi (.d8 0x12)))),
     (.s16, .s16, [0x0F, 0x03, 0x73, 0x12], .lslGvEw .esi (.mem (.ind16 .bpDi (.d8 0x12)))),
     (.s16, .s16, [0x0F, 0x06], .clts),
     (.s16, .s16, [0x0F, 0x20, 0xD6], .movR32Crn .esi 2),
     (.s16, .s16, [0x0F, 0x21, 0xDE], .movR32Drn .esi 3),
     (.s16, .s16, [0x0F, 0x22, 0xD6], .movCrnR32 2 .esi),
     (.s16, .s16, [0x0F, 0x23, 0xDE], .movDrnR32 3 .esi),
     (.s16, .s16, [0x0F, 0x24, 0xFE], .movR32Trn .esi 7),
     (.s16, .s16, [0x0F, 0x26, 0xFE], .movTrnR32 7 .esi),
     (.s16, .s16, [0x0F, 0xA3, 0x73, 0x12], .btEvGv (.mem (.ind16 .bpDi (.d8 0x12))) .esi),
     (.s16, .s16, [0x0F, 0xA4, 0x73, 0x12, 0xA5], .shldEvGvIb (.mem (.ind16 .bpDi (.d8 0x12))) .esi 0xA5),
     (.s16, .s16, [0x0F, 0xA5, 0x73, 0x12], .shldEvGvCl (.mem (.ind16 .bpDi (.d8 0x12))) .esi),
     (.s16, .s16, [0x0F, 0xAB, 0x73, 0x12], .btsEvGv (.mem (.ind16 .bpDi (.d8 0x12))) .esi),
     (.s16, .s16, [0x0F, 0xAC, 0x73, 0x12, 0xA5], .shrdEvGvIb (.mem (.ind16 .bpDi (.d8 0x12))) .esi 0xA5),
     (.s16, .s16, [0x0F, 0xAD, 0x73, 0x12], .shrdEvGvCl (.mem (.ind16 .bpDi (.d8 0x12))) .esi),
     (.s16, .s16, [0x0F, 0xAF, 0x73, 0x12], .imulGvEv .esi (.mem (.ind16 .bpDi (.d8 0x12)))),
     (.s16, .s16, [0x0F, 0xB2, 0x73, 0x12], .lssGvMp .esi (.ind16 .bpDi (.d8 0x12))),
     (.s16, .s16, [0x0F, 0xB3, 0x73, 0x12], .btrEvGv (.mem (.ind16 .bpDi (.d8 0x12))) .esi),
     (.s16, .s16, [0x0F, 0xB4, 0x73, 0x12], .lfsGvMp .esi (.ind16 .bpDi (.d8 0x12))),
     (.s16, .s16, [0x0F, 0xB5, 0x73, 0x12], .lgsGvMp .esi (.ind16 .bpDi (.d8 0x12))),
     (.s16, .s16, [0x0F, 0xB6, 0x73, 0x12], .movzxGvEb .esi (.mem (.ind16 .bpDi (.d8 0x12)))),
     (.s16, .s16, [0x0F, 0xB7, 0x73, 0x12], .movzxGvEw .esi (.mem (.ind16 .bpDi (.d8 0x12)))),
     (.s16, .s16, [0x0F, 0xBA, 0x63, 0x12, 0xA5], .btEvIb (.mem (.ind16 .bpDi (.d8 0x12))) 0xA5),
     (.s16, .s16, [0x0F, 0xBA, 0x6B, 0x12, 0xA5], .btsEvIb (.mem (.ind16 .bpDi (.d8 0x12))) 0xA5),
     (.s16, .s16, [0x0F, 0xBA, 0x73, 0x12, 0xA5], .btrEvIb (.mem (.ind16 .bpDi (.d8 0x12))) 0xA5),
     (.s16, .s16, [0x0F, 0xBA, 0x7B, 0x12, 0xA5], .btcEvIb (.mem (.ind16 .bpDi (.d8 0x12))) 0xA5),
     (.s16, .s16, [0x0F, 0xBB, 0x73, 0x12], .btcEvGv (.mem (.ind16 .bpDi (.d8 0x12))) .esi),
     (.s16, .s16, [0x0F, 0xBC, 0x73, 0x12], .bsfGvEv .esi (.mem (.ind16 .bpDi (.d8 0x12)))),
     (.s16, .s16, [0x0F, 0xBD, 0x73, 0x12], .bsrGvEv .esi (.mem (.ind16 .bpDi (.d8 0x12)))),
     (.s16, .s16, [0x0F, 0xBE, 0x73, 0x12], .movsxGvEb .esi (.mem (.ind16 .bpDi (.d8 0x12)))),
     (.s16, .s16, [0x0F, 0xBF, 0x73, 0x12], .movsxGvEw .esi (.mem (.ind16 .bpDi (.d8 0x12)))),
     (.s16, .s16, [0x26], .pfxEs),
     (.s16, .s16, [0x2E], .pfxCs),
     (.s16, .s16, [0x36], .pfxSs),
     (.s16, .s16, [0x3E], .pfxDs),
     (.s16, .s16, [0x64], .pfxFs),
     (.s16, .s16, [0x65], .pfxGs),
     (.s16, .s16, [0x66], .pfxOpSize),
     (.s16, .s16, [0x67], .pfxAddrSize),
     (.s16, .s16, [0xF0], .pfxLock),
     (.s16, .s16, [0xF2], .pfxRepne),
     (.s16, .s16, [0xF3], .pfxRep),
     (.s16, .s16, [0x82], .undef82),
     (.s16, .s16, [0xD6], .undefD6),
     (.s16, .s16, [0xF1], .undefF1)] = true := by decide +kernel


theorem test_decode_V30_1 : rowsRead [(.s32, .s32, [0x8B, 0x44, 0xB3, 0x08], .movGvEv .eax (.mem (.sib 2 .esi .ebx (.d8 8))))] = true := by
  decide

theorem test_decode_V30_2 : rowsRead [(.s16, .s16, [0x8B, 0x46, 0xFE], .movGvEv .eax (.mem (.ind16 .bp (.d8 0xFE))))] = true := by
  decide

theorem test_decode_V30_5 : rowsRead [(.s32, .s32, [0x8B, 0x04, 0x24], .movGvEv .eax (.mem (.sib 0 .esp .esp .none)))] = true := by
  decide

theorem test_decode_V30_6 : rowsRead [(.s32, .s32, [0x8B, 0x05, 0, 5, 0, 0], .movGvEv .eax (.mem (.abs32 0x500)))] = true := by
  decide

/-- Byte sequences that are no instruction (30_encoding.md R353, R354): an opcode of no instruction, and a register where
memory is required. -/
theorem test_decode_refuses : ([[0x0F, 0x0B], [0x0F, 0xFF], [0x8D, 0xC0], [0x0F, 0x01, 0xD0], [0xFE, 0xF8]].all fun bs =>
    match decode .s32 .s32 bs with
    | .ok _ => false
    | .error .more => false
    | .error _ => true) = true := by decide

theorem test_decode_needs_more : (match decode .s32 .s32 [0x05, 1, 2] with
    | .error .more => true
    | _ => false) = true := by decide

theorem test_decodeTableWord : decodeTableWord 8 0x90 = some .nop ∧ decodeTableWord 16 0x7F0F = none := by decide

/-! ## Small machines -/

/-- Bytes at consecutive addresses of a memory with nothing below. -/
def cells (a : Nat) (bs : List Nat) (m : Memory) : Memory :=
  ((List.range bs.length).zip bs).foldr (fun c m => Memory.cons (a + c.1) (BitVec.ofNat 8 c.2) m) m

/-- A machine in real-address mode that executes a three-byte instruction at 0040:0010, with an interrupt table at 0 whose
entries name 0050:0000 and up, data from 100H and a stack at 200H. -/
def real : State :=
  { State.reset with
    regs := { eax := 0x12345678, ecx := 3, edx := 0x60, ebx := 0x100, esp := 0x200, ebp := 0x180, esi := 0x110, edi := 0x120 }
    eip := 0x10
    cs := { State.reset.cs with sel := 0x40, base := 0x400 }
    mem := cells 0 ((List.range 16).flatMap fun n => [n, 0, 0x50, 0])
      (cells 0x100 [0x34, 0x12, 0x40, 0, 1, 2, 3, 4] (cells 0x200 [0x20, 0, 0x40, 0, 0xD5, 0x0A, 7, 8] []))
    cur := { Cur.idle with start := 0x10, next := 0x13 } }

/-- The same machine with 32-bit operands and addresses. -/
def wide (s : State) : State := { s with cur := { s.cur with opSize := .s32, addrSize := .s32 } }

/-- A flat segment of a privilege level. -/
def flat (sel : Word16) (code : Bool) (dpl : BitVec 2) : Seg :=
  { sel := sel, base := 0, limit := 0xFFFFFFFF, valid := true,
    attr := { present := true, dpl := dpl, s := true, type := if code then 0xB else 3, g := true, db := true } }

/-- Descriptors: null, code and data of level 0, code and data of level 3, a busy TSS, two available ones, call gates to
level 0 code, an LDT, conforming code. -/
def gdt : List Nat :=
  [0, 0, 0, 0, 0, 0, 0, 0, 0xFF, 0xFF, 0, 0, 0, 0x9B, 0xCF, 0, 0xFF, 0xFF, 0, 0, 0, 0x93, 0xCF, 0,
   0xFF, 0xFF, 0, 0, 0, 0xFB, 0xCF, 0, 0xFF, 0xFF, 0, 0, 0, 0xF3, 0xCF, 0, 0x67, 0, 0, 0x20, 0, 0x8B, 0, 0,
   0x67, 0, 0, 0x21, 0, 0x89, 0, 0, 0x67, 0, 0, 0x22, 0, 0x89, 0, 0, 0, 0x50, 8, 0, 1, 0xEC, 0, 0,
   7, 0, 0, 0x30, 0, 0x82, 0, 0, 0xFF, 0xFF, 0, 0, 0, 0x9F, 0xCF, 0, 0x67, 0, 0, 0x22, 0, 0x8B, 0, 0]

/-- A gate of the interrupt table. -/
def gate (target sel access : Nat) : List Nat := [target % 256, target / 256, sel, 0, 0, access, 0, 0]

/-- The interrupt table: 0 to 13 interrupt gates of level 0 but 3 and 4 of level 3, 14 a trap gate of level 3, 15 one not
present, 16 no gate, 17 a task gate. -/
def idt : List Nat :=
  (List.range 14).flatMap (fun n => gate (0x6000 + n) 8 (if n = 3 ∨ n = 4 then 0xEE else 0x8E)) ++
    gate 0x6100 8 0xEF ++ gate 0x6101 8 0x6E ++ gate 0 8 0x92 ++ gate 0 0x30 0xE5

/-- The incoming task: EIP 5100H, EFLAGS 2, segments of level 0, the T bit as given. -/
def tss (trap : Nat) : List Nat :=
  [0, 0, 0, 0, 0, 0x51, 0, 0, 2, 0, 0, 0] ++ (List.range 32) ++
    [0x10, 0, 0, 0, 8, 0, 0, 0, 0x10, 0, 0, 0, 0x10, 0, 0, 0, 0, 0, 0, 0, 0, 0, 0, 0, 0x48, 0, 0, 0, trap, 0]

/-- A machine in protected mode at level 0 with those tables; memory at 8000H holds a return frame to level 3, at 8100H
one to level 0, and at 8200H far pointers. -/
def prot : State :=
  { State.reset with
    regs := { eax := 0x12345678, ecx := 3, edx := 0x60, ebx := 0x8200, esp := 0x8000, ebp := 0x8180, esi := 0x8110, edi := 0x8120 }
    eip := 0x4000
    cs := flat 8 true 0
    ss := flat 0x10 false 0
    ds := flat 0x10 false 0
    es := flat 0x10 false 0
    fs := flat 0x10 false 0
    gs := flat 0x10 false 0
    cr0 := { State.reset.cr0 with pe := true }
    gdtr := { base := 0x1000, limit := 0x5F }
    idtr := { base := 0x1800, limit := 0x8F }
    tr := { sel := 0x28, base := 0x2000, limit := 0x67, type := 0xB }
    mem := cells 0x1000 gdt (cells 0x1800 idt (cells 0x2000 [0x30, 0, 0, 0, 0, 0x70, 0, 0, 0x10] (cells 0x2066 [0x68]
      (cells 0x211C (tss 0) (cells 0x221C (tss 1)
        (cells 0x8000 [0x78, 0x56, 0, 0, 0x1B, 0, 0, 0, 2, 0, 0, 0, 0, 0x70, 0, 0, 0x23, 0, 0, 0]
          (cells 0x8100 [0x78, 0x56, 0, 0, 8, 0, 0, 0, 2, 0, 0, 0] (cells 0x8200 [0x78, 0x56, 0, 0, 0x10, 0] []))))))))
    cur := { start := 0x4000, next := 0x4003, code := .s32, opSize := .s32, addrSize := .s32, seg := none, rep := none,
             lock := false, committed := false, partway := false, keepRf := false, incomplete := false } }

/-- The machine at level 3. -/
def user : State :=
  { prot with cpl := 3, cs := flat 0x1B true 3, ss := flat 0x23 false 3, ds := flat 0x23 false 3, es := flat 0x23 false 3 }

/-- The machine with another stack pointer. -/
def withEsp (s : State) (v : Word32) : State := { s with regs := { s.regs with esp := v } }

/-- The machine in the nested task whose back link, in the TSS at 2000H, names the busy TSS 58H. -/
def nested : State :=
  { prot with flags := { prot.flags with nt := true }, mem := prot.mem.set 0x2000 0x58 }

/-- The outcome is a next state that satisfies the test. -/
def after (o : Host.Outcome State Fault Refusal) (p : State → Bool) : Bool :=
  match o with
  | .next t => p t
  | .fault _ => false
  | .refused _ => false

/-- The action answers. -/
def ran {α : Type} (m : M α) (s : State) : Bool :=
  match m s with
  | .ok _ _ => true
  | .error _ _ => false

/-- The action raises an exception that satisfies the test. -/
def fails {α : Type} (m : M α) (p : Exn → State → Bool) : M Unit := fun s =>
  match m s with
  | .error (.exc x) t => if p x t then .ok () t else .error .shutdown t
  | .error e t => .error e t
  | .ok _ t => .error .shutdown t

/-- Any exception. -/
def anyExn : Exn → State → Bool := fun _ _ => true

/-- The machine with bytes of memory changed. -/
def poked (s : State) (cs : List (Nat × Byte)) : State := { s with mem := cs.foldl (fun m c => m.set c.1 c.2) s.mem }

/-- The machine with another limit of the stack segment. -/
def ssLimit (s : State) (v : Word32) : State := { s with ss := { s.ss with limit := v } }

/-- A condition between two actions. -/
def ensure (c : Bool) : M Unit := require c ud

/-- A chain of actions answers exactly if each does, in the state the one before ends in: so a witness that a chain
answers gives the values and the states that a statement's hypotheses name. -/
theorem ran_bind {α β : Type} (m : M α) (f : α → M β) (s : State) :
    ran (m >>= f) s = true ↔ ∃ a t, m s = .ok a t ∧ ran (f a) t = true := by
  simp only [ran, bind, EStateM.bind]
  cases m s with
  | ok a t => exact ⟨fun h => ⟨a, t, rfl, h⟩, fun ⟨_, _, h, k⟩ => by cases h; exact k⟩
  | error e t => exact ⟨fun h => by simp at h, fun ⟨_, _, h, _⟩ => by cases h⟩

/-- A condition in a chain holds if the chain answers. -/
theorem ran_ensure {β : Type} (c : Bool) (f : Unit → M β) (s : State) :
    ran (ensure c >>= f) s = true ↔ c = true ∧ ran (f ()) s = true := by
  cases c <;> simp [ran, bind, EStateM.bind, ensure, require]

theorem test_machines : real.mem.wf = true ∧ prot.mem.wf = true ∧ nested.mem.wf = true := by decide +kernel

/-- An exception in a chain is raised if the chain answers. -/
theorem ran_fails {α β : Type} (m : M α) (p : Exn → State → Bool) (f : Unit → M β) (s : State) :
    ran (fails m p >>= f) s = true ↔ ∃ x t, m s = .error (.exc x) t ∧ p x t = true ∧ ran (f ()) t = true := by
  rw [ran_bind]
  constructor
  · rintro ⟨_, t, h, k⟩
    unfold fails at h
    split at h
    · next x u e =>
      split at h
      · next q => cases h; exact ⟨x, _, e, q, k⟩
      · cases h
    · cases h
    · cases h
  · rintro ⟨x, t, h, q, k⟩
    exact ⟨(), t, by simp [fails, h, q], k⟩

/-! In the witnesses the relations of the statements stand as the actions they say of (Laws/Stack.lean, Laws/Checks.lean):
`Probed` and `ProbeFails` as `probePushesAs` (probePushesAs_ok, probePushesAs_exc), `Pushed` and `PushFails` as `pushAllAs`
(pushAllAs_ok, pushAllAs_exc), `Displayed` and `DisplayFails` as `copyDisplay` (copyDisplay_ok, copyDisplay_exc),
`Check.Passes` and `Check.Fails` as `Check.run` (Check.run_passes, Check.run_fails), `InnerStack` as `innerStack`
(innerStack_iff), `TaskTestsPass` as `loadIncoming` (loadIncoming_iff). -/

/-- A machine in protected mode with paging on, in which the pages of the tables, of the TSSs and of their descriptors are
present and those of the stacks are not: page 0 is the directory, and the table of the first pages too. -/
def withPages (s : State) : State :=
  { poked s [(9, 0x20), (8, 0x67), (5, 0x10), (4, 0x67), (0, 0x67)] with cr0 := { s.cr0 with pg := true }, cr3 := 0 }

/-- A return address pushed, as a far CALL does. -/
def returnPushed (s : State) (w : Width) : M Unit := do
  probePushesAs s.user w 2
  pushAllAs s.user w [s.cs.sel.setWidth w.bits, s.nextIp.setWidth w.bits]

/-! ## Worked examples

Each is one step on a small machine; the expected values are those of 95_test_vectors.md, whose number the name ends in. -/

/-- The bytes stand at CS:EIP, and no instruction is in progress. -/
def loaded (s : State) (bs : List Nat) : State :=
  let place (m : Memory) (c : Nat × Nat) : Memory := m.set ((s.cs.base + s.eip).toNat + c.1) (BitVec.ofNat 8 c.2)
  { s with cur := .idle, mem := ((List.range bs.length).zip bs).foldl place s.mem }

/-- The step of the instruction of those bytes ends in a state that satisfies the test. -/
def runs (s : State) (bs : List Nat) (p : State → Bool) : Bool := after (step (loaded s bs)) p

/-- The step of the instruction of those bytes raises the exception `n`, whose handler is at 6000H + n in protected mode,
with the offset saved at that address. -/
def raises (s : State) (bs : List Nat) (n : Nat) (saved : Nat) : Bool :=
  runs s bs fun t => t.eip == BitVec.ofNat 32 (0x6000 + n) &&
    leNat ((List.range 4).map fun i => t.mem.get (saved + i)) == s.eip.toNat

/-- The doubleword at an address. -/
def dword (s : State) (a : Nat) : Nat := leNat ((List.range 4).map fun i => s.mem.get (a + i))

/-- The word at an address. -/
def word (s : State) (a : Nat) : Nat := leNat ((List.range 2).map fun i => s.mem.get (a + i))

/-- `prot` with those general registers changed. -/
def regs (f : Regs → Regs) : State := { prot with regs := f prot.regs }

/-- CF, OF, SF, ZF, AF and PF. -/
def status (s : State) : List Bool := [s.flags.cf, s.flags.ov, s.flags.sf, s.flags.zf, s.flags.af, s.flags.pf]

theorem test_mov_V20_1 : runs prot [0xA3, 0, 1, 0, 0] (fun t => dword t 0x100 == 0x12345678 && t.eip == 0x4005) = true := by
  decide +kernel

theorem test_mov_beyond_limit_V20_4 : runs { real with regs := { real.regs with ebx := 0xFFFF } } [0x8B, 7]
    (fun t => t.cs.sel == 0x50 && t.eip == 13 && word t 0x1FA == 0x10) = true := by decide +kernel

theorem test_push_esp_V40_3 : runs (regs fun g => { g with esp := 0x1000 }) [0x54]
    (fun t => dword t 0xFFC == 0x1000 && t.regs.esp == 0xFFC) = true := by decide +kernel

theorem test_push_imm_V40_5 : runs (regs fun g => { g with esp := 0x1000 }) [0x6A, 0xFF]
    (fun t => dword t 0xFFC == 0xFFFFFFFF && t.regs.esp == 0xFFC) = true := by decide +kernel

theorem test_xchg_V40_2 : runs (regs fun g => { g with eax := 1, ebx := 2 }) [0x93]
    (fun t => t.regs.eax == 2 && t.regs.ebx == 1) = true := by decide +kernel

theorem test_pushad_V40_7 : runs (regs fun g => { g with esp := 0x3000 }) [0x60]
    (fun t => t.regs.esp == 0x2FE0 && dword t 0x2FFC == 0x12345678 && dword t 0x2FEC == 0x3000 && dword t 0x2FE0 == 0x8120)
    = true := by decide +kernel

theorem test_cbw_V40_9 : runs (regs fun g => { g with eax := 0x12345680 }) [0x66, 0x98]
    (fun t => t.regs.eax == 0x1234FF80) = true := by decide +kernel

theorem test_movsx_V40_12 : runs (regs fun g => { g with ebx := 0xF0 }) [0x0F, 0xBE, 0xC3]
    (fun t => t.regs.eax == 0xFFFFFFF0) = true := by decide +kernel

theorem test_add_V41_1 : runs (regs fun g => { g with eax := 0x7FFFFFFF }) [5, 1, 0, 0, 0]
    (fun t => t.regs.eax == 0x80000000 && status t == [false, true, true, false, true, true]) = true := by decide +kernel

theorem test_sub_V41_2 : runs (regs fun g => { g with eax := 0 }) [0x83, 0xE8, 1]
    (fun t => t.regs.eax == 0xFFFFFFFF && status t == [true, false, true, false, true, true]) = true := by decide +kernel

theorem test_adc_V41_3 : runs { regs (fun g => { g with eax := 0xFF }) with flags := { prot.flags with cf := true } } [0x14, 0]
    (fun t => t.regs.eax == 0 && status t == [true, false, false, true, true, true]) = true := by decide +kernel

theorem test_inc_V41_4 : runs { regs (fun g => { g with eax := 0xFFFFFFFF }) with flags := { prot.flags with cf := true } } [0x40]
    (fun t => t.regs.eax == 0 && status t == [true, false, false, true, true, true]) = true := by decide +kernel

theorem test_neg_V41_6 : runs (regs fun g => { g with eax := 0x80000000 }) [0xF7, 0xD8]
    (fun t => t.regs.eax == 0x80000000 && status t == [true, true, true, false, false, true]) = true := by decide +kernel

theorem test_mul_V41_8 : runs (regs fun g => { g with eax := 0xFFFFFFFF, ecx := 2 }) [0xF7, 0xE1]
    (fun t => t.regs.edx == 1 && t.regs.eax == 0xFFFFFFFE && t.flags.cf && t.flags.ov) = true := by decide +kernel

theorem test_imul_V41_9 : runs (regs fun g => { g with eax := 0xFFFFFFFF, ecx := 2 }) [0xF7, 0xE9]
    (fun t => t.regs.edx == 0xFFFFFFFF && t.regs.eax == 0xFFFFFFFE && !t.flags.cf && !t.flags.ov) = true := by decide +kernel

theorem test_div_V41_10 : raises (regs fun g => { g with edx := 1, eax := 0, ecx := 1 }) [0xF7, 0xF1] 0 0x7FF4 = true := by
  decide +kernel

theorem test_idiv_V41_11 : runs (regs fun g => { g with eax := 0xFF80, ebx := 1 }) [0xF6, 0xFB]
    (fun t => t.regs.eax == 0x80) = true := by decide +kernel

theorem test_idiv_V41_13 : runs (regs fun g => { g with edx := 0xFFFFFFFF, eax := 0xFFFFFFF9, ecx := 2 }) [0xF7, 0xF9]
    (fun t => t.regs.eax == 0xFFFFFFFD && t.regs.edx == 0xFFFFFFFF) = true := by decide +kernel

theorem test_cmp_V41_15 : runs (regs fun g => { g with eax := 1, ebx := 2 }) [0x39, 0xD8]
    (fun t => t.regs.eax == 1 && status t == [true, false, true, false, true, true]) = true := by decide +kernel

theorem test_daa_V42_1 : runs (regs fun g => { g with eax := 0xAE }) [0x27]
    (fun t => t.regs.eax == 0x14 && t.flags.cf && t.flags.af) = true := by decide +kernel

theorem test_das_V42_2 : runs { regs (fun g => { g with eax := 0xEE }) with flags := { prot.flags with cf := true, af := true } }
    [0x2F] (fun t => t.regs.eax == 0x88 && t.flags.cf) = true := by decide +kernel

theorem test_aaa_V42_3 : runs (regs fun g => { g with eax := 0x0E }) [0x37]
    (fun t => t.regs.eax == 0x104 && t.flags.cf && t.flags.af) = true := by decide +kernel

theorem test_aas_V42_4 : runs { regs (fun g => { g with eax := 0x1FD }) with flags := { prot.flags with af := true } } [0x3F]
    (fun t => t.regs.eax == 7 && t.flags.cf && t.flags.af) = true := by decide +kernel

theorem test_aam_V42_5 : runs (regs fun g => { g with eax := 0x3F }) [0xD4, 0x0A] (fun t => t.regs.eax == 0x603) = true := by
  decide +kernel

theorem test_aad_V42_6 : runs (regs fun g => { g with eax := 0x603 }) [0xD5, 0x0A] (fun t => t.regs.eax == 0x3F) = true := by
  decide +kernel

theorem test_bt_V43_4 : runs { regs (fun g => { g with eax := 0xFFFFFFFF, ebx := 0x9004 }) with mem := prot.mem.set 0x9003 0x80 }
    [0x0F, 0xA3, 3] (fun t => t.flags.cf) = true := by decide +kernel

theorem test_bts_V43_5 : runs (regs fun g => { g with eax := 0, ecx := 35 }) [0x0F, 0xAB, 0xC8]
    (fun t => t.regs.eax == 8 && !t.flags.cf) = true := by decide +kernel

theorem test_shl_V43_6 : runs (regs fun g => { g with eax := 1, ecx := 0x20 }) [0xD3, 0xE0]
    (fun t => t.regs.eax == 1 && t.flags == prot.flags) = true := by decide +kernel

theorem test_shl_V43_7 : runs (regs fun g => { g with eax := 0x81 }) [0xD0, 0xE0]
    (fun t => t.regs.eax == 2 && t.flags.cf && t.flags.ov) = true := by decide +kernel

theorem test_sar_V43_8 : runs (regs fun g => { g with eax := 0x80000000 }) [0xC1, 0xF8, 0x1F]
    (fun t => t.regs.eax == 0xFFFFFFFF && !t.flags.cf && t.flags.sf && t.flags.pf) = true := by decide +kernel

theorem test_shld_V43_9 : runs (regs fun g => { g with eax := 1, ebx := 0x80000000 }) [0x0F, 0xA4, 0xD8, 1]
    (fun t => t.regs.eax == 3 && !t.flags.cf) = true := by decide +kernel

theorem test_rcl_V43_10 : runs { regs (fun g => { g with eax := 0x80 }) with flags := { prot.flags with zf := true } } [0xD0, 0xD0]
    (fun t => t.regs.eax == 0 && t.flags.cf && t.flags.ov && t.flags.zf) = true := by decide +kernel

theorem test_bsf_V43_11 : runs (regs fun g => { g with ebx := 0 }) [0x0F, 0xBC, 0xC3] (fun t => t.flags.zf) = true := by
  decide +kernel

theorem test_bsr_V43_12 : runs (regs fun g => { g with ebx := 0x18 }) [0x0F, 0xBD, 0xC3]
    (fun t => t.regs.eax == 4 && !t.flags.zf) = true := by decide +kernel

theorem test_jmp_V44_1 : runs prot [0xEB, 0xFE] (fun t => t.eip == 0x4000) = true := by decide +kernel

theorem test_call_V44_2 : runs (regs fun g => { g with esp := 0x1000 }) [0xE8, 0x10, 0, 0, 0]
    (fun t => dword t 0xFFC == 0x4005 && t.regs.esp == 0xFFC && t.eip == 0x4015) = true := by decide +kernel

theorem test_ret_V44_3 : runs prot [0xC2, 8, 0] (fun t => t.eip == 0x5678 && t.regs.esp == 0x800C) = true := by decide +kernel

theorem test_loope_V44_5 : runs { regs (fun g => { g with ecx := 1 }) with flags := { prot.flags with zf := true } } [0xE1, 0xFE]
    (fun t => t.regs.ecx == 0 && t.eip == 0x4002) = true := by decide +kernel

theorem test_loop_V44_7 : runs (regs fun g => { g with ecx := 0 }) [0xE2, 0xFE]
    (fun t => t.regs.ecx == 0xFFFFFFFF && t.eip == 0x4000) = true := by decide +kernel

theorem test_jmp_far_V44_8 : runs real [0xEA, 0, 0, 0, 0x10]
    (fun t => t.cs.sel == 0x1000 && t.cs.base == 0x10000 && t.eip == 0) = true := by decide +kernel

theorem test_call_conforming_V44_11 : runs user [0x9A, 0, 0x50, 0, 0, 0x50, 0]
    (fun t => t.cpl == 3 && t.cs.sel == 0x53 && t.eip == 0x5000) = true := by decide +kernel

theorem test_bound_V44_13 : raises { regs (fun g => { g with eax := 10, ebx := 0x9000 }) with mem := prot.mem.set 0x9004 9 }
    [0x62, 3] 5 0x7FF4 = true := by decide +kernel

theorem test_movsb_V45_1 : runs { regs (fun g => { g with esi := 0x100, edi := 0x200 }) with mem := cells 0x100 [0x41] prot.mem }
    [0xA4] (fun t => t.mem.get 0x200 == 0x41 && t.regs.esi == 0x101 && t.regs.edi == 0x201) = true := by decide +kernel

theorem test_rep_movsb_V45_3 : runs (regs fun g => { g with ecx := 0 }) [0xF3, 0xA4]
    (fun t => t.mem == (loaded prot [0xF3, 0xA4]).mem && t.regs.esi == 0x8110 && t.eip == 0x4002) = true := by decide +kernel

theorem test_enter_V46_2 : runs (regs fun g => { g with esp := 0x3000, ebp := 0x2800 }) [0xC8, 8, 0, 1]
    (fun t => dword t 0x2FFC == 0x2800 && dword t 0x2FF8 == 0x2FFC && t.regs.ebp == 0x2FFC && t.regs.esp == 0x2FF0) = true := by
  decide +kernel

theorem test_lahf_V46_5 : runs { prot with flags := { prot.flags with sf := true, pf := true, cf := true } } [0x9F]
    (fun t => t.regs.eax == 0x12348778) = true := by decide +kernel

theorem test_popf_V46_7 : runs { withEsp user 0x9000 with flags := { prot.flags with ie := true, cf := true, df := true } } [0x66, 0x9D]
    (fun t => t.flags.ie && !t.flags.cf && !t.flags.df && t.flags.iopl == 0) = true := by decide +kernel

theorem test_mov_ds_V47_1 : runs { real with regs := { real.regs with eax := 0x1234 } } [0x8E, 0xD8]
    (fun t => t.ds.sel == 0x1234 && t.ds.base == 0x12340) = true := by decide +kernel

theorem test_mov_ss_V47_3 : runs (regs fun g => { g with eax := 0 }) [0x8E, 0xD0]
    (fun t => t.eip == 0x600D && t.regs.esp == 0x7FF0 && t.regs.eax == 0) = true := by decide +kernel

theorem test_lds_V47_5 : runs prot [0xC5, 3] (fun t => t.regs.eax == 0x5678 && t.ds.sel == 0x10) = true := by decide +kernel

theorem test_lea_V47_6 : runs (regs fun g => { g with ebx := 0x1000, esi := 3 }) [0x8D, 0x44, 0xB3, 8]
    (fun t => t.regs.eax == 0x1014) = true := by decide +kernel

theorem test_lea_register_V47_8 : raises prot [0x8D, 0xC0] 6 0x7FF4 = true := by decide +kernel

theorem test_lgdt_V48_1 : runs { regs (fun g => { g with eax := 0x9000 }) with mem := cells 0x9000 [0x17, 0, 0, 0x10] [] }
    [0x0F, 1, 0x10] (fun t => t.gdtr == { base := 0x1000, limit := 0x17 }) = true := by decide +kernel

theorem test_clts_V48_3 : runs user [0x0F, 6] (fun t => t.eip == 0x600D && t.cpl == 0 && t.regs.esp == 0x6FE8) = true := by
  decide +kernel

theorem test_mov_cr0_V48_4 : runs { real with regs := { real.regs with eax := 0x11 } } [0x0F, 0x22, 0xC0]
    (fun t => t.cr0.pe && t.cr0.et && t.cs == real.cs) = true := by decide +kernel

theorem test_arpl_V48_7 : runs (regs fun g => { g with eax := 8, ecx := 0x23 }) [0x63, 0xC8]
    (fun t => t.regs.eax == 0xB && t.flags.zf) = true := by decide +kernel

theorem test_ltr_V48_9 : runs real [0x0F, 0, 0xD8] (fun t => t.cs.sel == 0x50 && t.eip == 6) = true := by decide +kernel

theorem test_out_V49_2 : runs (regs fun g => { g with eax := 0x11223344 }) [0xE7, 0x80]
    (fun t => t.events == [.portOut 0x80 4 0x11223344]) = true := by decide +kernel

theorem test_esc_V49_4 : raises { prot with cr0 := { prot.cr0 with em := true } } [0xD9, 0xE8] 7 0x7FF4 = true := by decide +kernel

theorem test_int_V60_1 : runs { real with flags := { real.flags with ie := true } } [0xCD, 3]
    (fun t => word t 0x1FE == 0x202 && word t 0x1FC == 0x40 && word t 0x1FA == 0x12 && t.regs.esp == 0x1FA && !t.flags.ie &&
      t.cs.sel == 0x50 && t.eip == 3) = true := by decide +kernel

theorem test_int3_V60_3 : runs prot [0xCC] (fun t => dword t 0x7FF4 == 0x4001 && t.eip == 0x6003) = true := by decide +kernel

theorem test_int_privilege_V60_5 : runs user [0xCD, 5]
    (fun t => t.eip == 0x600D && t.regs.esp == 0x6FE8) = true := by decide +kernel

/-- An external interrupt through an interrupt gate and through a trap gate. -/
theorem test_intr_V60_6_V60_7 :
    let s (n : Byte) : State := { prot with flags := { prot.flags with ie := true }, intr := some n, cur := .idle }
    after (step (s 8)) (fun t => dword t 0x7FFC == 0x202 && dword t 0x7FF8 == 8 && dword t 0x7FF4 == 0x4000 && !t.flags.ie) = true ∧
    after (step (s 14)) (fun t => t.flags.ie && t.eip == 0x6100) = true := by decide +kernel

theorem test_fault_inner_V60_8 : runs (withEsp user 0x8000) [0xF4]
    (fun t => t.eip == 0x600D && t.regs.esp == 0x6FE8 && t.cpl == 0 && t.ss.sel == 0x10) = true := by decide +kernel

/-- The frame of a fault without an error code on the inner stack: the same without its last push. -/
theorem test_fault_frame_V60_8 : runs (withEsp user 0x8000) [0x0F, 0x0B]
    (fun t => dword t 0x6FFC == 0x23 && dword t 0x6FF8 == 0x8000 && dword t 0x6FF4 == 0x10002 && dword t 0x6FF0 == 0x1B &&
      dword t 0x6FEC == 0x4000 && t.regs.esp == 0x6FEC) = true := by decide +kernel

/-- Delivering a double fault raises an exception: shutdown. -/
theorem test_shutdown_V60_10 : runs { prot with idtr := { prot.idtr with limit := 7 } } [0xCC]
    (fun t => t.activity == .shutdown) = true := by decide +kernel

/-- MOV SS with INTR pending, and the boundary after it. -/
theorem test_mov_ss_inhibits_V60_12 : runs { regs (fun g => { g with eax := 0x10 }) with flags := { prot.flags with ie := true } }
    [0x8E, 0xD0] (fun t => t.inhibit && ({ t with intr := some 8 }.pending == none)) = true := by decide +kernel

/-- The first instruction after RESET is fetched at FFFFFFF0H. -/
theorem test_first_fetch_S15 : after (step { State.reset with mem := cells 0xFFFFFFF0 [0xEA, 0, 0, 0, 0x10] [] })
    (fun t => t.cs.sel == 0x1000 && t.eip == 0) = true := by decide +kernel

theorem test_withFetchWord : after (step (State.reset.withFetchWord 24 0x1234B8)) (fun t => t.regs.eax == 0x1234) = true := by
  decide +kernel


/-! ## Other bus masters, regions, and the order of checks

The expected values are those of the rules named. -/

/-- What another bus master is about to write lands between the read and the write of INC (20_memory.md R125, R129), and not
under LOCK (R127). -/
theorem test_masters_R127_R129 :
    let s (lock : Bool) : State :=
      { real with masters := [[], [(0x101, 0xFF)]], cur := { real.cur with lock := lock } }
    let inc : Instr := .incEb (.mem (.ind16 .bx .none))
    after (exec inc (s false)) (fun t => word t 0x100 == 0xFF35 && t.masters == []) = true ∧
    after (exec inc (s true)) (fun t => word t 0x100 == 0x1235 && t.masters == [[(0x101, 0xFF)]]) = true := by decide +kernel

/-- A doubleword stored across the end of RAM: the bytes in ROM are dropped (20_memory.md R112). -/
theorem test_regions_R112 :
    runs { prot with plat := { prot.plat with map := [⟨0, 0x8302, .ram⟩, ⟨0x8302, 0xFFFF7CFE, .rom⟩] } } [0xA3, 0, 0x83, 0, 0]
      (fun t => dword t 0x8300 == 0x5678) = true := by decide +kernel

/-- MOV from TR0 outside level 0 (48_system.md R683; 60_exceptions.md R747). -/
theorem test_mov_tr0_R683 : runs (withEsp user 0x8000) [0x0F, 0x24, 0xC0] (fun t => t.eip == 0x6006) = true := by decide +kernel

/-- A selector of the LDT with none loaded (21_translation_protection.md R155). -/
theorem test_no_ldt_R155 : runs (regs fun g => { g with eax := 0x14 }) [0x8E, 0xD8]
    (fun t => t.eip == 0x600D) = true := by decide +kernel

/-- INT n beyond the table of real-address mode saves the offset of the INT (23_real_address_mode.md R301). -/
theorem test_int_beyond_R301 : runs { real with idtr := { real.idtr with limit := 0x3F } } [0xCD, 0x20]
    (fun t => t.eip == 8 && word t 0x1FA == 0x10) = true := by decide +kernel

/-- FF /7 whose displacement lies beyond the segment: #GP comes before #UD (30_encoding.md R315; 60_exceptions.md R747). -/
theorem test_undefined_member_R315 : runs { real with cs := { real.cs with limit := 0x12 } } [0xFF, 0x3E, 0, 0]
    (fun t => t.eip == 13) = true := by decide +kernel
/-! ## What the statements assume can be met

One theorem for each statement that has hypotheses, named after it, one part for each of its clauses. -/

theorem witness_AluBlock :
    let s : State := { real with cur := { real.cur with lock := true } }
    let f : AluForm := .ebGb (.mem (.ind16 .bx .none)) .ecx
    s.mem.wf = true ∧ (s.cur.lock = true → AluOp.add.lockable f = true) ∧ real.cur.lock = false ∧
    ([s, real].all fun s => ran (do
      let l ← locate (f.width s) f.dest AluOp.add.writes true
      let _ ← f.source (f.width s)
      modify fun u => u.lockedIf s.cur.lock
      readLoc (f.width s) l) s.entered) = true := by decide +kernel

theorem witness_ArithmeticFlags : 4 ≤ 4 := by decide

theorem witness_UnaryOperations :
    let s : State := { real with cur := { real.cur with lock := true } }
    let f : UnaryForm := .ev (.mem (.ind16 .bx .none))
    s.mem.wf = true ∧ (s.cur.lock = true → isMem f.operand = true) ∧ real.cur.lock = false ∧
    ([s, real].all fun s => ran (do
      let l ← locate (f.width s) f.operand true true
      modify fun u => u.lockedIf s.cur.lock
      readLoc (f.width s) l) s.entered) = true := by decide +kernel

theorem witness_Multiplication :
    let f : UnaryForm := .eb (.mem (.ind16 .bx .none))
    real.cur.lock = false ∧ ran (readRM (f.width real) f.operand) real.entered = true ∧ real.cr0.pg = false := by
  decide +kernel

/-- The byte at 100H, 34H, divides AX = 0678H; AX = 5678H is too large for it; CH is zero. -/
theorem witness_Division :
    let f : UnaryForm := .eb (.mem (.ind16 .bx .none))
    let s : State := { real with regs := { real.regs with eax := 0x678 } }
    let large : State := { real with regs := { real.regs with eax := 0x5678 } }
    (s.cur.lock = false ∧
      ran (do
        let d ← readRM .b8 f.operand
        ensure (decide (d ≠ 0 ∧ (0x678 : Nat) / d.toNat < 2 ^ 8))) s.entered = true ∧
      s.regs.read .b8 (highReg .b8) ++ s.regs.read .b8 .eax = 0x678#16) ∧
    (∃ q : Byte, q.toInt = (0x678#16).toInt.tdiv (0x34#8).toInt) ∧
    ran (do
      let d ← readRM .b8 f.operand
      ensure (decide (2 ^ 8 ≤ (0x5678 : Nat) / d.toNat))) large.entered = true ∧
    large.regs.read .b8 (highReg .b8) ++ large.regs.read .b8 .eax = 0x5678#16 ∧
    (¬ ∃ q : Byte, q.toInt = (0x5678#16).toInt.tdiv (0x34#8).toInt) ∧
    ran (do
      let d ← readRM .b8 (.reg .ebp)
      ensure (decide (d = 0))) real.entered = true := by
  refine ⟨by decide +kernel, ⟨0x1F, by decide⟩, by decide +kernel, by decide +kernel, ?_, by decide +kernel⟩
  rintro ⟨q, h⟩
  have := q.isLt
  simp [BitVec.toInt] at h
  omega

theorem witness_DecimalAdjustments :
    real.cur.lock = false ∧ (0x0A : Byte) ≠ 0 ∧
      (addFlags (0x79 : Byte) 0x35 false).cf = .set false ∧ (addFlags (0x79 : Byte) 0x35 false).af = .set false ∧
      (addFlags (0x99 : Byte) 0x99 true).cf = .set true ∧ (addFlags (0x99 : Byte) 0x99 true).af = .set true := by
  decide +kernel

theorem witness_TestAndSet :
    let f : TestForm := .ebGb (.mem (.ind16 .bx .none)) .ecx
    real.cur.lock = false ∧ real.mem.wf = true ∧ ran (readRM (f.width real) f.first) real.entered = true ∧
    ran (locate .b8 (.mem (.ind16 .bx .none)) true true) real.entered = true := by decide +kernel

/-- Bit 2 of the word at 100H is set; the register's bit offset 3 in memory, -16 + 2 with a negative one. -/
theorem witness_BitInstructions :
    let neg : State := { real with regs := { real.regs with ecx := 0xFFF2 } }
    real.mem.wf = true ∧
    ran (do
      let l ← locate .b16 (.mem (.ind16 .bx .none)) true true
      let a ← readLoc .b16 l
      ensure (decide (a = 0x1234))) real.entered = true ∧
    (BitOp.bts.writes = true ∧ isMem (.mem (.ind16 .bx .none)) = true) ∧
    ran (do
      let l ← locate .b16 (.mem (.ind16 .bx .none)) true true
      modify fun u => u.lockedIf true
      readLoc .b16 l) { real with cur := { real.cur with lock := true } }.entered = true ∧
    (∀ i < 16, (0x1230 : Word16).getLsbD i = if i = 2 then !(0x1234 : Word16).getLsbD i else (0x1234 : Word16).getLsbD i) ∧
    ran (do
      let l ← memLoc .b16 .ds (bitUnit .s16 .b16 (effAddr neg.regs (.ind16 .bx .none)) (neg.regs.read .b16 .ecx).toInt)
        false true
      readLoc .b16 l) neg.entered = true ∧
    ((neg.regs.read .b16 .ecx).toInt % 16).toNat = 2 ∧
    ran (readRM .b16 (.mem (.ind16 .bx .none))) real.entered = true ∧
    (∀ j < 2, (0x1234 : Word16).getLsbD j = false) ∧ (∀ j < 16, 12 < j → (0x1234 : Word16).getLsbD j = false) ∧
    ran (do
      let a ← readRM .b16 (.mem (.ind16 .bx (.d8 0x20)))
      ensure (decide (a = 0))) real.entered = true := by
  decide +kernel

/-- Counts 0, 1 and 31; a double shift of a 16-bit operand by 16 and by 17. -/
theorem witness_Shifts :
    let at_ (cl : Word32) : State := { real with regs := { real.regs with ecx := cl } }
    real.mem.wf = true ∧ real.cur.lock = false ∧
    (∀ n : Fin 32,
      let s := at_ (BitVec.ofNat 32 n.val)
      (s.regs.read .b8 .ecx).toNat % 32 = n.val ∧
      ran (do
        let l ← locate .b16 (.mem (.ind16 .bx .none)) true (n.val != 0)
        readLoc .b16 l) s.entered = true) := by decide +kernel

/-- Counts at the ends of their range, one that a byte's rotate through CF goes full circle by, and the places that a
rotate through CF moves to and from CF; a double shift of 81H and 40H by 1. -/
theorem witness_ShiftResults :
    (1 ≤ 1 ∧ 1 ≤ 31 ∧ 31 ≤ 31 ∧ 9 % (8 + 1) = 0 ∧ 27 % (8 + 1) = 0) ∧ (5 + 3) % (8 + 1) = 8 ∧ (8 + 3) % (8 + 1) = 2 ∧
    (1 ≤ 8 ∧ (2 : Byte).toNat = ((0x81 : Byte).toNat * 2 ^ 1 + (0x40 : Byte).toNat / 2 ^ (8 - 1)) % 2 ^ 8 ∧
      (0x40 : Byte).toNat = ((0x81 : Byte).toNat / 2 ^ 1 + (0x40 : Byte).toNat * 2 ^ (8 - 1)) % 2 ^ 8) := by decide

theorem witness_Move :
    let m : Mem := .ind16 .bx .none
    real.mem.wf = true ∧ real.cur.lock = false ∧ real.cr0.pg = false ∧
    ran (locate .b16 (.mem m) true true) real.entered = true ∧ ran (memLoc .b8 .ds 0x102 true true) real.entered = true ∧
    ran (readRM .b8 (.mem m)) real.entered = true ∧ ran (segRead .b16 .ds 0x102) real.entered = true ∧
    ran (segRead .b8 .ds ((real.regs.ebx + (real.regs.read .b8 .eax).setWidth 32) &&& 0xFFFF)) real.entered = true := by
  decide +kernel

theorem witness_Exchange :
    let s : State := { real with cur := { real.cur with lock := true } }
    s.mem.wf = true ∧ (s.cur.lock = true → isMem (.mem (.ind16 .bx .none)) = true) ∧ s.busLock = false ∧
    ([s, real].all fun s => ran (do
      let l ← locate .b16 (.mem (.ind16 .bx .none)) true true
      modify fun u => u.lockedIf (isMem (.mem (.ind16 .bx .none)))
      readLoc .b16 l) s.entered) = true ∧
    real.cur.lock = false := by decide +kernel

theorem witness_ConvertAndAddress : real.cur.lock = false := by decide

theorem witness_PushInstructions :
    ∀ f ∈ [PushForm.rv .esp, .ev (.mem (.ind16 .bx .none)), .iv 5, .ib 0xFF, .seg .cs, .flags16, .flags32],
      real.mem.wf = true ∧ real.cur.lock = false ∧
      ran (do
        let _ ← f.source real (f.width real)
        segResolve .ss (real.stackAt (-distOf (f.width real))) (f.width real).bytes true true) real.entered = true := by
  decide +kernel

theorem witness_PopInstructions :
    real.mem.wf = true ∧ real.cur.lock = false ∧
    ran (do
      let _ ← stackRead .b16 0
      modify fun u => (real.through u).moveSP (distOf .b16)
      locate .b16 (.mem (.ind16 .bx .none)) true true) real.entered = true ∧
    ran (stackRead .b16 0) real.entered = true ∧ ran (stackRead .b32 0) real.entered = true := by decide +kernel

/-- All eight slots of PUSHA in the stack segment, and, where SP is 7, the fourth one not. ENTER of levels 0 and 3; one
that cannot push BP, where SP is 1; one that cannot read a frame pointer, where BP is 400H and the segment ends at 300H; one
that cannot push it, and one that cannot push its own, where SP is 3. -/
theorem witness_StackFrames :
    let at_ (sp : Word32) : State := withEsp real sp
    let beyond : State := ssLimit { real with regs := { real.regs with ebp := 0x400 } } 0x300
    let enter (s : State) (m : State → M Unit) : Bool := !s.cur.lock && ran (do
      pushAllAs s.user s.opw [s.regs.read s.opw .ebp]
      let a ← get
      m a) (s.entered.partway true)
    let frame (s a : State) : M Unit := pushAllAs s.user s.opw [(a.stackAt 0).setWidth s.opw.bits]
    real.cur.lock = false ∧ real.cr0.pg = false ∧ real.mem.wf = true ∧ real.opw = .b16 ∧
    ran (do
      probePushesAs real.user .b16 8
      modify fun u => u.partway true
      pushAllAs real.user .b16 (([.eax, .ecx, .edx, .ebx, .esp, .ebp, .esi, .edi] : List Reg).map (real.regs.read .b16)))
      real.entered = true ∧
    ran (fails (probePushesAs real.user .b16 8) anyExn) (at_ 7).entered = true ∧
    ran (do
      let _ ← pop .b32; let _ ← pop .b32; let _ ← pop .b32; let _ ← pop .b32
      let _ ← pop .b32; let _ ← pop .b32; let _ ← pop .b32; pop .b32) real.entered = true ∧
    ran (fails (pushAllAs real.user .b16 [(at_ 1).regs.read .b16 .ebp]) anyExn) ((at_ 1).entered.partway true) = true ∧
    enter real (fun _ => pure ()) = true ∧ enter real (fun a => do copyDisplay real.opw (3 - 1); frame real a) = true ∧
    enter beyond (fun _ => fails (copyDisplay beyond.opw 1) anyExn) = true ∧
    enter (at_ 3) (fun _ => fails (copyDisplay real.opw 1) anyExn) = true ∧
    enter (at_ 3) (fun a => do copyDisplay real.opw 0; fails (frame (at_ 3) a) anyExn) = true ∧
    ran (stackRead .b16 0) { real.entered with regs := real.regs.setSP real.stackSize real.regs.ebp } = true := by
  decide +kernel


theorem witness_FlagControl :
    real.cur.lock = false ∧ real.cpl = 0 ∧ real.cpl ≤ real.flags.iopl ∧ user.cur.lock = false ∧ user.flags.iopl < user.cpl := by
  decide

/-- Targets inside the segment and, where CS ends at 10H, beyond it; conditions that hold and that fail; a count that
reaches 0. -/
theorem witness_Jumps :
    let small : State := { real with cs := { real.cs with limit := 0x10 } }
    let one : State := { real with regs := { real.regs with ecx := 1 } }
    let zero : State := { real with regs := { real.regs with ecx := 0 } }
    real.cur.lock = false ∧ ran (readRM .b16 (.mem (.ind16 .bx .none))) real.entered = true ∧
    (cutTarget .s16 (real.nextIp + (0x10 : Byte).signExtend 32)).toNat ≤ real.cs.limit.toNat ∧
    small.cs.limit.toNat < (cutTarget .s16 (small.nextIp + (0x10 : Byte).signExtend 32)).toNat ∧
    real.regs.read .b16 .ecx - 1 ≠ 0 ∧ one.regs.read .b16 .ecx - 1 = 0 ∧ zero.regs.read .b16 .ecx = 0 ∧
    zero.regs.read .b32 .ecx = 0 ∧ real.regs.read .b32 .ecx ≠ 0 ∧ Cond.e.holds real.flags = false ∧
    Cond.ne.holds real.flags = true := by decide +kernel

theorem witness_NearCallReturn :
    let small : State := { real with cs := { real.cs with limit := 0x1F } }
    real.mem.wf = true ∧ real.cur.lock = false ∧
    ran (do
      let v ← readRM .b16 (.mem (.ind16 .bx .none))
      ensure (decide ((cutTarget .s16 (v.setWidth 32)).toNat ≤ real.cs.limit.toNat))
      segResolve .ss (real.stackAt (-distOf .b16)) 2 true true) real.entered = true ∧
    small.cs.limit.toNat < (cutTarget .s16 (small.nextIp + relWord .s16 0x40)).toNat ∧
    ran (do
      let v ← stackRead .b16 0
      ensure (decide (v.toNat ≤ real.cs.limit.toNat) && decide (small.cs.limit.toNat < v.toNat))) real.entered = true := by
  decide +kernel

/-- A direct pair, and one through the far pointer at 100H, whose offset 1234H lies inside the segment and, where CS ends at
1FH, beyond it. CALL can push, and, where SP is 1 or 3, it cannot. -/
theorem witness_FarTransferReal :
    let small : State := { real with cs := { real.cs with limit := 0x1F } }
    real.cr0.pe = false ∧ real.cur.lock = false ∧ (cutTarget .s16 0xFFFF).toNat ≤ real.cs.limit.toNat ∧
    small.cs.limit.toNat < (cutTarget .s16 0xFFFF).toNat ∧ ran (returnPushed real real.opw) real.entered = true ∧
    real.cr0.pg = false ∧ real.mem.wf = true ∧
    ([1, 3].all fun sp => ran (fails (probePushesAs real.user .b16 2) anyExn) (withEsp real sp).entered) = true ∧
    ran (do
      let off ← segRead .b16 .ds (effAddr real.regs (.ind16 .bx .none))
      let _ ← segRead .b16 .ds (effAddr real.regs (.ind16 .bx .none) + distOf .b16)
      ensure (decide ((cutTarget .s16 (off.setWidth 32)).toNat ≤ real.cs.limit.toNat))
      ensure (decide (small.cs.limit.toNat < (cutTarget .s16 (off.setWidth 32)).toNat))
      returnPushed real real.opw) real.entered = true := by decide +kernel


theorem witness_FarPair (off : Word32) (sel : Word16) :
    FarPair real (.jmpApFar off sel) (.callApFar off sel) off sel real.entered := .inl ⟨rfl, rfl, rfl⟩

/-- Nonconforming code of the level, from level 0, and conforming code of level 0 from level 3, direct and through memory;
and each exception: a selector beyond the table, a data segment, an LDT, code of level 3 from level 0, code not present, a
stack segment of four bytes, an offset beyond the segment, and a stack whose page is absent. -/
theorem witness_FarTransferProtected :
    let ok (sel : Word16) (s : State) (d : Desc) : Bool :=
      decide (d.dpl ≤ s.cpl ∧ d.attr.conforming = true ∨ d.dpl = s.cpl ∧ rpl sel ≤ s.cpl ∧ d.attr.conforming = false)
    let room (s : State) : Bool := stackRoom true s.ss s.regs.esp s.opw 2
    let far (sel : Word16) (s : State) (p : Desc → Bool) : Bool :=
      s.cr0.pe && !s.cur.lock && !selNull sel && ran (do
        let d ← readDesc sel (gpFault sel)
        ensure (p d)) s.entered
    let other (d : Desc) : Bool := !d.attr.code && [1, 3, 4, 5, 9, 0xC].all fun t => !d.isSys t
    let goes (sel : Word16) (s : State) : Bool := far sel s (fun d => d.attr.code && d.present && ok sel s d) && room s &&
      ran (do
        let d ← readDesc sel (gpFault sel)
        ensure (decide ((cutTarget s.cur.opSize 0x5000).toNat ≤ d.limit.toNat))
        returnPushed s s.opw
        setAccessed sel d) s.entered
    let absent : State := poked prot [(0x100D, 0x1B)]
    let short : State := poked prot [(0x100E, 0x40)]
    goes 8 prot = true ∧ goes 0x50 user = true ∧ selNull 3 = true ∧
    ran (fails (readDesc 0x60 (gpFault 0x60)) anyExn) prot.entered = true ∧
    far 0x10 prot other = true ∧ far 0x48 prot other = true ∧ far 0x18 prot (fun d => d.attr.code && !ok 0x18 prot d) = true ∧
    far 8 absent (fun d => d.attr.code && ok 8 absent d && !d.present) = true ∧
    (far 8 prot (fun d => d.attr.code && ok 8 prot d && d.present) && !room (ssLimit prot 3)) = true ∧
    (far 8 short (fun d => d.attr.code && ok 8 short d && d.present && decide (d.limit.toNat < 0x10000)) && room short) = true ∧
    (room (withPages prot) && ran (do
      let d ← readDesc 8 (gpFault 8)
      ensure (d.attr.code && ok 8 (withPages prot) d && d.present)
      fails (probePushesAs (withPages prot).user .b32 2) anyExn) (withPages prot).entered) = true ∧
    ran (do
      let _ ← segRead .b32 .ds (effAddr prot.regs (.ind32 .ebx .none))
      segRead .b16 .ds (effAddr prot.regs (.ind32 .ebx .none) + distOf .b32)) prot.entered = true := by decide +kernel

/-- The gate 40H, which copies one parameter. -/
def gate40 (s : State) (m : Desc → M Unit) : Bool :=
  s.cr0.pe && !s.cur.lock && !selNull 0x43 && ran (do
    let g ← readDesc 0x43 (gpFault 0x43)
    ensure (!g.attr.code && g.isSys 0xC)
    m g) s.entered

/-- The same gate, its own checks passed. -/
def target40 (s : State) (p : Desc → Desc → Bool) (m : Desc → Desc → M Unit) : Bool := gate40 s fun g => do
  let c ← (gateTargetCheck 0x43 g s.cpl).run
  ensure (p g c)
  m g c

/-- Each check of the gate and of its target: a DPL below CPL, below the RPL, not present, a null selector, one beyond the
table, one of data. -/
theorem witness_CallGates_target :
    ([poked user [(0x1045, 0x8C)], poked prot [(0x1045, 0x8C)], poked user [(0x1045, 0x6C)], poked user [(0x1042, 0)],
      poked user [(0x1042, 0x60)], poked user [(0x1042, 0x10)]].all fun s =>
        gate40 s fun g => fails (gateTargetCheck 0x43 g s.cpl).run anyExn) = true := by decide +kernel

/-- From level 0, and from level 3 to conforming code, at the same level. The target may be code of level 3, which level 0
cannot call, or not present; a stack segment may have no room, the page of a slot may be absent, and the gate's offset may
lie beyond the segment. -/
theorem witness_CallGates :
    let ok (s : State) (c : Desc) : Bool := c.attr.conforming && decide (c.dpl ≤ s.cpl) || !c.attr.conforming && c.dpl == s.cpl
    let inner (s : State) (c : Desc) : Bool := !c.attr.conforming && decide (c.dpl < s.cpl)
    let inside (g c : Desc) : Bool := decide (g.gateOff.toNat ≤ c.limit.toNat)
    let room (s : State) : Bool := stackRoom true s.ss s.regs.esp .b32 2
    let conforming : State := poked user [(0x1042, 0x50)]
    let outer : State := poked prot [(0x1042, 0x18)]
    let absent (s : State) : State := poked s [(0x100D, 0x1B)]
    let beyond : State := poked prot [(0x100E, 0x40), (0x1046, 1)]
    let none_ : Desc → Desc → M Unit := fun _ _ => pure ()
    target40 outer (fun _ c => !ok outer c && !inner outer c) none_ = true ∧
    target40 user (fun _ c => !ok user c && inner user c) none_ = true ∧
    target40 (absent prot) (fun _ c => !c.present && ok prot c) none_ = true ∧
    target40 (absent user) (fun _ c => !c.present && inner user c) none_ = true ∧
    ([prot, conforming].all fun s => room s && !s.cr0.pg && s.mem.wf &&
      target40 s (fun g c => c.present && ok s c && inside g c) fun g c => do
        returnPushed s .b32
        setAccessed g.gateSel c) = true ∧
    (target40 prot (fun _ c => c.present && ok prot c) none_ && !room (ssLimit prot 3)) = true ∧
    (target40 beyond (fun g c => c.present && ok prot c && !inside g c) none_ && room beyond) = true ∧
    (room (withPages prot) && target40 (withPages prot) (fun g c => c.present && ok prot c && inside g c) fun _ _ =>
      fails (probePushesAs (withPages prot).user .b32 2) anyExn) = true := by decide +kernel

/-- The stack for level 0 that the TSS names, through the gate from level 3: found; with an entry beyond the limit of the
TSS; each check of its selector: null, beyond the table, RPL 3, DPL 3, code, not present; without room; an offset beyond
the segment; and, with no parameter, its page absent. -/
theorem witness_CallGates_inner :
    let inside (g c : Desc) : Bool := decide (g.gateOff.toNat ≤ c.limit.toNat)
    let inner (s : State) (m : Desc → Desc → M Unit) : Bool :=
      target40 s (fun _ c => c.present && !c.attr.conforming && decide (c.dpl < s.cpl)) m
    let room (g d : Desc) (nss : Word16) (nesp : Word32) : Bool := stackRoom true (d.seg nss) nesp .b32 (4 + g.gateCount)
    let pushes (s : State) (m : Bool → Word32 → List Word32 → M Unit) : M Unit := do
      let g ← readDesc 0x43 (gpFault 0x43)
      let c ← readDesc 8 (gpFault 8)
      let (nss, nesp, d) ← innerStack c.dpl
      ensure (room g d nss nesp && inside g c)
      let params ← readParams g.gateCount 0
      ensure (params.length == g.gateCount)
      setAccessed nss d
      modify fun u => { u with ss := d.seg nss, regs := { s.regs with esp := nesp }, cpl := c.dpl }.partway true
      m false nesp ([s.ss.sel.setWidth 32, s.regs.esp] ++ (params.reverse ++ [s.cs.sel.setWidth 32, s.nextIp]))
      setAccessed g.gateSel c
    let paged : State := withPages (poked user [(0x1044, 0)])
    let short : State := { user with tr := { user.tr with limit := 8 } }
    inner user (fun _ _ => do set user.entered; pushes user fun l _ vs => pushAllAs l .b32 vs) = true ∧
    user.cr0.pg = false ∧ user.mem.wf = true ∧
    (inner short (fun _ _ => pure ()) && decide (short.tr.limit.toNat < (4 + 8 * (0 : BitVec 2).setWidth 32 : Word32).toNat + 5))
      = true ∧
    ([poked user [(0x2008, 0)], poked user [(0x2008, 0x60)], poked user [(0x2008, 0x13)], poked user [(0x2008, 0x20)],
      poked user [(0x2008, 8)], poked user [(0x1015, 0x13)]].all fun s => inner s fun _ c => do
        let _ ← linRead .b32 (s.tr.base + (4 + 8 * c.dpl.setWidth 32)) false
        let nss ← linRead .b16 (s.tr.base + (4 + 8 * c.dpl.setWidth 32) + 4) false
        fails (innerStackCheck nss c.dpl).run anyExn) = true ∧
    inner (poked user [(0x1016, 0x40), (0x2004, 4), (0x2005, 0)]) (fun g c => do
      let (nss, nesp, d) ← innerStack c.dpl
      ensure (!room g d nss nesp)) = true ∧
    inner (poked user [(0x100E, 0x40), (0x1046, 1)]) (fun g c => do
      let (nss, nesp, d) ← innerStack c.dpl
      ensure (room g d nss nesp && !inside g c)) = true ∧
    inner paged (fun _ _ => do
      set paged.entered
      pushes paged fun l _ vs => fails (pushAllAs l .b32 vs) anyExn) = true := by decide +kernel


/-- Each check of the code selector of a return: null, an RPL below CPL, beyond the table, data, code of another level and
conforming code of a level outside, and not present. -/
def returnCodeFails (f : State → Word16 → Bool) : Bool :=
  f prot 0 && f user 8 && f prot 0x60 && f prot 0x10 && f prot 0x18 && f (poked prot [(0x1055, 0xFF)]) 0x50 &&
    f (poked prot [(0x100D, 0x1B)]) 8

/-- Each check of the stack selector of a return to level 3: null, beyond the table, code, DPL 0, RPL 0, not present. -/
def returnStackFails (f : State → Word16 → Bool) : Bool :=
  f prot 3 && f prot 0x63 && f prot 0x1B && f prot 0x13 && f prot 0x20 && f (poked prot [(0x1025, 0x73)]) 0x23

/-- Frames to the same level and to level 3; a stack segment that ends after or inside the first half of the frame; an offset
beyond the code segment; and each check of the two selectors, those of the code selector in a frame at 8100H and those of
the stack selector in one at 8000H. -/
theorem witness_FarReturn :
    let inner : State := prot
    let same : State := withEsp prot 0x8100
    let frame (s : State) (m : Word32 → Word16 → M Unit) : Bool :=
      !s.cur.lock && s.cr0.pe && stackHolds s 0 .b32 2 && ran (do
        let ip ← stackRead .b32 0
        let sel ← stackRead .b16 (distOf .b32)
        m ip sel) s.entered
    let code (s : State) (p : Word32 → Word16 → Desc → Bool) (m : Word16 → Desc → M Unit) : Bool := frame s fun ip sel => do
      let c ← (returnCodeCheck sel s.cpl).run
      ensure (p ip sel c)
      m sel c
    let outer (s : State) (extra : Word32) (p : Word32 → Desc → Bool) (m : Word16 → Word16 → Desc → M Unit) : Bool :=
      stackHolds s (2 * distOf .b32 + extra) .b32 2 && code s (fun ip sel c => decide (s.cpl < rpl sel) && p ip c) fun sel c => do
        let _ ← stackRead .b32 (2 * distOf .b32 + extra)
        let nss ← stackRead .b16 (3 * distOf .b32 + extra)
        m sel nss c
    let at_ (s : State) (a : Nat) (sel : Word16) : State :=
      poked s [(a, sel.extractLsb' 0 8), (a + 1, sel.extractLsb' 8 8)]
    let small : State := { real with cs := { real.cs with limit := 0x1F } }
    (real.cur.lock = false ∧ real.cr0.pe = false ∧ ran (do
      let ip ← pop .b16
      let _ ← pop .b16
      ensure (decide ((ip.setWidth 32 : Word32).toNat ≤ real.cs.limit.toNat))
      ensure (decide (small.cs.limit.toNat < (ip.setWidth 32 : Word32).toNat))) real.entered = true) ∧
    stackHolds (ssLimit same 0x8103) 0 .b32 2 = false ∧
    returnCodeFails (fun s sel => frame (at_ (withEsp s 0x8100) 0x8104 sel) fun _ sel => fails (returnCodeCheck sel s.cpl).run anyExn)
      = true ∧
    code same (fun ip sel c => rpl sel == same.cpl && decide (ip.toNat ≤ c.limit.toNat)) setAccessed = true ∧
    code (poked same [(0x1009, 0x10), (0x100E, 0x40)]) (fun ip sel c => rpl sel == same.cpl && decide (c.limit.toNat < ip.toNat))
      (fun _ _ => pure ()) = true ∧
    (code (ssLimit inner 0x8007) (fun _ sel _ => decide (inner.cpl < rpl sel)) (fun _ _ => pure ()) &&
      !stackHolds (ssLimit inner 0x8007) (2 * distOf .b32 + 4) .b32 2) = true ∧
    outer inner 4 (fun ip c => decide (ip.toNat ≤ c.limit.toNat)) (fun sel nss c => do
      let d ← (returnStackCheck nss (rpl sel)).run
      setAccessed sel c
      modify fun b => { b with cs := c.seg sel, cpl := rpl sel }.jumped 0x5678
      setAccessed nss d) = true ∧
    outer (poked inner [(0x1019, 0x10), (0x101E, 0x40)]) 4 (fun ip c => decide (c.limit.toNat < ip.toNat)) (fun sel nss _ => do
      let _ ← (returnStackCheck nss (rpl sel)).run
      pure ()) = true ∧
    returnStackFails (fun s sel => outer (at_ s 0x8010 sel) 4 (fun _ _ => true) fun sel nss _ =>
      fails (returnStackCheck nss (rpl sel)).run anyExn) = true := by decide +kernel

/-- Exception 15 from outside, with room for its pushes and, where SP is 1, 3 or 5, without; an entry beyond the table; frames
of words and of doublewords. -/
theorem witness_RealModeInterrupts :
    let e : Event := { vec := 15, src := .ext, ret := 0x1234, code := .none, rf := false }
    let short : State := { real with idtr := { real.idtr with limit := 0x3E } }
    let values : List Word16 := [low16 real.flags.image, real.cs.sel, low16 e.ret]
    real.cr0.pe = false ∧ real.cur.lock = false ∧ real.cur.committed = false ∧ real.cur.partway = false ∧
    real.cr0.pg = false ∧ real.mem.wf = true ∧
    e.vec.toNat * 4 + 3 ≤ real.idtr.limit.toNat ∧ (short.cr0.pe = false ∧ short.idtr.limit.toNat < e.vec.toNat * 4 + 3) ∧
    ([1, 3, 5].all fun sp => ran (fails (pushAllAs false .b16 values) anyExn) (withEsp real sp)) = true ∧
    ran (do
      pushAllAs false .b16 values
      modify fun c => { c with flags := { real.flags with ie := false, tf := false, rf := false } }
      let _ ← linRead .b16 (real.idtr.base + 4 * e.vec.setWidth 32) false
      linRead .b16 (real.idtr.base + 4 * e.vec.setWidth 32 + 2) false) real = true ∧
    ran (do
      let ip ← pop .b16
      let _ ← pop .b16
      let _ ← pop .b16
      ensure (decide ((ip.setWidth 32 : Word32).toNat ≤ real.cs.limit.toNat))) real.entered = true ∧
    ran (do
      let ip ← pop .b32
      let _ ← pop .b32
      let _ ← pop .b32
      ensure (decide ((ip.setWidth 32 : Word32).toNat ≤ 0x400020))) real.entered = true := by decide +kernel


/-- The bounds at 8200H are 5678H and 10H in turn, so that no index is inside; at 100H, as words, 1234H and 40H; at 102H
40H and 201H. -/
theorem witness_SoftwareInterrupts :
    let over_ : State := { real with flags := { real.flags with ov := true } }
    let event (n : Byte) : Event := { vec := n, src := .soft, ret := real.nextIp, code := .none, rf := false }
    let index (v : Word32) : State := { real with regs := { real.regs with eax := v } }
    let bounds (s : State) (p : Int → Int → Int → Bool) : Prop :=
      ran (do
        let lo ← segRead .b16 .ds (effAddr s.regs (.ind16 .bx (.d8 2)))
        let hi ← segRead .b16 .ds (effAddr s.regs (.ind16 .bx (.d8 2)) + distOf .b16)
        ensure (p lo.toInt hi.toInt (s.regs.read .b16 .eax).toInt)) s.entered = true
    real.cur.lock = false ∧ real.flags.ov = false ∧ over_.flags.ov = true ∧
    ([3, 4, 15].all fun n => ran (deliver (event n)) real.entered) = true ∧ ran (deliver (event 4)) over_.entered = true ∧
    bounds (index 0x40) (fun lo hi x => decide (lo ≤ x ∧ x ≤ hi)) ∧ bounds (index 0x201) (fun lo hi x => decide (lo ≤ x ∧ x ≤ hi)) ∧
    bounds (index 0x3F) (fun lo _ x => decide (x < lo)) ∧ bounds (index 0x202) (fun _ hi x => decide (hi < x)) := by
  decide +kernel

/-- An event through a gate to code, the gate's checks and those of its target passed. -/
def gated (s : State) (e : Event) (m : Desc → Desc → M Unit) : Bool :=
  s.cr0.pe && !s.cur.committed && !s.cur.partway && decide (e.vec.toNat * 8 + 7 ≤ s.idtr.limit.toNat) && ran (do
    let g ← readPair (s.idtr.base + 8 * e.vec.setWidth 32)
    ensure ((g.isSys 0xE || g.isSys 0xF) && (e.src != .soft || decide (s.cpl ≤ g.dpl)) && g.present && !selNull g.gateSel)
    let c ← readDesc g.gateSel (gpFault g.gateSel)
    ensure (c.attr.code && c.present)
    m g c) s

/-- The error code of an event pushed, if it has one. -/
def codePushed (e : Event) : M Unit :=
  if e.code.pushes then do
    modify fun s => { s with free := s.free + 1 }
    pushAllAs false .b32 [errImage e.code (Config.freeValue 0)]
  else pure ()

/-- INT 14 through a trap gate. -/
def int14 : Event := { vec := 14, src := .soft, ret := 0x4003, code := .none, rf := false }

/-- INT 3 through an interrupt gate. -/
def int3 : Event := { vec := 3, src := .soft, ret := 0x4003, code := .none, rf := false }

/-- Exception 13, with an error code, through an interrupt gate. -/
def exn13 : Event := { vec := 13, src := .exc, ret := 0x4000, code := .sel 0x40, rf := true }

/-- A software interrupt from level 0 through a trap gate, and exception 13 with an error code through an interrupt gate; a
stack segment without room, an offset beyond the handler's segment, and a stack whose page is absent. -/
theorem witness_GateDeliverySameLevel :
    let same (s : State) (e : Event) (m : Desc → Desc → M Unit) : Bool := gated s e fun g c => do
      ensure (decide (c.dpl ≤ s.cpl) && (c.attr.conforming || c.dpl == s.cpl))
      m g c
    let k (e : Event) : Nat := if e.code.pushes then 4 else 3
    let room (s : State) (e : Event) : Bool := stackRoom true s.ss s.regs.esp .b32 (k e)
    let inside (g c : Desc) : Bool := decide (g.gateOff.toNat ≤ c.limit.toNat)
    let beyond : State := poked prot [(0x100E, 0x40), (0x186E, 1), (0x1876, 1)]
    prot.cr0.pg = false ∧ prot.mem.wf = true ∧
    ([int14, exn13].all fun e =>
      same prot e (fun g c => do
        ensure (room prot e && inside g c)
        probePushesAs false .b32 (k e)
        pushAllAs false .b32 [({ prot.flags with rf := e.rf }).image, prot.cs.sel.setWidth 32, e.ret]
        codePushed e
        setAccessed g.gateSel c) &&
      same (ssLimit prot 3) e (fun _ _ => ensure (!room (ssLimit prot 3) e)) &&
      same beyond e (fun g c => ensure (room beyond e && !inside g c)) &&
      same (withPages prot) e (fun g c => do
        ensure (room (withPages prot) e && inside g c)
        fails (probePushesAs false .b32 (k e)) anyExn)) = true := by decide +kernel


/-- The same from level 3 to the stack for level 0; the checks of that stack, no room on it, an offset beyond the handler's
segment, and a stack whose page is absent. -/
theorem witness_GateDeliveryInner :
    let inner (s : State) (e : Event) (m : Desc → Desc → M Unit) : Bool := gated s e fun g c => do
      ensure (decide (c.dpl < s.cpl) && !c.attr.conforming)
      m g c
    let room (e : Event) (d : Desc) (nss : Word16) (nesp : Word32) : Bool :=
      stackRoom true (d.seg nss) nesp .b32 (if e.code.pushes then 6 else 5)
    let inside (g c : Desc) : Bool := decide (g.gateOff.toNat ≤ c.limit.toNat)
    let pushes (s : State) (e : Event) (m : List Word32 → M Unit) (g c : Desc) : M Unit := do
      let (nss, nesp, d) ← innerStack c.dpl
      ensure (room e d nss nesp && inside g c)
      setAccessed nss d
      modify fun u => { u with ss := d.seg nss, regs := { s.regs with esp := nesp }, cpl := c.dpl }.partway true
      m [s.ss.sel.setWidth 32, s.regs.esp, ({ s.flags with rf := e.rf }).image, s.cs.sel.setWidth 32, e.ret]
      codePushed e
      setAccessed g.gateSel c
    let short : State := { user with tr := { user.tr with limit := 8 } }
    let paged : State := withPages user
    user.cr0.pg = false ∧ user.mem.wf = true ∧
    short.tr.limit.toNat < (4 + 8 * (0 : BitVec 2).setWidth 32 : Word32).toNat + 5 ∧
    ([int3, exn13].all fun e =>
      inner user e (pushes user e fun vs => pushAllAs false .b32 vs) && inner short e (fun _ _ => pure ()) &&
      ([poked user [(0x2008, 0)], poked user [(0x2008, 0x60)], poked user [(0x2008, 0x13)], poked user [(0x2008, 0x20)],
        poked user [(0x2008, 8)], poked user [(0x1015, 0x13)]].all fun s => inner s e fun _ c => do
          let _ ← linRead .b32 (s.tr.base + (4 + 8 * c.dpl.setWidth 32)) false
          let nss ← linRead .b16 (s.tr.base + (4 + 8 * c.dpl.setWidth 32) + 4) false
          fails (innerStackCheck nss c.dpl).run anyExn) &&
      inner (poked user [(0x1016, 0x40), (0x2004, 4), (0x2005, 0)]) e (fun _ c => do
        let (nss, nesp, d) ← innerStack c.dpl
        ensure (!room e d nss nesp)) &&
      inner (poked user [(0x100E, 0x40), (0x186E, 1), (0x181E, 1)]) e (fun g c => do
        let (nss, nesp, d) ← innerStack c.dpl
        ensure (room e d nss nesp && !inside g c)) &&
      inner paged e (fun g c => do
        let (nss, nesp, d) ← innerStack c.dpl
        ensure (room e d nss nesp && inside g c)
        setAccessed nss d
        modify fun u => { u with ss := d.seg nss, regs := { paged.regs with esp := nesp }, cpl := c.dpl }.partway true
        fails (pushAllAs false .b32 [paged.ss.sel.setWidth 32, paged.regs.esp, ({ paged.flags with rf := e.rf }).image,
          paged.cs.sel.setWidth 32, e.ret]) anyExn)) = true := by decide +kernel


/-- Beyond the table; gates of 80286 format; no gate, of S = 1 and type 6 too; a gate of level 0 from level 3; one not present. -/
theorem witness_DeliveryChecks :
    let entry (s : State) (n : Byte) (p : Desc → Bool) : Prop :=
      s.cr0.pe = true ∧ n.toNat * 8 + 7 ≤ s.idtr.limit.toNat ∧
      ran (do
        let g ← readPair (s.idtr.base + 8 * n.setWidth 32)
        ensure (!g.isSys 6 && !g.isSys 7 && p g)) s = true
    prot.cr0.pe = true ∧ prot.idtr.limit.toNat < (18 : Byte).toNat * 8 + 7 ∧
    ([6, 7].all fun type => ran (do
      let g ← readPair (prot.idtr.base + 8 * (16 : Byte).setWidth 32)
      ensure (g.isSys 6 || g.isSys 7)) (poked prot [(0x1885, 0x80 + type)])) = true ∧
    entry (poked prot [(0x1885, 0x96)]) 16 (fun g => g.type == 6 && !g.isSys 5 && !g.isSys 0xE && !g.isSys 0xF) ∧
    entry prot 16 (fun g => !g.isSys 5 && !g.isSys 0xE && !g.isSys 0xF) ∧
    entry user 13 (fun g => g.isSys 0xE && decide (g.dpl < user.cpl)) ∧
    entry user 15 (fun g => g.isSys 0xE && decide (user.cpl ≤ g.dpl) && !g.present) ∧
    ([poked prot [(0x186A, 0)], poked prot [(0x186A, 0x60)], poked prot [(0x186A, 0x10)], poked prot [(0x186A, 0x18)],
      poked prot [(0x100D, 0x1B)]].all fun s => ran (do
        let g ← readPair (s.idtr.base + 8 * (13 : Byte).setWidth 32)
        ensure (g.isSys 0xE && g.present)
        let target : Check := {
          before := [(!selNull g.gateSel, gp0)]
          sel := g.gateSel
          beyond := gpFault g.gateSel
          tests := fun c => [(c.attr.code, gpFault g.gateSel), (decide (c.dpl ≤ s.cpl), gpFault g.gateSel),
            (c.present, npFault g.gateSel)] }
        fails target.run anyExn) s) = true := by decide +kernel

/-- Page faults, contributory and benign exceptions raised in delivering exceptions 13, 14, 6 and 8: the table holds 1 entry.
A page fault raised part-way through the pushes on the inner stack; an exception raised past the commit point of a task
switch, in delivering exceptions 8, 13 and 17 through task gates; and an exception in real-address mode. -/
theorem witness_DoubleFault :
    let short : State := { prot with idtr := { prot.idtr with limit := 7 } }
    let none_ : State := { real with idtr := { real.idtr with limit := 3 } }
    let e (n : Byte) : Event := { vec := n, src := .exc, ret := 0x4000, code := .none, rf := true }
    let raises (s : State) (e : Event) (p : Exn → Bool) (part : Bool) : Bool :=
      !s.cur.committed && !s.cur.partway && ran (fails (deliverOnce e) fun x t => p x && !t.cur.committed && t.cur.partway == part) s
    let committed (off : Nat) (e : Event) (p : Exn → Bool) : Bool :=
      ran (fails (deliverOnce e) fun x t => p x && t.cur.committed)
        (poked prot [(0x1802 + off, 0x30), (0x1805 + off, 0xE5), (0x2160, 0x4C)])
    raises short (e 8) (fun _ => true) false = true ∧
    raises short (e 13) (fun x => doubleFault (e 13).cls x.cls) false = true ∧
    raises short (e 14) (fun x => doubleFault (e 14).cls x.cls) false = true ∧
    raises short (e 6) (fun x => !doubleFault (e 6).cls x.cls) false = true ∧
    raises (withPages user) (e 8) (fun _ => true) true = true ∧
    raises (withPages user) (e 13) (fun x => !doubleFault (e 13).cls x.cls) true = true ∧
    committed 0x40 (e 8) (fun _ => true) = true ∧ committed 0x68 (e 13) (fun x => doubleFault (e 13).cls x.cls) = true ∧
    committed 0x88 (e 17) (fun x => !doubleFault (e 17).cls x.cls) = true ∧
    raises none_ { e 3 with src := .soft } (fun x => !doubleFault .benign x.cls) false = true := by decide +kernel

/-- An exception in protected and in real-address mode, and one that keeps the registers changed so far; a sixteenth byte,
an offset beyond CS, a page that is not present; bytes that are no instruction; a prefix and an instruction. -/
theorem witness_FaultIsTaken :
    let event (s : State) (x : Exn) : Event := { vec := x.vec, src := .exc, ret := s.cur.start, code := x.code, rf := true }
    let at_ (n : Word32) : State := { real with cur := { real.cur with next := n } }
    let refused (bytes : List Byte) : Option DecodeStop := match decode .s16 .s16 bytes with
      | .ok _ => none
      | .error e => some e
    let fetches (b : Byte) : State := { at_ 0x10 with mem := [(0x410, b)] }
    let absent : State := { State.reset with cr0 := { State.reset.cr0 with pe := true, pg := true }, cr3 := 0x10000 }
    (prot.cur.committed = false ∧ prot.cur.partway = false ∧
      ran (deliver (event prot gp0)) { prot.rollback prot.entered with cur := { prot.cur with incomplete := true } } = true) ∧
    (real.cur.committed = false ∧
      ran (deliver (event real ud)) { real.rollback real.entered with cur := { real.cur with incomplete := true } } = true) ∧
    ran (deliver (event prot gp0)) { prot with cur := { prot.cur with partway := false, incomplete := true } } = true ∧
    ran (deliver { event prot gp0 with ret := prot.eip }) { prot with cur := { prot.cur with committed := false, incomplete := true } }
      = true ∧
    (15 ≤ ((at_ 0x1F).cur.next - (at_ 0x1F).cur.start).toNat ∧ ((at_ 0x1E).cur.next - (at_ 0x1E).cur.start).toNat < 15) ∧
    (0x1D : Nat) < (at_ 0x1E).cur.next.toNat ∧ (at_ 0x1E).cur.next.toNat ≤ real.cs.limit.toNat ∧
    ran (fails (linResolve (absent.cs.base + absent.cur.next) 1 false absent.user true) anyExn) absent = true ∧
    refused [0x0F, 0xFF] = some .undefinedOpcode ∧ refused [0x8D, 0xC0] = some .registerForm ∧ refused [] = some .more ∧
    ran (fails fetchByte anyExn) (at_ 0x1F) = true ∧ ran fetchByte (fetches 0x90) = true ∧
    ran (fails (fetchMore 16 []) anyExn) (at_ 0x1F) = true ∧
    ran (do
      let p ← fetchMore 16 []
      let t ← get
      ensure (isPrefix p && after (exec p t) fun _ => true)) (fetches 0x66) = true ∧
    ran (do
      let i ← fetchMore 16 []
      ensure (!isPrefix i)) (fetches 0x90) = true ∧
    (real.absorb.flags.vm = false ∧ real.absorb.pending = none ∧ real.absorb.activity = .running) := by decide +kernel

theorem witness_PrivilegedInstructions : user.cpl ≠ 0 ∧ user.cur.lock = false ∧ user.cr0.pe = true := by decide

theorem witness_InvalidOpcodes :
    let locked : State := { real with cur := { real.cur with lock := true } }
    real.cr0.pe = false ∧ real.cur.lock = false ∧ real.cur.committed = false ∧
    ran (deliver { vec := 6, src := .exc, ret := real.cur.start, code := .none, rf := true })
      { real with cur := { real.cur with incomplete := true } } = true ∧
    locked.cur.lock = true ∧ isPrefix .nop = false ∧ real.cur.partway = false ∧
    ((4 : Byte).toNat ∉ [0x00, 0x01, 0x02, 0x03, 0x06] ∧ ¬ (0x80 ≤ (4 : Byte).toNat ∧ (4 : Byte).toNat ≤ 0x9F)) ∧
    (6 ≤ (List.replicate 6 (0 : Byte)).length ∧ 6 ≤ ((0xF8 : Byte).extractLsb' 3 3).toNat ∧
      ((0xF8 : Byte).extractLsb' 3 3).toNat = 7 ∧ ((0xF0 : Byte).extractLsb' 3 3).toNat = 6 ∧
      ((0xC8 : Byte).extractLsb' 3 3).toNat = 1 ∧ ((0xE8 : Byte).extractLsb' 3 3).toNat = 5 ∧
      ((0xD8 : Byte).extractLsb' 3 3).toNat = 3 ∧ (0xC8 : Byte).extractLsb' 6 2 = 3) := by decide +kernel

/-- No operation that takes a LOCK prefix is NOP. -/
theorem witness_InvalidOpcodes_form :
    ¬ ((∃ (op : AluOp) (f : AluForm), Instr.nop = op.instr f ∧ op.lockable f = true) ∨
       (∃ (op : UnaryOp) (f : UnaryForm), Instr.nop = op.instr f ∧ isMem f.operand = true) ∨
       (∃ m, Instr.nop = .notEb (.mem m) ∨ Instr.nop = .notEv (.mem m)) ∨
       (∃ m r, Instr.nop = .xchgEbGb (.mem m) r ∨ Instr.nop = .xchgEvGv (.mem m) r) ∨
       (∃ (op : BitOp) (m : Mem), op.writes = true ∧
         ((∃ r, Instr.nop = op.byReg (.mem m) r) ∨ ∃ v, Instr.nop = op.byImm (.mem m) v))) := by
  rintro (⟨op, f, h, -⟩ | ⟨op, f, h, -⟩ | ⟨m, h | h⟩ | ⟨m, r, h | h⟩ | ⟨op, m, -, ⟨r, h⟩ | ⟨v, h⟩⟩)
  · cases f <;> cases op <;> cases h
  · cases op <;> cases f <;> cases h
  all_goals first | cases h | (cases op <;> cases h)

/-- Frames to the same level and to level 3; each stop: VM set in the image, an offset beyond the code segment, a stack segment
that ends inside the frame, and each check of the two selectors. -/
theorem witness_InterruptReturnProtected :
    let same : State := withEsp prot 0x8100
    let n := distOf .b32
    let frame (s : State) (m : Word32 → Word16 → M Unit) : Bool :=
      s.cr0.pe && !s.flags.nt && !s.cur.lock && stackHolds s 0 .b32 3 && ran (do
        let ip ← stackRead .b32 0
        let sel ← stackRead .b16 n
        let fl ← stackRead .b32 (2 * n)
        ensure (!fl.getLsbD 17)
        m ip sel) s.entered
    let code (s : State) (p : Word32 → Word16 → Desc → Bool) (m : Word16 → Desc → M Unit) : Bool := frame s fun ip sel => do
      let c ← (returnCodeCheck sel s.cpl).run
      ensure (p ip sel c)
      m sel c
    let outer (s : State) (p : Word32 → Desc → Bool) (m : Word16 → Word16 → Desc → M Unit) : Bool :=
      stackHolds s 0 .b32 5 && code s (fun ip sel c => decide (s.cpl < rpl sel) && p ip c) fun sel c => do
        let _ ← stackRead .b32 (3 * n)
        let nss ← stackRead .b16 (4 * n)
        m sel nss c
    let at_ (s : State) (a : Nat) (sel : Word16) : State :=
      poked s [(a, sel.extractLsb' 0 8), (a + 1, sel.extractLsb' 8 8)]
    stackHolds (ssLimit prot 0x8003) 0 .b32 3 = false ∧
    ran (do
      let _ ← stackRead .b32 0
      let _ ← stackRead .b16 n
      let fl ← stackRead .b32 (2 * n)
      ensure (fl.getLsbD 17)) (poked prot [(0x800A, 2)]).entered = true ∧ prot.cpl = 0 ∧
    returnCodeFails (fun s sel => frame (at_ (withEsp s 0x8100) 0x8104 sel) fun _ sel => fails (returnCodeCheck sel s.cpl).run anyExn)
      = true ∧
    code (poked same [(0x1009, 0x10), (0x100E, 0x40)]) (fun ip sel c => rpl sel == same.cpl && decide (c.limit.toNat < ip.toNat))
      (fun _ _ => pure ()) = true ∧
    code same (fun ip sel c => rpl sel == same.cpl && decide (ip.toNat ≤ c.limit.toNat)) setAccessed = true ∧
    (code (ssLimit prot 0x800B) (fun _ sel _ => decide (prot.cpl < rpl sel)) (fun _ _ => pure ()) &&
      !stackHolds (ssLimit prot 0x800B) 0 .b32 5) = true ∧
    returnStackFails (fun s sel => outer (at_ s 0x8010 sel) (fun _ _ => true) fun sel nss _ =>
      fails (returnStackCheck nss (rpl sel)).run anyExn) = true ∧
    outer (poked prot [(0x1019, 0x10), (0x101E, 0x40)]) (fun ip c => decide (c.limit.toNat < ip.toNat)) (fun sel nss _ => do
      let _ ← (returnStackCheck nss (rpl sel)).run
      pure ()) = true ∧
    outer prot (fun ip c => decide (ip.toNat ≤ c.limit.toNat)) (fun sel nss c => do
      let d ← (returnStackCheck nss (rpl sel)).run
      setAccessed sel c
      modify fun b => { b with cs := c.seg sel, cpl := rpl sel }.jumped 0x5678
      setAccessed nss d) = true := by decide +kernel

/-- DS of level 0 at level 3; of level 3; and one that holds nothing. -/
theorem witness_OuterReturnNulls :
    let outer : State := { prot with cpl := 3, es := flat 0x23 false 3, fs := { prot.fs with valid := false } }
    ((outer.seg .ds).valid = true ∧ (outer.seg .ds).attr.conforming = false ∧ (outer.seg .ds).attr.dpl < outer.cpl) ∧
    outer.cpl ≤ (outer.seg .es).attr.dpl ∧ (outer.seg .fs).valid = false := by decide

/-- The outgoing task saved in its TSS and TR changed, as `TaskSaved` says. -/
def saved (sel : Word16) (k : TaskKind) (ret : Word32) (s : State) (d : Desc) : M Unit := do
  let image := s.tssImage ret (if k = .iret then { s.flags with nt := false } else s.flags)
  if k = .jmp ∨ k = .iret then probeBusy s.tr.sel
  probeFields s.tr.base savedOffsets
  if k = .jmp ∨ k = .iret then clearBusy s.tr.sel
  writeFields s.tr.base image
  modify fun u => { u with tr := { sel := sel, base := d.base, limit := d.limit, type := 0xB },
                           cur := { s.cur with committed := true, keepRf := true } }

/-- A switch up to the incoming task's registers, and then the action. -/
def switched (sel : Word16) (k : TaskKind) (s : State) (m : Desc → (Nat → Word32) → M Unit) : Bool := ran (do
  let d ← (tssCheck sel k).run
  saved sel k 0x4003 s d
  if k ≠ .iret then setBusy sel (if k = .iret then tsFault sel else gpFault sel)
  modify fun u => { u with cr0 := { s.cr0 with ts := true } }
  let img ← readFields d.base tssOffsets
  if k = .call ∨ k = .int then linWrite .b16 d.base s.tr.sel false
  ensure (!(img.getD 1 0).getLsbD 17)
  modify fun u => u.incoming k fun i => img.getD i 0
  m d fun i => img.getD i 0) s

/-- A machine in protected mode with few bytes in memory: level 0 code and data, the TSS 28H in use, 30H available and 38H
busy, both at 2F9CH so that the T bit alone lies in the next page, a task gate 40H and one for exception 17; the back link
names 38H. -/
def slim : State :=
  { prot with
    gdtr := { base := 0x1000, limit := 0x47 }
    mem := [(0x1008, 0xFF), (0x1009, 0xFF), (0x100D, 0x9B), (0x100E, 0xCF), (0x1010, 0xFF), (0x1011, 0xFF), (0x1015, 0x93),
      (0x1016, 0xCF), (0x1028, 0x67), (0x102B, 0x20), (0x102D, 0x8B), (0x1030, 0x67), (0x1032, 0x9C), (0x1033, 0x2F),
      (0x1035, 0x89), (0x1038, 0x67), (0x103A, 0x9C), (0x103B, 0x2F), (0x103D, 0x8B), (0x1042, 0x30), (0x1045, 0xE5),
      (0x188A, 0x30), (0x188D, 0xE5), (0x2000, 0x38), (0x2FBD, 0x51), (0x2FC0, 2), (0x2FD5, 0x60), (0x2FE8, 8),
      (0x2FEC, 0x10), (0x2FF0, 0x10)] }

/-- Switches of each cause, and the test of the T bit. -/
theorem witness_TaskSwitch :
    let whole (d : Desc) (f : Nat → Word32) : M Unit := do
      let u ← get
      ensure (u.cpl == rpl (low16 (f 12)))
      loadIncoming f
      let _ ← linRead .b16 (d.base + 0x64) false
    slim.mem.wf = true ∧ ([TaskKind.jmp, .call, .int].all fun k => switched 0x30 k slim whole) = true ∧
    switched 0x38 .iret slim whole = true ∧ ran (taskSwitch 0x30 .jmp 0x4003) slim = true := by decide +kernel

/-- Each check of the incoming TSS: an LDT selector, a null one, one beyond the table, one that is busy, or, for IRET,
not, one not present, one of limit 102; one of 80286 format; an image with VM set. -/
theorem witness_TaskSwitch_tss :
    let stops (sel : Word16) (k : TaskKind) (s : State) : Bool := ran (fails (tssCheck sel k).run anyExn) s
    ([TaskKind.jmp, .call, .int, .iret].all fun k => stops 0x34 k prot && stops 0 k prot && stops 0x60 k prot) = true ∧
    ([TaskKind.jmp, .call, .int].all fun k => stops 0x58 k prot && stops 0x30 k (poked prot [(0x1035, 9)]) &&
      stops 0x30 k (poked prot [(0x1030, 0x66)])) = true ∧
    (stops 0x30 .iret nested && stops 0x58 .iret (poked nested [(0x105D, 0xB)]) && stops 0x58 .iret (poked nested [(0x1058, 0x66)]))
      = true ∧
    ran (do
      let d ← readDesc 0x30 (gpFault 0x30)
      ensure d.tss286) (poked prot [(0x1035, 0x81)]) = true ∧
    selTI 0x30 = false ∧ selNull 0x30 = false ∧
    ran (do
      let d ← (tssCheck 0x30 .jmp).run
      let img ← readFields d.base tssOffsets
      ensure ((img.getD 1 0).getLsbD 17)) (poked prot [(0x2126, 2)]) = true := by decide +kernel

/-- A switch to the task 30H up to the saved state of the outgoing one, and then the action. -/
def savedThen (k : TaskKind) (s : State) (m : Desc → M Unit) : Bool := ran (do
  let d ← (tssCheck 0x30 k).run
  saved 0x30 k 0x4003 s d
  m d) s

/-- A switch to the task 30H with its busy bit set and TS set, and then the action. -/
def busyThen (k : TaskKind) (s : State) (m : Desc → M Unit) : Bool := savedThen k s fun d => do
  setBusy 0x30 (gpFault 0x30)
  modify fun u => { u with cr0 := { s.cr0 with ts := true } }
  m d

/-- Exceptions past the commit point: the outgoing TSS lies where saving EAX sets the busy bit of the incoming one, which setting
it then finds set; with paging on, an incoming TSS in an absent page, and one whose back link alone is in an absent page. -/
theorem witness_TaskSwitch_raised :
    savedThen .jmp { slim with tr := { slim.tr with base := 0x100C }, regs := { slim.regs with eax := 0x8B00 } }
      (fun _ => fails (setBusy 0x30 (gpFault 0x30)) anyExn) = true ∧
    busyThen .jmp (withPages (poked slim [(0x1033, 0x50)])) (fun d => fails (readFields d.base tssOffsets) anyExn) = true ∧
    busyThen .call (withPages (poked slim [(0x1032, 0xF0), (0x1033, 0x3F), (0x11, 0x40), (0x10, 0x67)])) (fun d => do
      let _ ← readFields d.base tssOffsets
      fails (linWrite .b16 d.base 0x28 false) anyExn) = true :=
  ⟨by decide +kernel, by decide +kernel, by decide +kernel⟩

/-- With paging on, the outgoing TSS in an absent page, and the descriptor of the outgoing task in one while that of the
incoming task is not. -/
theorem witness_TaskSwitch_save :
    let away : State := withPages { slim with tr := { slim.tr with base := 0x5000 } }
    let split : State := withPages (poked
      { slim with gdtr := { slim.gdtr with base := 0x2FC8 }, tr := { slim.tr with sel := 0x38 } } [(0x2FF8, 0x67), (0x2FFD, 0x89)])
    ran (do
      let _ ← (tssCheck 0x30 .jmp).run
      probeBusy away.tr.sel
      fails (probeFields away.tr.base savedOffsets) anyExn) away = true ∧
    ran (do
      let _ ← (tssCheck 0x30 .jmp).run
      fails (probeBusy split.tr.sel) anyExn) split = true := by decide +kernel

/-- A null CS in the incoming task, and its T bit in an absent page. -/
theorem witness_TaskSwitch_trap :
    switched 0x30 .jmp (poked slim [(0x2FE8, 0)]) (fun _ f => do
      loadTaskLdt (low16 (f 0))
      fails (taskCodeCheck (low16 (f 12))).run anyExn) = true ∧
    switched 0x30 .jmp (withPages slim) (fun d f => do
      loadIncoming f
      fails (linRead .b16 (d.base + 0x64) false) anyExn) = true := ⟨by decide +kernel, by decide +kernel⟩

/-- One of tests 4 to 16 fails, the fields being those of a task with the LDT 48H and the segments 8 and 10H but for one: an
LDT selector of the LDT, one that names no LDT, one not present; a null CS, data in CS, code not present, code of another
level; a null SS, code in SS, a stack not present, one of another DPL, one of another RPL; DS beyond the table, a system
segment in ES, FS not present, and GS of level 0 with RPL 3. -/
theorem witness_TaskSwitch_tests :
    let with_ (i : Nat) (v : Word32) (cs : List (Nat × Byte)) (m : (Nat → Word32) → M Unit) : Bool :=
      ran (m fun j => if j = i then v else if j = 0 then 0x48 else if j = 12 then 8 else if j < 15 then 0x10 else 0) (poked prot cs)
    let ldt (f : Nat → Word32) : M Unit := do
      ensure (!selNull (low16 (f 0)))
      fails (taskLdtCheck (low16 (f 0))).run anyExn
    let code (f : Nat → Word32) : M Unit := do
      loadTaskLdt (low16 (f 0))
      fails (taskCodeCheck (low16 (f 12))).run anyExn
    let stack (f : Nat → Word32) : M Unit := do
      loadTaskLdt (low16 (f 0))
      let c ← (taskCodeCheck (low16 (f 12))).run
      setAccessed (low16 (f 12)) c
      modify fun v => { v with cs := c.seg (low16 (f 12)) }
      fails (taskStackCheck (low16 (f 13)) (rpl (low16 (f 12)))).run anyExn
    let segments (f : Nat → Word32) : M Unit := do
      loadTaskLdt (low16 (f 0))
      loadTaskCode (low16 (f 12))
      loadTaskStack (low16 (f 13))
    let data (f : Nat → Word32) : M Unit := do
      segments f
      let ds ← taskDataDesc (low16 (f 14))
      let es ← taskDataDesc (low16 (f 11))
      let fs ← taskDataDesc (low16 (f 15))
      let gs ← taskDataDesc (low16 (f 16))
      ensure (firstFailure (taskDataTests 0
        [(low16 (f 14), ds), (low16 (f 11), es), (low16 (f 15), fs), (low16 (f 16), gs)])).isSome
    (with_ 0 0x4C [] ldt && with_ 0 0x10 [] ldt && with_ 0 0x48 [(0x104D, 2)] ldt) = true ∧
    (with_ 12 0 [] code && with_ 12 0x10 [] code && with_ 12 0x50 [(0x1055, 0x1F)] code && with_ 12 0x18 [] code) = true ∧
    (with_ 13 0 [] stack && with_ 13 8 [] stack && with_ 13 0x20 [(0x1025, 0x73)] stack && with_ 13 0x20 [] stack &&
      with_ 13 0x13 [] stack) = true ∧
    with_ 14 0x60 [] (fun f => do
      segments f
      ensure (!selNull (low16 (f 14)))
      fails (readDesc (low16 (f 14)) (gpFault (low16 (f 14)))) anyExn) = true ∧
    (with_ 11 0x28 [] data && with_ 15 0x20 [(0x1025, 0x73)] data && with_ 16 0x13 [] data) = true := by decide +kernel

/-- Three fields stored, 4 and 8 apart; the busy bit of 30H, which is clear, and of 28H, which is set. -/
theorem witness_TaskSwitch_fields :
    prot.cr0.pg = false ∧ prot.plat.map = [] ∧ prot.masters = [] ∧ prot.mem.wf = true ∧
    ([(0, 1), (4, 2), (0xC, 3)] : List (Word32 × Word32)).Pairwise (fun p q => 4 ≤ (p.1 - q.1).toNat ∧ 4 ≤ (q.1 - p.1).toNat) ∧
    descAddr prot 0x30 = some 0x1030 ∧ descAddr prot 0x28 = some 0x1028 ∧
    (peek32 prot 0x1034).getLsbD 9 = false ∧ (peek32 prot 0x102C).getLsbD 9 = true := by decide +kernel


/-- The TSS 30H, the gate 40H made a task gate to it, one not present, and both from level 3, whose DPL is 0; IRET in a nested
task; exception 17, a task gate, with an error code and without; of each cause a switch to a task whose EIP lies beyond its code
segment, and one to a task whose CS is null. -/
theorem witness_TransferToTask :
    let gated (s : State) (access : Byte) : State := poked s [(0x1042, 0x30), (0x1045, access)]
    let task (s : State) (sel : Word16) (p : Desc → Bool) (m : Desc → M Unit) : Bool :=
      s.cr0.pe && !s.cur.lock && !selNull sel && ran (do
        let d ← readDesc sel (gpFault sel)
        ensure (p d)
        m d) s.entered
    let may (s : State) (sel : Word16) (d : Desc) : Bool := decide (s.cpl ≤ d.dpl) && decide (rpl sel ≤ d.dpl)
    let goes (sel : Word16) (k : TaskKind) (ret : Word32) : M Unit := do
      let _ ← taskSwitch sel k ret
      let t ← get
      ensure (decide (t.eip.toNat ≤ t.cs.limit.toNat))
    let none_ : Desc → M Unit := fun _ => pure ()
    let within (cs : List (Nat × Byte)) : State := { poked slim cs with flags := { slim.flags with nt := true } }
    let far : State := within [(0x100E, 0x40), (0x2FBE, 1)]
    let nullCs : State := within [(0x2FE8, 0)]
    let beyond (sel : Word16) (k : TaskKind) (ret : Word32) : M Unit := do
      let _ ← taskSwitch sel k ret
      let t ← get
      ensure (decide (t.cs.limit.toNat < t.eip.toNat))
    let event (e : Event) : Bool := slim.cr0.pe && !slim.cur.committed && !slim.cur.partway &&
      decide (e.vec.toNat * 8 + 7 ≤ slim.idtr.limit.toNat) && ran (do
        let g ← readPair (slim.idtr.base + 8 * e.vec.setWidth 32)
        ensure (g.isSys 5 && (e.src != .soft || decide (slim.cpl ≤ g.dpl)) && g.present)
        let _ ← taskSwitch g.gateSel .int e.ret
        if e.code.pushes then do
          modify fun s => { s with free := s.free + 1 }
          pushAllAs false .b32 [errImage e.code (Config.freeValue 0)]
        let v ← get
        ensure (decide (v.eip.toNat ≤ v.cs.limit.toNat))) slim
    ([TaskKind.jmp, .call].all fun k => task slim 0x30 (fun d => d.isSys 9 && may slim 0x30 d) (fun _ => goes 0x30 k slim.nextIp)) = true ∧
    task user 0x30 (fun d => d.isSys 9 && decide (d.dpl < user.cpl)) none_ = true ∧
    task (gated user 0x85) 0x40 (fun d => d.isSys 5 && decide (d.dpl < user.cpl)) none_ = true ∧
    task (gated prot 0x65) 0x40 (fun d => d.isSys 5 && may prot 0x40 d && !d.present) none_ = true ∧
    ([TaskKind.jmp, .call].all fun k => task slim 0x40 (fun d => d.isSys 5 && may slim 0x40 d && d.present)
      (fun d => goes d.gateSel k slim.nextIp)) = true ∧
    { slim with flags := { slim.flags with nt := true } }.flags.nt = true ∧ ran (do
      let link ← linRead .b16 slim.tr.base false
      goes link .iret slim.nextIp) { slim with flags := { slim.flags with nt := true } }.entered = true ∧
    event { vec := 17, src := .soft, ret := 0x4003, code := .none, rf := false } = true ∧
    event { vec := 17, src := .exc, ret := 0x4000, code := .sel 0, rf := true } = true ∧
    task far 0x30 (fun d => d.isSys 9 && may far 0x30 d) (fun _ => beyond 0x30 .jmp far.nextIp) = true ∧
    task nullCs 0x30 (fun d => d.isSys 9 && may nullCs 0x30 d) (fun _ => fails (taskSwitch 0x30 .jmp nullCs.nextIp) anyExn) = true ∧
    ([(0x38, TaskKind.iret), (0x30, .int)].all fun p =>
      ran (beyond p.1 p.2 0x4003) far && ran (fails (taskSwitch p.1 p.2 0x4003) anyExn) nullCs) = true := by decide +kernel

/-- Without a prefix; with one and a count of 0, of 1, of 3; a comparison that ends and one that goes on. -/
theorem witness_RepeatedStrings :
    let rep (p : Rep) (n : Word32) : State := { real with cur := { real.cur with rep := some p }, regs := { real.regs with ecx := n } }
    real.cur.lock = false ∧ real.cur.rep = none ∧
    (∀ op ∈ [StringOp.ins, .outs, .movs, .cmps, .stos, .lods, .scas], ran (op.once .b16) real.entered = true) ∧
    (rep .repe 0).regs.read .b16 .ecx = 0 ∧
    ([StringOp.ins, .outs, .movs, .cmps, .stos, .lods, .scas].all fun op => [1, 3].all fun n =>
      (rep .repe n).regs.read .b16 .ecx != 0 && ran (op.once .b16) (rep .repe n).entered) = true ∧
    ran (do
      StringOp.scas.once .b16
      let t ← get
      ensure (!t.flags.zf)) (rep .repe 3).entered = true := by decide +kernel

theorem witness_StringPrimitives :
    real.mem.wf = true ∧ real.cr0.pg = false ∧
    ran (do
      let _ ← segRead .b16 .ds ((real.regs.read .b16 .esi).setWidth 32)
      segResolve .es ((real.regs.read .b16 .edi).setWidth 32) 2 true true) real = true ∧
    ran (do
      let _ ← segRead .b16 .ds ((real.regs.read .b16 .esi).setWidth 32)
      segRead .b16 .es ((real.regs.read .b16 .edi).setWidth 32)) real = true ∧
    ran (segRead .b16 .es ((real.regs.read .b16 .edi).setWidth 32)) real = true ∧
    ran (segResolve .es ((real.regs.read .b16 .edi).setWidth 32) 2 true true) real = true := by decide +kernel

/-- No 80386 TSS; no bit map; a map at 68H of a TSS of limit 70H, whose first byte admits port 1 and not port 0: read a byte
and a word at a time, for one, two and four ports, at its start, across its bytes and at its end. -/
theorem witness_PortPermission :
    let none_ : State := { user with tr := { user.tr with type := 1 } }
    let mapped (word : Bool) : State :=
      { poked user [(0x2068, 1)] with tr := { user.tr with limit := 0x70 }, plat := { user.plat with ioBitmapWordRead := word } }
    let w (word : Bool) : Width := if word then .b16 else .b8
    let map (word : Bool) (m : Nat → M Unit) : Bool := ran (do
      let map ← linRead .b16 (user.tr.base + 0x66) false
      ensure (decide (map.toNat < (mapped word).tr.limit.toNat))
      m map.toNat) (mapped word)
    let off (map port i : Nat) : Nat := map + (port + i) / 8
    let read (word : Bool) (map port i : Nat) (clear : Bool) : M Unit := do
      ensure (decide (off map port i + ((w word).bytes - 1) ≤ 0x70))
      let b ← linRead (w word) (user.tr.base + BitVec.ofNat 32 (off map port i)) false
      ensure (b.getLsbD ((port + i) % 8) != clear)
    let free (word : Bool) (port n : Nat) : Bool := map word fun m => (List.range n).forM fun i => read word m port i true
    let set_ (word : Bool) (port : Nat) : Bool := map word fun m => read word m port 0 false
    let beyond (word : Bool) (port k : Nat) : Bool := map word fun m => do
      (List.range k).forM fun i => read word m port i true
      ensure (decide (0x70 < off m port k + ((w word).bytes - 1)))
    (real.cr0.pe = false ∧ (0xFFFF : Word16).toNat + 1 ≤ 0x10000 ∧ 0x10000 < (0xFFFF : Word16).toNat + 2 ∧
      prot.cpl ≤ prot.flags.iopl) ∧
    (user.cr0.pe = true ∧ user.flags.iopl < user.cpl) ∧ none_.tr.type ≠ 9 ∧ none_.tr.type ≠ 0xB ∧ user.tr.type = 0xB ∧
    ran (do
      let map ← linRead .b16 (user.tr.base + 0x66) false
      ensure (decide (user.tr.limit.toNat ≤ map.toNat))) user = true ∧
    ([false, true].all fun word => free word 1 1 && free word 7 2 && free word 4 4 && free word 60 4 && set_ word 0) = true ∧
    (free false 68 4 && beyond false 70 2 && beyond false 72 0 && beyond true 62 2 && beyond true 64 0) = true := by
  decide +kernel

theorem witness_Ports :
    real.cur.lock = false ∧ real.mem.wf = true ∧ ran (ioCheck 0x60 2) real.entered = true ∧
    (Width.b16.bytes - (0x60 : Word16).toNat % Width.b16.bytes = Width.b16.bytes ∧
      Width.b16.bytes - (0x61 : Word16).toNat % Width.b16.bytes < Width.b16.bytes ∧ ran (ioCheck 0x61 2) real.entered = true) ∧
    ran (ioCheck (real.regs.read .b16 .edx) 1) real.entered = true ∧
    ran (do
      ioCheck (real.regs.read .b16 .edx) 2
      segResolve .es ((real.regs.read .b16 .edi).setWidth 32) 2 true true) real = true ∧
    ran (do
      ioCheck (real.regs.read .b16 .edx) 2
      segRead .b16 .ds ((real.regs.read .b16 .esi).setWidth 32)) real = true := by decide +kernel

theorem witness_Coprocessor :
    let ts : State := { real with cr0 := { real.cr0 with ts := true, mp := true } }
    let fpu (busy err : Bool) : State :=
      { real with plat := { real.plat with coproc := .i387 }, busyLine := busy, errorLine := err }
    real.cur.lock = false ∧ real.cr0.em = false ∧ real.cr0.ts = false ∧ real.plat.coproc = .none ∧
    ts.cr0.ts = true ∧ ts.cr0.mp = true ∧ (fpu false true).plat.coproc ≠ .none ∧ (fpu false true).errorLine = true ∧
    (fpu false false).errorLine = false ∧ (fpu true false).busyLine = true ∧ (fpu false true).busyLine = false := by decide

/-- A null selector; a stack of the level; a data segment; one of level 0 for level 3, which is refused; one not present.
-/
theorem witness_SegmentLoad :
    let absent : State := { prot with mem := prot.mem.set 0x1015 0x13 }
    let data (sel : Word16) (s : State) (p : Desc → Bool) : Prop :=
      s.cr0.pe = true ∧ selNull sel = false ∧
      ran (do
        let d ← readDesc sel (gpFault sel)
        ensure (p d)
        setAccessed sel d) s = true
    let good (s : State) (sel : Word16) (d : Desc) : Bool :=
      d.attr.readable && (d.attr.conforming || decide (s.cpl ≤ d.dpl) && decide (rpl sel ≤ d.dpl))
    (selTI 0x14 = true ∧ (0x14 : Word16).getLsbD 2 = true ∧ prot.ldtr.valid = false ∧ (0x60 : Word16).getLsbD 2 = false ∧
      prot.gdtr.limit.toNat < 8 * ((0x60 : Word16).toNat / 8) + 7 ∧ prot.cr0.pg = false ∧ prot.plat.map = [] ∧
      prot.masters = [] ∧ prot.mem.wf = true ∧ (0x9B00 : Word32).getLsbD 8 = true ∧ (0x9A00 : Word32).getLsbD 8 = false ∧ 8 * ((0x58 : Word16).toNat / 8) + 7 ≤ prot.gdtr.limit.toNat) ∧
    ran (do
      let _ ← linRead .b32 (prot.gdtr.base + 0x58) false
      linRead .b32 (prot.gdtr.base + 0x58 + 4) false) prot = true ∧
    real.cr0.pe = false ∧ selNull 3 = true ∧ sregOf 3 = some .ds ∧ sregOf 2 = some .ss ∧
    data 0x10 prot (fun d => rpl 0x10 == prot.cpl && d.attr.writable && d.dpl == prot.cpl && d.present) ∧
    data 0x10 prot (fun d => good prot 0x10 d && d.present) ∧ data 0x10 absent (fun d => good absent 0x10 d && !d.present) ∧
    data 0x10 user (fun d => !good user 0x10 d) ∧ data 8 prot (fun d => !d.attr.writable) ∧
    prot.cur.lock = false ∧ ran (do
      let v ← readRM .b16 (.mem (.ind32 .ebx (.d8 4)))
      loadSeg .ss v) prot.entered = true ∧
    ran (do
      let _ ← stackRead .b32 0
      loadSeg .ds 0x10) prot.entered = true ∧
    ran (do
      let v ← stackRead .b32 0
      loadSeg .ds (v.setWidth 16)) (withEsp prot 0x8204).entered = true ∧
    ran (do
      let _ ← segRead .b32 .ds (effAddr prot.regs (.ind32 .ebx .none))
      let sel ← segRead .b16 .ds (effAddr prot.regs (.ind32 .ebx .none) + distOf .b32)
      loadSeg .ss sel) prot.entered = true := by decide +kernel

/-- 20_memory.md R141: with paging off, a JMP to a task whose CR3 differs loads CR3 and flushes the TLB, and one to a task
with the same CR3 does not. -/
theorem test_task_switch_tlb :
    let entry : TlbEntry := { page := 5, frame := 9, user := true, write := true, dirty := false }
    let s : State := { prot with tlb := [entry] }
    after (exec (.jmpApFar 0 0x30) (poked s [(0x211D, 0x90)])) (fun t => t.cr3 == 0x9000 && t.tlb == []) = true ∧
      after (exec (.jmpApFar 0 0x30) s) (fun t => t.cr3 == 0 && t.tlb == [entry]) = true := by
  decide +kernel

/-- R622: MOV DS,AX of a descriptor read with A = 0 sets the bit in memory, and copies the attributes as they were read. -/
theorem test_load_unaccessed :
    let s : State := poked { prot with regs := { prot.regs with eax := 0x10 } } [(0x1015, 0x92)]
    after (exec (.movSregEw 3 (.reg .eax)) s) (fun t => t.mem.get 0x1015 == 0x93 && t.ds.attr.type == 2) = true := by
  decide +kernel

theorem witness_SelectorStores :
    real.mem.wf = true ∧ real.cur.lock = false ∧ real.cur.opSize = .s16 ∧ prot.mem.wf = true ∧ prot.cur.lock = false ∧
    prot.cr0.pe = true ∧ prot.cur.opSize = .s32 ∧ sregOf 1 = some .cs ∧ 6 ≤ (6 : BitVec 3).toNat ∧ 6 ≤ (7 : BitVec 3).toNat ∧
    ran (locate .b16 (.mem (.ind32 .ebx .none)) true true) prot.entered = true ∧
    ran (locate .b16 (.mem (.ind32 .ebx .none)) true true) { prot.entered with free := prot.free + 1 } = true := by
  decide +kernel

theorem witness_DescriptorTables :
    prot.mem.wf = true ∧ prot.cur.lock = false ∧ prot.cpl = 0 ∧
    ran (do
      let _ ← segRead .b16 .ds 0x8200
      segRead .b32 .ds (0x8200 + 2)) prot.entered = true ∧
    ran (do
      let _ ← memLoc .b16 .ds 0x8200 true true
      memLoc .b32 .ds (0x8200 + 2) true true) { prot.entered with free := prot.free + 1 } = true := by decide +kernel

theorem witness_LoadTableSelectors :
    let from_ (m : State) (v : Word32) (p : Word16 → Desc → Bool) : Prop :=
      let s : State := { m with regs := { m.regs with eax := v } }
      s.cr0.pe = true ∧ s.cpl = 0 ∧ s.cur.lock = false ∧
      ran (do
        let sel ← readRM .b16 (.reg .eax)
        ensure (!selNull sel && !selTI sel)
        let d ← readDesc sel (gpFault sel)
        ensure (p sel d)
        if d.isSys 9 then setBusy sel (gpFault sel)) s.entered = true
    selNull 0 = true ∧ ran (readRM .b16 (.reg .eax)) prot.entered = true ∧ from_ prot 0x48 (fun _ d => d.isSys 2 && d.present) ∧
    from_ prot 0x30 (fun _ d => d.isSys 9 && d.present && !d.isSys 2) ∧ from_ prot 0x10 (fun _ d => !d.isSys 1 && !d.isSys 3 && !d.isSys 9) ∧
    from_ (poked prot [(0x1035, 0x81)]) 0x30 (fun _ d => d.isSys 1) ∧
    from_ (poked prot [(0x1035, 0x83)]) 0x30 (fun _ d => d.isSys 3) ∧ selTI 0x14 = true := by decide +kernel

/-- Values with PG and without PE, with neither, and with both. -/
theorem witness_ControlRegisters :
    let with_ (v : Word32) : State := { prot with regs := { prot.regs with eax := v } }
    (with_ 0).cpl = 0 ∧ (with_ 0).cur.lock = false ∧
    ((with_ 0x80000000).regs.read .b32 .eax).getLsbD 31 = true ∧ ((with_ 0x80000000).regs.read .b32 .eax).getLsbD 0 = false ∧
    ((with_ 0).regs.read .b32 .eax).getLsbD 31 = false ∧ ((with_ 0x80000001).regs.read .b32 .eax).getLsbD 0 = true ∧
    (∀ n : BitVec 3, n ∈ [1, 4, 5, 6, 7] → n ≠ 0 ∧ n ≠ 2 ∧ n ≠ 3) ∧
    ran (readRM .b16 (.mem (.ind32 .ebx .none))) prot.entered = true := by decide +kernel

theorem witness_DebugAndTestRegisters :
    prot.cpl = 0 ∧ prot.cur.lock = false ∧ (prot.regs.read .b32 .eax).setWidth 8 ≠ 0#8 ∧
    ({ prot with regs := { prot.regs with eax := 0x100 } }.regs.read .b32 .eax).setWidth 8 = 0#8 ∧
    (∀ n : BitVec 3, n ∈ [0, 1, 2, 3, 4, 5] → n ≠ 6 ∧ n ≠ 7) := by decide

/-- RPL 1 raised to 2 and not to 0; a readable descriptor, one in an absent page, one of another table, a null selector. -/
theorem witness_PointerValidation :
    let arpl (want : Word32) : State := { prot with regs := { prot.regs with eax := 0x11, ecx := want } }
    let seen (sel : Word16) (p : Option Desc → Bool) : Prop :=
      selNull sel = false ∧ ran (do
        let f ← findDesc sel
        ensure (p f)) prot = true
    prot.cr0.pe = true ∧ prot.mem.wf = true ∧ prot.cur.lock = false ∧
    ([0, 1, 2].all fun want =>
      ran (do
        let p ← locate .b16 (.mem (.ind32 .ebx (.d8 4))) true false
        let _ ← readLoc .b16 p
        locate .b16 (.mem (.ind32 .ebx (.d8 4))) true true) (arpl want).entered) = true ∧
    (0 : BitVec 2) ≤ (0x10 : Word16).setWidth 2 ∧ (0x10 : Word16).setWidth 2 < (2 : BitVec 2) ∧
    ran (readRM .b16 (.reg .eax)) prot.entered = true ∧ selNull 0 = true ∧
    seen 0x10 (fun f => f.any fun d => d.attr.readable && d.s) ∧
    ran (do
      let _ ← readRM .b16 (.reg .eax)
      fails (findDesc 0x10) anyExn) (withPages { prot with gdtr := { prot.gdtr with base := 0x5000 } }).entered = true ∧
    seen 0x40 (fun f => f.any fun d => !d.s && d.type == 0xC) ∧ seen 0x60 (fun f => f.isNone) := by decide +kernel

theorem witness_RegisterParts : (3 < 8 ∨ 16 ≤ 3 ∨ (byteReg .eax).2 = false) ∧ (8 ≤ 15 ∨ (byteReg .esp).2 = true) ∧
    (byteReg .esp).2 = true ∧ (byteReg .ecx).2 = false ∧ 4 ≤ (4 : BitVec 3).toNat := by decide

theorem witness_StoredBytes :
    let placed : State := { real with plat := { real.plat with
      map := [⟨0, 0x1000, .ram⟩, ⟨0x1000, 0x1000, .rom⟩, ⟨0x2000, 0x1000, .device⟩, ⟨0x3000, 0xFFFFD000, .absent⟩] } }
    placed.mem.wf = true ∧
    (∀ k < 4, regionKind placed.plat.map ((0xFFC : Word32) + BitVec.ofNat 32 k).toNat = .ram) ∧
    regionKind placed.plat.map (0x1000 : Word32).toNat = .rom ∧ regionKind placed.plat.map (0xFFFFFFFF : Word32).toNat = .absent ∧
    regionKind placed.plat.map (0x2FFF : Word32).toNat = .device ∧
    (∀ k < 4, regionKind real.plat.map ((0xFFFFFFFE : Word32) + BitVec.ofNat 32 k).toNat = .ram) ∧
    (placed.masters = [] ∧ placed.busLock = false ∧ { placed with busLock := true }.busLock = true) ∧
    (let other : State := { placed with masters := [[(0x300, 7)], []] }
     other.masters = [(0x300, 7)] :: [[]] ∧ (0xFFC : Word32).toNat % 4 + 4 ≤ 4 ∧ ¬ (0xFFD : Word32).toNat % 4 + 4 ≤ 4 ∧
       regionKind placed.plat.map (0x300 : Word32).toNat = .ram) := by decide +kernel

/-- The last word inside the limit and the next one; code, which cannot be written; a register that holds nothing; the
lowest byte of an expand-down segment and the one below it. -/
theorem witness_SegmentChecks :
    let nothing : State := { prot with ds := { prot.ds with valid := false } }
    let down : State := { prot with ds := { prot.ds with limit := 0xFFF, attr := { prot.ds.attr with type := 7, db := false } } }
    real.cr0.pe = false ∧ prot.cr0.pe = true ∧ prot.cr0.pg = false ∧ real.cr0.pg = false ∧
    (0xFFFE : Word32).toNat + 2 ≤ (real.seg .ds).limit.toNat + 1 ∧ ¬ (0xFFFF : Word32).toNat + 2 ≤ (real.seg .ds).limit.toNat + 1 ∧
    (prot.seg .cs).attr.writable = false ∧ (prot.seg .cs).valid = true ∧ (prot.seg .cs).attr.type.getLsbD 1 = true ∧
    (nothing.seg .ds).valid = false ∧ (down.seg .ds).attr.expandDown = true ∧ (down.seg .ds).attr.writable = true ∧
    (down.seg .ds).limit.toNat < (0x1000 : Word32).toNat ∧ (0xFFFF : Word32).toNat + 1 ≤ 0x10000 ∧
    ¬ (down.seg .ds).limit.toNat < (0xFFF : Word32).toNat ∧ (prot.seg .ds).attr.expandDown = false ∧
    (0xFFFFFFFC : Word32).toNat + 4 ≤ (prot.seg .ds).limit.toNat + 1 := by decide +kernel

/-- The directory of V21.7, its page for reading by level 3, with an entry cached as the walk leaves it. -/
def paged (pde pte : Nat) : State :=
  { State.reset with
    cr0 := { State.reset.cr0 with pe := true, pg := true }, cr3 := 0x10000
    mem := cells 0x10004 [pde % 256, 0x10, 1, 0] (cells 0x1100C [pte % 256, 0x50, 5, 0] []) }

theorem witness_PageTranslation :
    let entry (s : State) (a : Word32) : Word32 := ofBytes .b32 ((addrs a 4).map fun b => s.mem.get b.toNat)
    let cached : State := { paged 0x27 0x65 with
      tlb := [{ page := frameOf 0x403025, frame := 0x55, user := true, write := false, dirty := true }] }
    (paged 7 5).plat.map = [] ∧ (paged 7 5).mem.wf = true ∧ entry (paged 7 5) (0x10000 + 4 * (0x403025 >>> 22)) = 0x11007 ∧
    entry (paged 7 5) (0x11000 + 4 * ((0x403025 >>> 12) &&& 0x3FF)) = 0x55005 ∧ (0x1100C : Word32) ≠ 0x10004 ∧
    (0x11006 : Word32).getLsbD 0 = false ∧ entry (paged 6 5) 0x10004 = 0x11006 ∧
    ((0x11007 : Word32).getLsbD 0 = true ∧ (0x55005 : Word32).getLsbD 0 = true ∧ (0x55005 : Word32).getLsbD 1 = false ∧
      (0x11007 : Word32).getLsbD 2 = true ∧ (0x55005 : Word32).getLsbD 2 = true) ∧
    (∀ e ∈ cached.tlb, e.page = frameOf 0x403025 → e.agrees cached 0x403025 = true) ∧ cached.cr0.pg = true ∧
    ran (translate 0x403025 false true true) cached = true ∧ ran (translate 0x403025 true false true) (paged 7 5) = true ∧
    (paged 7 5).masters = [] ∧ real.cr0.pg = false ∧
    (let two : State := poked (paged 7 5) [(0x11010, 7), (0x11011, 0x60)]
     let last : Word32 := 0x403FFE + BitVec.ofNat 32 (4 - 1)
     frameOf last ≠ frameOf 0x403FFE ∧ two.cr0.pg = true ∧
     ran (do
       let _ ← translate 0x403FFE false true true
       translate (last &&& 0xFFFFF000) false true true) two = true ∧
     ran (do
       let _ ← translate 0x403FFE false true true
       fails (translate (last &&& 0xFFFFF000) false true true) anyExn) (paged 7 5) = true) := by decide +kernel

/-- An operand-size prefix, a repeat prefix, and MOV of a doubleword immediate, in a 16-bit segment, with TF set. -/
theorem witness_StepRunsDecoded :
    let s : State := { real with flags := { real.flags with tf := true },
                                 mem := cells 0x410 [0x66, 0xF3, 0xB8, 0x78, 0x56, 0x34, 0x12] [] }
    let ps : List Instr := [.pfxOpSize, .pfxRep]
    let bytes : List Byte := [0xB8, 0x78, 0x56, 0x34, 0x12]
    let a : State := { s.absorb with inhibit := false, stiShadow := false, debugTrap := false }
    let z : Size := if a.cr0.pe = true ∧ a.cs.attr.db = true then .s32 else .s16
    let t := { a with cur := a.curAt z }.prefixed ps
    let all := ps.flatMap (encode .s16 .s16) ++ bytes
    s.absorb.flags.vm = false ∧ s.absorb.pending = none ∧ a.activity = .running ∧ a.modeStale = false ∧
    a.cr0.pg = false ∧ a.prefetch = [] ∧ a.masters = [] ∧ (∀ p ∈ ps, isPrefix p = true) ∧ isPrefix (.movRvIv .eax 0x12345678) = false ∧
    rowsRead [(t.cur.opSize, t.cur.addrSize, bytes, .movRvIv .eax 0x12345678)] = true ∧ all.length ≤ 15 ∧
    (∀ k, (h : k < all.length) → (a.eip + BitVec.ofNat 32 k).toNat ≤ a.cs.limit.toNat ∧
      regionKind a.plat.map (a.cs.base + (a.eip + BitVec.ofNat 32 k)).toNat = .ram ∧
      a.mem.get (a.cs.base + (a.eip + BitVec.ofNat 32 k)).toNat = all[k]) := by decide +kernel

theorem witness_BoundaryEvents :
    let takes (v : Byte) (src : Source) (s : State) : Prop :=
      ran (deliver { vec := v, src := src, ret := s.eip, code := .none, rf := false }) s = true
    let sti : State := { real with flags := { real.flags with ie := true }, intr := some 8, stiShadow := true }
    real.inputs = [] ∧ real.flags.vm = false ∧ real.activity ≠ .shutdown ∧ real.inhibit = false ∧ real.stiShadow = false ∧
    { real with flags := { real.flags with vm := true } }.flags.vm = true ∧
    { real with debugTrap := true }.debugTrap = true ∧ takes 1 .exc real ∧
    ({ real with nmiPending := true }.nmiPending = true ∧ real.nmiLatch = false) ∧ takes 2 .ext { real with nmiLatch := true } ∧
    takes 2 .ext { real with nmiLatch := true, activity := .running } ∧
    ({ sti with stiShadow := false }.intr = some 8 ∧ sti.flags.ie = true ∧ sti.stiShadow = true) ∧ takes 8 .ext { sti with intr := none } ∧
    { real with activity := .halted }.activity = .halted ∧ { real with activity := .shutdown }.activity = .shutdown := by
  decide +kernel

theorem witness_ResetValues :
    let s : State := { prot with inputs := [.reset, .quiet], plat := { prot.plat with selfTest := true } }
    s.inputs = .reset :: [.quiet] ∧ s.absorb.plat.selfTest = true := by decide

theorem witness_ResetSafe : prot.mem.wf = true := by decide +kernel

theorem witness_StepKeepsInvariant :
    (State.reset.Inv ∧ after (step State.reset) (fun _ => true) = true) ∧
    prot.Inv ∧ after (step { prot with mem := prot.mem.set 0x4000 0x90 }) (fun t => t.cpl == 0) = true := by
  unfold State.Inv
  decide +kernel

theorem witness_DecodeEncode :
    (Instr.addEvIb (.mem (.sib 2 .esi .ebx (.d8 8))) 0xFF).wf .s16 .s32 = true ∧
    (Instr.movRvIv .eax 0xFFFFFFFF).wf .s32 .s16 = true ∧ Instr.pusha.wf .s16 .s16 = true ∧ Instr.pfxLock.wf .s16 .s16 = true := by
  decide

end Sys2Proof.Tests
end

/-! # What the meaning of each instruction keeps

The meaning of each instruction keeps `State.Inv`, in the order of the model's files. Each proof follows the `do` block of the
definition it speaks of, one combinator for each statement of the block. -/

namespace Sys2Proof.Machine

section
variable {q : Bool} {α β : Type}

/-! ## A statement of a block, and what follows it -/

theorem Keeps.seq {m : M α} {f : α → M β} (hm : Keeps (Guard q) m) (hf : ∀ a, Keeps (Guard q) (f a)) :
    Keeps (Guard q) (m >>= f) := .bind (Guard.order q) hm hf

/-- A statement that makes accesses and nothing else. -/
theorem Keeps.accessing {m : M α} {f : α → M β} (hm : Keeps Access m) (hf : ∀ a, Keeps (Guard q) (f a)) :
    Keeps (Guard q) (m >>= f) := .seq hm.guard hf

theorem Keeps.getting {f : State → M β} (hf : ∀ s, Keeps (Guard q) (f s)) :
    Keeps (Guard q) ((MonadState.get : M State) >>= f) := .seq (.get (Guard.order q)) hf

theorem Keeps.checking {c : Bool} {e : Exn} {f : Unit → M β} (hf : ∀ a, Keeps (Guard q) (f a)) :
    Keeps (Guard q) (Machine.require c e >>= f) := .seq (.require (Guard.order q) _ _) hf

theorem Keeps.done {a : α} : Keeps (Guard q) (Pure.pure a : M α) := .pure (Guard.order q) a

theorem Keeps.checked {c : Bool} {e : Exn} : Keeps (Guard q) (Machine.require c e) := .require (Guard.order q) _ _

theorem Keeps.raised {e : Exn} : Keeps (Guard q) (Machine.raise e : M α) := .raise (Guard.order q) e

theorem Keeps.refused {r : Refusal} : Keeps (Guard q) (Machine.refuse r : M α) := .refuse (Guard.order q) r

/-- A statement that is made under a condition, and what follows in either case. -/
theorem Keeps.optional {c : Prop} [Decidable c] {m : M Unit} {f : Unit → M β} (hm : Keeps (Guard q) m)
    (hf : ∀ a, Keeps (Guard q) (f a)) : Keeps (Guard q) (if c then m >>= f else f ()) := .ite (.seq hm hf) (hf ())

/-- A sequence run in one state, whose second part keeps the relation from every state. -/
theorem Keeps.bind_at {R : State → State → Prop} (o : Order R) {m : M α} {f : α → M β} {s : State}
    (hm : R s (after (m s))) (hf : ∀ a, Keeps R (f a)) : R s (after ((m >>= f) s)) := by
  rw [bind_run]
  cases e : m s with
  | ok a t => rw [e] at hm; exact o.trans hm ((hf a).run t)
  | error x t => rw [e] at hm; exact hm

/-- A state with the same memory, mode, level, VM flag and CR3. -/
theorem Guard.of_rfl {s t : State} (mem : t.mem = s.mem := by rfl) (cr0 : t.cr0 = s.cr0 := by rfl)
    (cpl : t.cpl = s.cpl := by rfl) (vm : t.flags.vm = s.flags.vm := by rfl) (cr3 : t.cr3 = s.cr3 := by rfl) :
    Guard q s t := .of_eq (by rw [mem]; exact id) cr0 cpl vm cr3

/-! ## Binary arithmetic and the ALU block -/

theorem aluTo_guard {op : AluOp} {w : Width} {rm : RM} {src : M (Val w)} (h : Keeps (Guard q) src) :
    Keeps (Guard q) (aluTo op w rm src) :=
  .accessing (locate_access _ _ _ _) fun _ => .seq h fun _ => .getting fun _ => lockedIf_guard _ <|
    .accessing (readLoc_access _ _) fun _ => .seq (setEffect_guard _) fun _ => .ite (writeLoc_guard _ _ _) .done

theorem aluRmReg_guard {op : AluOp} {w : Width} {rm : RM} {r : Reg} : Keeps (Guard q) (aluRmReg op w rm r) :=
  aluTo_guard (getReg_access _ _).guard

theorem aluRegRm_guard {op : AluOp} {w : Width} {r : Reg} {rm : RM} : Keeps (Guard q) (aluRegRm op w r rm) :=
  aluTo_guard (readRM_access _ _).guard

theorem aluRmImm_guard {op : AluOp} {w : Width} {rm : RM} {v : Val w} : Keeps (Guard q) (aluRmImm op w rm v) :=
  aluTo_guard .done

theorem aluAccImm_guard {op : AluOp} {w : Width} {v : Val w} : Keeps (Guard q) (aluAccImm op w v) := aluTo_guard .done

theorem modifyRM_guard {w : Width} {rm : RM} {result : Val w → Val w} {flags : Val w → M Unit}
    (h : ∀ a, Keeps (Guard q) (flags a)) : Keeps (Guard q) (modifyRM w rm result flags) :=
  .accessing (locate_access _ _ _ _) fun _ => .getting fun _ => lockedIf_guard _ <|
    .accessing (readLoc_access _ _) fun _ => .seq (h _) fun _ => writeLoc_guard _ _ _

theorem increment_guard {w : Width} {rm : RM} : Keeps (Guard q) (increment w rm) :=
  modifyRM_guard fun _ => setEffect_guard _

theorem decrement_guard {w : Width} {rm : RM} : Keeps (Guard q) (decrement w rm) :=
  modifyRM_guard fun _ => setEffect_guard _

theorem negate_guard {w : Width} {rm : RM} : Keeps (Guard q) (negate w rm) :=
  modifyRM_guard fun _ => setEffect_guard _

theorem setPair_guard {w : Width} {p : BitVec (w.bits + w.bits)} : Keeps (Guard q) (setPair w p) :=
  .seq (setReg_guard _ _ _) fun _ => setReg_guard _ _ _

theorem multiply_guard {w : Width} {rm : RM} : Keeps (Guard q) (multiply w rm) :=
  .accessing (readRM_access _ _) fun _ => .accessing (getReg_access _ _) fun _ =>
    .seq setPair_guard fun _ => setEffect_guard _

theorem multiplySigned_guard {w : Width} {rm : RM} : Keeps (Guard q) (multiplySigned w rm) :=
  .accessing (readRM_access _ _) fun _ => .accessing (getReg_access _ _) fun _ =>
    .seq setPair_guard fun _ => setEffect_guard _

theorem multiplyReg_guard {w : Width} {r : Reg} {rm : RM} : Keeps (Guard q) (multiplyReg w r rm) :=
  .accessing (getReg_access _ _) fun _ => .accessing (readRM_access _ _) fun _ =>
    .seq (setReg_guard _ _ _) fun _ => setEffect_guard _

theorem multiplyImm_guard {w : Width} {r : Reg} {rm : RM} {v : Val w} : Keeps (Guard q) (multiplyImm w r rm v) :=
  .accessing (readRM_access _ _) fun _ => .seq (setReg_guard _ _ _) fun _ => setEffect_guard _

theorem setQuotient_guard {w : Width} {a r : Val w} : Keeps (Guard q) (setQuotient w a r) :=
  .seq (setReg_guard _ _ _) fun _ => .seq (setReg_guard _ _ _) fun _ => setEffect_guard _

theorem divide_guard {w : Width} {rm : RM} : Keeps (Guard q) (divide w rm) :=
  .accessing (readRM_access _ _) fun _ => .accessing (getReg_access _ _) fun _ => .accessing (getReg_access _ _) fun _ =>
    .checking fun _ => .checking fun _ => setQuotient_guard

theorem divideSigned_guard {w : Width} {rm : RM} : Keeps (Guard q) (divideSigned w rm) :=
  .accessing (readRM_access _ _) fun _ => .accessing (getReg_access _ _) fun _ => .accessing (getReg_access _ _) fun _ =>
    .checking fun _ => .checking fun _ => setQuotient_guard

/-! ## ENTER, LEAVE and the flag instructions -/

theorem copyDisplay_guard {w : Width} : ∀ k, Keeps (Guard q) (copyDisplay w k)
  | 0 => .done
  | k + 1 => .seq (.modify fun _ => .of_rfl) fun _ => .getting fun _ => .accessing (segRead_access _ _ _) fun _ =>
      .seq (push_guard _ _) fun _ => copyDisplay_guard k

theorem enterFrame_guard {w : Width} {size : Word16} {level : Byte} : Keeps (Guard q) (enterFrame w size level) := by
  have fin (v : Val w) : Keeps (Guard q) (do setReg w .ebp v; modify fun t => t.moveSP (-size.setWidth 32)) :=
    .seq (setReg_guard _ _ _) fun _ => .modify fun _ => .of_rfl
  exact partway_guard <| .accessing (getReg_access _ _) fun _ => .seq (push_guard _ _) fun _ => .getting fun _ =>
    .ite (fin _) (.seq (copyDisplay_guard _) fun _ => .seq (push_guard _ _) fun _ => fin _)

theorem leaveFrame_guard {w : Width} : Keeps (Guard q) (leaveFrame w) :=
  .seq (.modify fun _ => .of_rfl) fun _ => .seq (pop_guard _) fun _ => setReg_guard _ _ _

theorem pushFlags_guard {w : Width} : Keeps (Guard q) (pushFlags w) := .getting fun _ => push_guard _ _

theorem popFlags_guard {w : Width} : Keeps (Guard q) (popFlags w) :=
  .seq (pop_guard _) fun _ => .modify fun _ => .of_rfl

theorem flagsToAh_guard : Keeps (Guard q) flagsToAh := .getting fun _ => setReg_guard _ _ _

theorem ahToFlags_guard : Keeps (Guard q) ahToFlags :=
  .accessing (getReg_access _ _) fun _ => setFlags_guard fun _ => rfl

/-! ## Data movement, the stack and conversions -/

theorem movStore_guard {w : Width} {rm : RM} {r : Reg} : Keeps (Guard q) (movStore w rm r) :=
  .accessing (getReg_access _ _) fun _ => writeRM_guard _ _ _

theorem movLoad_guard {w : Width} {r : Reg} {rm : RM} : Keeps (Guard q) (movLoad w r rm) :=
  .accessing (readRM_access _ _) fun _ => setReg_guard _ _ _

theorem movFromOffset_guard {w : Width} {off : Word32} : Keeps (Guard q) (movFromOffset w off) :=
  .getting fun _ => .accessing (segRead_access _ _ _) fun _ => setReg_guard _ _ _

theorem movToOffset_guard {w : Width} {off : Word32} : Keeps (Guard q) (movToOffset w off) :=
  .getting fun _ => .accessing (getReg_access _ _) fun _ => (segWrite_access _ _ _ _).guard

theorem exchange_guard {w : Width} {rm : RM} {r : Reg} : Keeps (Guard q) (exchange w rm r) :=
  .accessing (locate_access _ _ _ _) fun _ => .accessing (getReg_access _ _) fun _ =>
    .seq (lockedIf_guard _ <| .accessing (readLoc_access _ _) fun _ => .seq (writeLoc_guard _ _ _) fun _ => .done) fun _ =>
      setReg_guard _ _ _

theorem pushReg_guard {w : Width} {r : Reg} : Keeps (Guard q) (pushReg w r) :=
  .accessing (getReg_access _ _) fun _ => push_guard _ _

theorem pushRM_guard {w : Width} {rm : RM} : Keeps (Guard q) (pushRM w rm) :=
  .accessing (readRM_access _ _) fun _ => push_guard _ _

theorem pushSeg_guard {w : Width} {r : SReg} : Keeps (Guard q) (pushSeg w r) := .getting fun _ => push_guard _ _

theorem pushAllRegs_guard {w : Width} : Keeps (Guard q) (pushAllRegs w) :=
  .getting fun _ => .accessing (probePushes_access _ _) fun _ => partway_guard (pushAll_guard _ _)

theorem popReg_guard {w : Width} {r : Reg} : Keeps (Guard q) (popReg w r) :=
  .seq (pop_guard _) fun _ => setReg_guard _ _ _

theorem popRM_guard {w : Width} {rm : RM} : Keeps (Guard q) (popRM w rm) :=
  .seq (pop_guard _) fun _ => writeRM_guard _ _ _

theorem popAllRegs_guard {w : Width} : Keeps (Guard q) (popAllRegs w) :=
  .seq (pop_guard _) fun _ => .seq (pop_guard _) fun _ => .seq (pop_guard _) fun _ => .seq (pop_guard _) fun _ =>
  .seq (pop_guard _) fun _ => .seq (pop_guard _) fun _ => .seq (pop_guard _) fun _ => .seq (pop_guard _) fun _ =>
  .seq (setReg_guard _ _ _) fun _ => .seq (setReg_guard _ _ _) fun _ => .seq (setReg_guard _ _ _) fun _ =>
  .seq (setReg_guard _ _ _) fun _ => .seq (setReg_guard _ _ _) fun _ => .seq (setReg_guard _ _ _) fun _ =>
  setReg_guard _ _ _

theorem convertByte_guard : Keeps (Guard q) convertByte := .accessing (getReg_access _ _) fun _ => setReg_guard _ _ _

theorem convertWord_guard : Keeps (Guard q) convertWord := .accessing (getReg_access _ _) fun _ => setReg_guard _ _ _

theorem spreadSign_guard {w : Width} : Keeps (Guard q) (spreadSign w) :=
  .accessing (getReg_access _ _) fun _ => setReg_guard _ _ _

theorem moveSigned_guard {w v : Width} {r : Reg} {rm : RM} : Keeps (Guard q) (moveSigned w v r rm) :=
  .accessing (readRM_access _ _) fun _ => setReg_guard _ _ _

theorem moveZero_guard {w v : Width} {r : Reg} {rm : RM} : Keeps (Guard q) (moveZero w v r rm) :=
  .accessing (readRM_access _ _) fun _ => setReg_guard _ _ _

/-! ## Near transfers -/

theorem jumpNear_guard {t : Word32} : Keeps (Guard q) (jumpNear t) :=
  .getting fun _ => .checking fun _ => jump_guard _

theorem jumpRel_guard {rel : Word32} : Keeps (Guard q) (jumpRel rel) := .getting fun _ => jumpNear_guard

theorem jumpIndirect_guard {w : Width} {rm : RM} : Keeps (Guard q) (jumpIndirect w rm) :=
  .accessing (readRM_access _ _) fun _ => jumpNear_guard

theorem callNear_guard {w : Width} {t : Word32} : Keeps (Guard q) (callNear w t) :=
  .getting fun _ => .checking fun _ => .seq (push_guard _ _) fun _ => jump_guard _

theorem callRel_guard {w : Width} {rel : Word32} : Keeps (Guard q) (callRel w rel) := .getting fun _ => callNear_guard

theorem callIndirect_guard {w : Width} {rm : RM} : Keeps (Guard q) (callIndirect w rm) :=
  .accessing (readRM_access _ _) fun _ => callNear_guard

theorem returnNear_guard {w : Width} {extra : Word16} : Keeps (Guard q) (returnNear w extra) :=
  .accessing (stackRead_access _ _) fun _ => .getting fun _ => .checking fun _ =>
    .seq (.modify fun _ => .of_rfl) fun _ => jump_guard _

/-! ## Far transfers -/

theorem pushReturn_guard {w : Width} : Keeps (Guard q) (pushReturn w) :=
  .getting fun _ => .accessing (probePushes_access _ _) fun _ => .seq (push_guard _ _) fun _ => push_guard _ _

theorem farSame_guard {k : FarKind} {w : Width} {sel : Word16} {d : Desc} {off : Word32} :
    Keeps (Guard q) (farSame k w sel d off) :=
  .getting fun _ => .optional .checked fun _ => .checking fun _ => .optional pushReturn_guard fun _ =>
    enterCode_guard _ _ _

theorem farCode_guard {k : FarKind} {w : Width} {sel : Word16} {d : Desc} {off : Word32} :
    Keeps (Guard q) (farCode k w sel d off) :=
  .getting fun _ => .checking fun _ => .checking fun _ => farSame_guard

theorem gateTarget_guard {sel : Word16} {g : Desc} : Keeps (Guard q) (gateTarget sel g) :=
  .getting fun _ => .checking fun _ => .checking fun _ => .checking fun _ => .accessing (readDesc_access _ _) fun _ =>
    .checking fun _ => .done

theorem jumpGate_guard {sel : Word16} {g : Desc} : Keeps (Guard q) (jumpGate sel g) :=
  .seq gateTarget_guard fun _ => .getting fun _ => .checking fun _ => .checking fun _ => .checking fun _ =>
    enterCode_guard _ _ _

theorem readParams_guard : ∀ (n : Nat) (off : Word32), Keeps (Guard q) (readParams n off)
  | 0, _ => .done
  | n + 1, _ => .accessing (stackRead_access _ _) fun _ => .seq (readParams_guard n _) fun _ => .done

theorem callInner_guard {g c : Desc} : Keeps (Guard true) (callInner g c) :=
  .getting fun _ => .accessing (innerStack_access _) fun _ => .checking fun _ => .checking fun _ =>
    .seq (readParams_guard _ _) fun _ => .seq (enterInner_guard _ _ _ _) fun _ =>
      partway_guard <| .seq (pushSystem_guard _ _) fun _ => .seq (pushSystem_guard _ _) fun _ =>
        .seq (pushAllSystem_guard _) fun _ => .seq (pushSystem_guard _ _) fun _ => .seq (pushSystem_guard _ _) fun _ =>
          enterCode_guard _ _ _

theorem callGate_guard {sel : Word16} {g : Desc} : Keeps (Guard true) (callGate sel g) :=
  .seq gateTarget_guard fun _ => .getting fun _ => .checking fun _ => .checking fun _ => .ite farSame_guard callInner_guard

theorem farTask_guard {k : FarKind} {sel : Word16} : Keeps (Guard true) (farTask k sel) :=
  .getting fun _ => .seq (taskSwitch_guard _ _ _) fun _ => finishTask_guard _

theorem farProtected_guard {k : FarKind} {w : Width} {sel : Word16} {off : Word32} :
    Keeps (Guard true) (farProtected k w sel off) :=
  .getting fun _ => .checking fun _ => .accessing (readDesc_access _ _) fun _ =>
    .ite farCode_guard <|
    .ite (match k with
      | .jmp => jumpGate_guard
      | .call => callGate_guard) <|
    .ite (.checking fun _ => farTask_guard) <|
    .ite (.checking fun _ => .checking fun _ => farTask_guard) <|
    .ite .refused .raised

theorem farReal_guard {k : FarKind} {w : Width} {sel : Word16} {off : Word32} : Keeps (Guard q) (farReal k w sel off) :=
  .getting fun _ => .checking fun _ => .optional pushReturn_guard fun _ => enterRealCode_guard _ _

theorem farTransfer_guard {k : FarKind} {w : Width} {sel : Word16} {off : Word32} :
    Keeps (Guard q) (farTransfer k w sel off) :=
  ite_pe_guard (fun _ => farProtected_guard) fun _ => farReal_guard

theorem farIndirect_guard {k : FarKind} {w : Width} {m : Mem} : Keeps (Guard q) (farIndirect k w m) :=
  .getting fun _ => .accessing (segRead_access _ _ _) fun _ => .accessing (segRead_access _ _ _) fun _ => farTransfer_guard

theorem returnFarReal_guard {w : Width} {extra : Word16} : Keeps (Guard q) (returnFarReal w extra) :=
  .seq (pop_guard _) fun _ => .seq (pop_guard _) fun _ => .getting fun _ => .checking fun _ =>
    .seq (enterRealCode_guard _ _) fun _ => .modify fun _ => .of_rfl

theorem returnFarProtected_guard {w : Width} {extra : Word16} : Keeps (Guard true) (returnFarProtected w extra) :=
  .getting fun _ => .checking fun _ => .accessing (stackRead_access _ _) fun _ => .accessing (stackRead_access _ _) fun _ =>
    .accessing (checkReturnCode_access _) fun _ => .ite
      (.checking fun _ => .accessing (stackRead_access _ _) fun _ => .accessing (stackRead_access _ _) fun _ =>
        .accessing (checkReturnStack_access _ _) fun _ => .checking fun _ => .seq (returnCode_guard _ _ _) fun _ =>
          leaveInner_guard _ _ _)
      (.checking fun _ => .seq (returnCode_guard _ _ _) fun _ => .modify fun _ => .of_rfl)

theorem returnFar_guard {w : Width} {extra : Word16} : Keeps (Guard q) (returnFar w extra) :=
  ite_pe_guard (fun _ => returnFarProtected_guard) fun _ => returnFarReal_guard

/-- IRET: what protected mode does keeps the mode, and the NMI latch is no part of the invariant. -/
theorem interruptReturn_guard {sz : Size} : Keeps (Guard q) (interruptReturn sz) := by
  have fin : Keeps (Guard q) (modify fun t => { t with nmiLatch := false, cur := { t.cur with keepRf := true } } : M Unit) :=
    .modify fun _ => .of_rfl
  refine .get_bind fun s => ?_
  cases pe : s.cr0.pe
  · exact (Keeps.seq (iretReal_guard _ _) fun _ => fin).run s
  · cases s.flags.nt
    · exact .of_prot pe ((Keeps.seq (iretFrame_guard _ _) fun _ => .modify fun _ => .of_rfl).run s)
    · exact .of_prot pe ((Keeps.seq iretTask_guard fun _ => .modify fun _ => .of_rfl).run s)

/-! ## Conditional transfers and software interrupts -/

theorem jumpIf_guard {c : Cond} {d : RelDisp} : Keeps (Guard q) (jumpIf c d) :=
  .getting fun _ => .ite jumpRel_guard .done

theorem loopWhile_guard {ok : Bool → Bool} {imm : Byte} : Keeps (Guard q) (loopWhile ok imm) :=
  .getting fun _ => .seq (setReg_guard _ _ _) fun _ => .ite jumpRel_guard .done

theorem jumpIfZero_guard {w : Width} {imm : Byte} : Keeps (Guard q) (jumpIfZero w imm) :=
  .accessing (getReg_access _ _) fun _ => .ite jumpRel_guard .done

theorem interruptOnOverflow_guard : Keeps (Guard q) interruptOnOverflow :=
  .getting fun _ => .ite (softInterrupt_guard _) .done

theorem checkBounds_guard {w : Width} {r : Reg} {m : Mem} : Keeps (Guard q) (checkBounds w r m) :=
  .getting fun _ => .accessing (segRead_access _ _ _) fun _ => .accessing (segRead_access _ _ _) fun _ =>
    .accessing (getReg_access _ _) fun _ => .checked

/-! ## Decimal adjustment -/

theorem adjustPacked_guard {result : Byte → Bool → Bool → Byte} : Keeps (Guard q) (adjustPacked result) :=
  .getting fun _ => .accessing (getReg_access _ _) fun _ => .seq (setReg_guard _ _ _) fun _ => setEffect_guard _

theorem adjustAsciiAdd_guard : Keeps (Guard q) adjustAsciiAdd :=
  .getting fun _ => .accessing (getReg_access _ _) fun _ => .accessing (getReg_access _ _) fun _ =>
    .seq (setReg_guard _ _ _) fun _ => .seq (setReg_guard _ _ _) fun _ => setEffect_guard _

theorem adjustAsciiSub_guard : Keeps (Guard q) adjustAsciiSub :=
  .getting fun _ => .accessing (getReg_access _ _) fun _ => .accessing (getReg_access _ _) fun _ =>
    .seq (setReg_guard _ _ _) fun _ => .seq (setReg_guard _ _ _) fun _ => setEffect_guard _

theorem adjustAfterMul_guard {imm : Byte} : Keeps (Guard q) (adjustAfterMul imm) :=
  .checking fun _ => .accessing (getReg_access _ _) fun _ => .seq (setReg_guard _ _ _) fun _ =>
    .seq (setReg_guard _ _ _) fun _ => setEffect_guard _

theorem adjustBeforeDiv_guard {imm : Byte} : Keeps (Guard q) (adjustBeforeDiv imm) :=
  .accessing (getReg_access _ _) fun _ => .accessing (getReg_access _ _) fun _ => .seq (setReg_guard _ _ _) fun _ =>
    .seq (setReg_guard _ _ _) fun _ => setEffect_guard _

/-! ## Ports and the coprocessor -/

theorem portBitClear_guard {s : State} {base port : Nat} : Keeps (Guard q) (portBitClear s base port) :=
  .ite .done (.accessing (linRead_access _ _ _) fun _ => .done)

theorem portBitsClear_guard {s : State} {base : Nat} : ∀ port n, Keeps (Guard q) (portBitsClear s base port n)
  | _, 0 => .done
  | _, n + 1 => .seq portBitClear_guard fun _ => .ite (portBitsClear_guard _ n) .done

theorem ioPermitted_guard {port : Word16} {n : Nat} : Keeps (Guard q) (ioPermitted port n) :=
  .getting fun _ => .ite .done (.accessing (linRead_access _ _ _) fun _ => .ite .done (portBitsClear_guard _ _))

theorem ioCheck_guard {port : Word16} {n : Nat} : Keeps (Guard q) (ioCheck port n) := by
  have past : Keeps (Guard q) (if 0x10000 < port.toNat + n then refuse .portPastEnd else pure ()) := .ite .refused .done
  exact .getting fun _ => .ite (.seq ioPermitted_guard fun _ => .seq .checked fun _ => past) past

theorem portInPiece_guard {port : Word16} {n : Nat} : Keeps (Guard q) (portInPiece port n) :=
  .accessing busCycle_access fun _ => .accessing draw_access fun _ => .seq (.modify fun _ => .of_rfl) fun _ => .done

theorem portOutPiece_guard {port : Word16} {n : Nat} {v : Word32} : Keeps (Guard q) (portOutPiece port n v) :=
  .accessing busCycle_access fun _ => .modify fun _ => .of_rfl

theorem portIn_guard {w : Width} {port : Word16} : Keeps (Guard q) (portIn w port) :=
  .ite (.seq portInPiece_guard fun _ => .done) <| .accessing drawSplit_access fun _ => .ite
    (.seq portInPiece_guard fun _ => .seq portInPiece_guard fun _ => .done)
    (.seq portInPiece_guard fun _ => .seq portInPiece_guard fun _ => .done)

theorem portOut_guard {w : Width} {port : Word16} {v : Val w} : Keeps (Guard q) (portOut w port v) :=
  .ite portOutPiece_guard <| .accessing drawSplit_access fun _ => .ite
    (.seq portOutPiece_guard fun _ => portOutPiece_guard) (.seq portOutPiece_guard fun _ => portOutPiece_guard)

theorem inputFrom_guard {w : Width} {port : M Word16} (h : Keeps (Guard q) port) : Keeps (Guard q) (inputFrom w port) :=
  .seq h fun _ => .seq ioCheck_guard fun _ => .seq portIn_guard fun _ => setReg_guard _ _ _

theorem outputTo_guard {w : Width} {port : M Word16} (h : Keeps (Guard q) port) : Keeps (Guard q) (outputTo w port) :=
  .seq h fun _ => .seq ioCheck_guard fun _ => .accessing (getReg_access _ _) fun _ => portOut_guard

theorem escape_guard : Keeps (Guard q) escape :=
  .getting fun _ => .checking fun _ => .checking fun _ => .ite .done (.checking fun _ => .refused)

theorem waitCoprocessor_guard : Keeps (Guard q) waitCoprocessor :=
  .getting fun _ => .checking fun _ => .ite .done (.ite (.modify fun _ => .of_rfl) .checked)

/-! ## Bits, shifts, rotates and conditions -/

theorem invert_guard {w : Width} {rm : RM} : Keeps (Guard q) (invert w rm) := modifyRM_guard fun _ => .done

theorem testWith_guard {w : Width} {rm : RM} {src : M (Val w)} (h : Keeps (Guard q) src) :
    Keeps (Guard q) (testWith w rm src) :=
  .accessing (readRM_access _ _) fun _ => .seq h fun _ => setEffect_guard _

theorem bitTestAt_guard {op : BitOp} {w : Width} {l : Loc} {k : Nat} : Keeps (Guard q) (bitTestAt op w l k) :=
  .getting fun _ => lockedIf_guard _ <| .accessing (readLoc_access _ _) fun _ => .seq (setEffect_guard _) fun _ =>
    .ite (writeLoc_guard _ _ _) .done

theorem bitTestReg_guard {op : BitOp} {w : Width} {rm : RM} {r : Reg} : Keeps (Guard q) (bitTestReg op w rm r) := by
  cases rm with
  | reg d => exact .accessing (getReg_access _ _) fun _ => bitTestAt_guard
  | mem m =>
    exact .accessing (getReg_access _ _) fun _ => .getting fun _ => .accessing (memLoc_access _ _ _ _ _) fun _ =>
      bitTestAt_guard

theorem bitTestImm_guard {op : BitOp} {w : Width} {rm : RM} {imm : Byte} : Keeps (Guard q) (bitTestImm op w rm imm) :=
  .accessing (locate_access _ _ _ _) fun _ => bitTestAt_guard

theorem bitScan_guard {forward : Bool} {w : Width} {r : Reg} {rm : RM} : Keeps (Guard q) (bitScan forward w r rm) :=
  .accessing (readRM_access _ _) fun a => by
    cases scanBit forward a with
    | some i => exact .seq (setEffect_guard _) fun _ => setReg_guard _ _ _
    | none => exact .seq (setEffect_guard _) fun _ => .accessing draw_access fun _ => setReg_guard _ _ _

theorem countOf_guard {c : ShiftCount} : Keeps (Guard q) (countOf c) := by
  cases c with
  | one => exact .done
  | cl => exact (getReg_access _ _).guard
  | imm v => exact .done

theorem shift_guard {op : ShiftOp} {w : Width} {rm : RM} {c : ShiftCount} : Keeps (Guard q) (shift op w rm c) :=
  .seq countOf_guard fun _ => .accessing (locate_access _ _ _ _) fun _ => .ite .done <|
    .accessing (readLoc_access _ _) fun _ => .getting fun _ => .seq (setEffect_guard _) fun _ => writeLoc_guard _ _ _

theorem doubleShift_guard {left : Bool} {w : Width} {rm : RM} {r : Reg} {c : ShiftCount} :
    Keeps (Guard q) (doubleShift left w rm r c) :=
  .seq countOf_guard fun _ => .accessing (locate_access _ _ _ _) fun _ => .ite .done <|
    .accessing (readLoc_access _ _) fun _ => .accessing (getReg_access _ _) fun _ => .ite
      (.seq (setEffect_guard _) fun _ => writeLoc_guard _ _ _)
      (.seq (setEffect_guard _) fun _ => .accessing draw_access fun _ => writeLoc_guard _ _ _)

theorem setOn_guard {c : Cond} {rm : RM} : Keeps (Guard q) (setOn c rm) := .getting fun _ => writeRM_guard _ _ _

/-! ## Segment registers, far pointers, LEA and XLAT -/

theorem storeSelector_guard {rm : RM} {v : Word16} : Keeps (Guard q) (storeSelector rm v) :=
  .getting fun s => by
    cases rm with
    | reg r => cases s.cur.opSize <;> exact setReg_guard _ _ _
    | mem m => exact writeRM_guard _ _ _

theorem movFromSeg_guard {rm : RM} {n : BitVec 3} : Keeps (Guard q) (movFromSeg rm n) :=
  .getting fun s => by
    cases sregOf n with
    | some r => exact storeSelector_guard
    | none => exact .raised

theorem inhibitAfter_guard {r : SReg} : Keeps (Guard q) (inhibitAfter r) := .ite (.modify fun _ => .of_rfl) .done

theorem movToSeg_guard {n : BitVec 3} {rm : RM} : Keeps (Guard q) (movToSeg n rm) := by
  unfold movToSeg
  cases sregOf n with
  | none => exact .raised
  | some r =>
    exact .ite .raised <| .accessing (readRM_access _ _) fun _ => .seq (loadSeg_guard _ _) fun _ => inhibitAfter_guard

theorem popSeg_guard {w : Width} {r : SReg} : Keeps (Guard q) (popSeg w r) :=
  .getting fun _ => .accessing (stackRead_access _ _) fun _ => .seq (loadSeg_guard _ _) fun _ =>
    .seq (.modify fun _ => .of_rfl) fun _ => inhibitAfter_guard

theorem loadFar_guard {w : Width} {sr : SReg} {r : Reg} {m : Mem} : Keeps (Guard q) (loadFar w sr r m) :=
  .getting fun _ => .accessing (segRead_access _ _ _) fun _ => .accessing (segRead_access _ _ _) fun _ =>
    .seq (loadSeg_guard _ _) fun _ => setReg_guard _ _ _

theorem loadAddress_guard {w : Width} {r : Reg} {m : Mem} : Keeps (Guard q) (loadAddress w r m) :=
  .getting fun _ => setReg_guard _ _ _

theorem translateByte_guard : Keeps (Guard q) translateByte :=
  .getting fun _ => .accessing (segRead_access _ _ _) fun _ => setReg_guard _ _ _

/-! ## Strings -/

theorem advance_guard {w : Width} {r : Reg} : Keeps (Guard q) (advance w r) := .getting fun _ => setReg_guard _ _ _

theorem readSource_access {w : Width} : Keeps Access (readSource w) :=
  .bind Access.order (.get Access.order) fun _ => segRead_access _ _ _

theorem readDest_access {w : Width} : Keeps Access (readDest w) :=
  .bind Access.order (.get Access.order) fun _ => segRead_access _ _ _

theorem writeDest_access {w : Width} {v : Val w} : Keeps Access (writeDest w v) :=
  .bind Access.order (.get Access.order) fun _ => segWrite_access _ _ _ _

theorem moveString_guard {w : Width} : Keeps (Guard q) (moveString w) :=
  .accessing readSource_access fun _ => .accessing writeDest_access fun _ => .seq advance_guard fun _ => advance_guard

theorem compareString_guard {w : Width} : Keeps (Guard q) (compareString w) :=
  .accessing readSource_access fun _ => .accessing readDest_access fun _ => .seq (setEffect_guard _) fun _ =>
    .seq advance_guard fun _ => advance_guard

theorem scanString_guard {w : Width} : Keeps (Guard q) (scanString w) :=
  .accessing readDest_access fun _ => .accessing (getReg_access _ _) fun _ => .seq (setEffect_guard _) fun _ => advance_guard

theorem loadString_guard {w : Width} : Keeps (Guard q) (loadString w) :=
  .accessing readSource_access fun _ => .seq (setReg_guard _ _ _) fun _ => advance_guard

theorem storeString_guard {w : Width} : Keeps (Guard q) (storeString w) :=
  .accessing (getReg_access _ _) fun _ => .accessing writeDest_access fun _ => advance_guard

theorem inputString_guard {w : Width} : Keeps (Guard q) (inputString w) :=
  .accessing (getReg_access _ _) fun _ => .seq ioCheck_guard fun _ => .getting fun _ =>
    .accessing (memLoc_access _ _ _ _ _) fun _ => .seq portIn_guard fun _ => .seq (writeLoc_guard _ _ _) fun _ => advance_guard

theorem outputString_guard {w : Width} : Keeps (Guard q) (outputString w) :=
  .accessing (getReg_access _ _) fun _ => .seq ioCheck_guard fun _ => .accessing readSource_access fun _ =>
    .seq portOut_guard fun _ => advance_guard

theorem repeatString_guard {compares : Bool} {m : M Unit} (h : Keeps (Guard q) m) :
    Keeps (Guard q) (repeatString compares m) :=
  .getting fun s => by
    cases s.cur.rep with
    | none => exact h
    | some p =>
      exact .ite .done <| .seq h fun _ => .getting fun _ => .seq (setReg_guard _ _ _) fun _ =>
        .ite .done (.modify fun _ => .of_rfl)

/-! ## System instructions -/

theorem privileged_access : Keeps Access privileged :=
  .bind Access.order (.get Access.order) fun _ => .require Access.order _ _

/-- A privileged instruction goes on at CPL 0 only, and in the state as it was. -/
theorem privileged_eq_ok {s t : State} {a : Unit} (h : privileged s = .ok a t) : t = s ∧ s.cpl = 0 := by
  obtain ⟨c, rfl⟩ := require_eq_ok.mp (show require (s.cpl == 0) gp0 s = .ok () t from h)
  exact ⟨rfl, eq_of_beq c⟩

theorem protectedOnly_access : Keeps Access protectedOnly :=
  .bind Access.order (.get Access.order) fun _ => .require Access.order _ _

theorem readTable_access {m : Mem} : Keeps Access (readTable m) :=
  .bind Access.order (.get Access.order) fun _ => .bind Access.order (segRead_access _ _ _) fun _ =>
    .bind Access.order (segRead_access _ _ _) fun _ => .pure Access.order _

theorem loadGdt_guard {m : Mem} : Keeps (Guard q) (loadGdt m) :=
  .accessing privileged_access fun _ => .accessing readTable_access fun _ => .modify fun _ => .of_rfl

theorem loadIdt_guard {m : Mem} : Keeps (Guard q) (loadIdt m) :=
  .accessing privileged_access fun _ => .accessing readTable_access fun _ => .modify fun _ => .of_rfl

theorem storeTable_guard {m : Mem} {t : TableReg} : Keeps (Guard q) (storeTable m t) :=
  .getting fun _ => .accessing draw_access fun _ => .accessing (memLoc_access _ _ _ _ _) fun _ =>
    .accessing (memLoc_access _ _ _ _ _) fun _ => .seq (writeLoc_guard _ _ _) fun _ => writeLoc_guard _ _ _

theorem storeGdt_guard {m : Mem} : Keeps (Guard q) (storeGdt m) := .getting fun _ => storeTable_guard

theorem storeIdt_guard {m : Mem} : Keeps (Guard q) (storeIdt m) := .getting fun _ => storeTable_guard

theorem loadLdt_guard {rm : RM} : Keeps (Guard q) (loadLdt rm) :=
  .accessing protectedOnly_access fun _ => .accessing privileged_access fun _ => .accessing (readRM_access _ _) fun _ => .ite
    (.modify fun _ => .of_rfl)
    (.checking fun _ => .accessing (readDesc_access _ _) fun _ => .checking fun _ => .checking fun _ =>
      .modify fun _ => .of_rfl)

theorem storeLdt_guard {rm : RM} : Keeps (Guard q) (storeLdt rm) :=
  .accessing protectedOnly_access fun _ => .getting fun _ => storeSelector_guard

theorem loadTask_guard {rm : RM} : Keeps (Guard q) (loadTask rm) :=
  .accessing protectedOnly_access fun _ => .accessing privileged_access fun _ => .accessing (readRM_access _ _) fun _ =>
    .checking fun _ => .checking fun _ => .accessing (readDesc_access _ _) fun _ => .optional .refused fun _ =>
      .checking fun _ => .checking fun _ => .accessing (setBusy_access _ _) fun _ => .modify fun _ => .of_rfl

theorem storeTask_guard {rm : RM} : Keeps (Guard q) (storeTask rm) :=
  .accessing protectedOnly_access fun _ => .getting fun _ => storeSelector_guard

/-- LMSW can set PE and not clear it, so that CPL 0 in real-address mode and PG in protected mode only both stay. -/
theorem loadMsw_guard {rm : RM} : Keeps (Guard q) (loadMsw rm) :=
  .accessing privileged_access fun _ => .accessing (readRM_access _ _) fun v => .modify fun s => by
    rintro ⟨⟨hmem, hcpl, hvm, hpg, hcr3⟩, hpe⟩
    refine ⟨⟨hmem, fun pe => hcpl ?_, hvm, fun pg => ?_, hcr3⟩, fun k => ?_⟩
    · exact (Bool.or_eq_false_iff.mp pe).1
    · exact Bool.or_eq_true_iff.mpr (.inl (hpg pg))
    · exact Bool.or_eq_true_iff.mpr (.inl (hpe k))

theorem storeMsw_guard {rm : RM} : Keeps (Guard q) (storeMsw rm) :=
  .getting fun s => .accessing draw_access fun _ => by
    cases rm with
    | reg r =>
      cases s.cur.opSize with
      | s16 => exact setReg_guard _ _ _
      | s32 => exact .accessing draw_access fun _ => setReg_guard _ _ _
    | mem m => exact writeRM_guard _ _ _

theorem clearTaskSwitched_guard : Keeps (Guard q) clearTaskSwitched :=
  .accessing privileged_access fun _ => .modify fun _ h => h

theorem readControl_guard {r : Reg} {n : BitVec 3} : Keeps (Guard q) (readControl r n) :=
  .accessing privileged_access fun _ => .getting fun _ => .accessing draw_access fun _ => by
    split
    · exact .seq (setReg_guard _ _ _) fun _ => setEffect_guard _
    · exact .seq (setReg_guard _ _ _) fun _ => setEffect_guard _
    · exact .seq (setReg_guard _ _ _) fun _ => setEffect_guard _
    · exact .seq .raised fun _ => setEffect_guard _

/-- A CR0 whose PG needs PE, loaded at CPL 0. -/
theorem State.setCr0_inv {s : State} {c : Cr0} (hs : s.Inv) (hcpl : s.cpl = 0) (hc : c.pg = true → c.pe = true) :
    (s.setCr0 c).Inv := by
  obtain ⟨hmem, -, hvm, -, hcr3⟩ := hs
  unfold State.setCr0
  split
  · exact ⟨hmem, fun _ => hcpl, hvm, hc, hcr3⟩
  · exact ⟨hmem, fun _ => hcpl, hvm, hc, hcr3⟩

theorem State.setCr3_guard (s : State) (v : Word32) : Guard q s (s.setCr3 v) := by
  rintro ⟨⟨hmem, hcpl, hvm, hpg, -⟩, hpe⟩
  have low : (v &&& 0xFFFFF000).extractLsb' 0 12 = 0 := by simp [BitVec.extractLsb'_and]
  unfold State.setCr3
  split
  · exact ⟨⟨hmem, hcpl, hvm, hpg, low⟩, hpe⟩
  · exact ⟨⟨hmem, hcpl, hvm, hpg, low⟩, hpe⟩

/-- MOV to CR0 at CPL 0: a value with PG and without PE is refused. -/
theorem writeCr0_inv {s : State} (v : Word32) (hs : s.Inv) (hcpl : s.cpl = 0) : (after (writeCr0 v s)).Inv := by
  unfold writeCr0
  cases pg : v.getLsbD 31
  · exact State.setCr0_inv hs hcpl fun h => nomatch pg.symm.trans h
  · cases pe : v.getLsbD 0
    · exact hs
    · exact State.setCr0_inv hs hcpl fun _ => pe

/-- MOV to a control register may leave protected mode, so it keeps the invariant and not the mode. -/
theorem writeControl_guard {n : BitVec 3} {r : Reg} : Keeps (Guard false) (writeControl n r) :=
  .bind' (Guard.order false) privileged_access.guard fun _ s t h => by
    obtain ⟨rfl, hcpl⟩ := privileged_eq_ok h
    have thenFlags (m : M Unit) (hm : Guard false t (after (m t))) :
        Guard false t (after ((m >>= fun _ => setEffect allUndef) t)) :=
      Keeps.bind_at (Guard.order false) hm fun _ => setEffect_guard _
    generalize n.toNat = k
    match k with
    | 0 => exact thenFlags _ fun ⟨hs, _⟩ => ⟨writeCr0_inv _ hs hcpl, nofun⟩
    | 2 => exact thenFlags (modify fun s => { s with cr2 := t.regs.read .b32 r }) .of_rfl
    | 3 => exact thenFlags (modify fun s => s.setCr3 (t.regs.read .b32 r)) (State.setCr3_guard _ _)
    | 1 | _ + 4 => exact thenFlags (raise ud) .of_rfl

theorem readDebug_guard {r : Reg} {n : BitVec 3} : Keeps (Guard q) (readDebug r n) :=
  .accessing privileged_access fun _ => .getting fun _ => .seq (setReg_guard _ _ _) fun _ => setEffect_guard _

theorem writeDebug_guard {n : BitVec 3} {r : Reg} : Keeps (Guard q) (writeDebug n r) :=
  .accessing privileged_access fun _ => .accessing (getReg_access _ _) fun _ => .optional .refused fun _ =>
    .seq (.modify fun _ => .of_rfl) fun _ => setEffect_guard _

theorem readTest_guard {r : Reg} {n : BitVec 3} : Keeps (Guard q) (readTest r n) :=
  .checking fun _ => .accessing privileged_access fun _ => .getting fun _ => by
    split
    · exact .seq (setReg_guard _ _ _) fun _ => setEffect_guard _
    · exact .seq (setReg_guard _ _ _) fun _ => setEffect_guard _
    · exact .seq .raised fun _ => setEffect_guard _

theorem writeTest_guard {n : BitVec 3} {r : Reg} : Keeps (Guard q) (writeTest n r) :=
  .checking fun _ => .accessing privileged_access fun _ => .accessing (getReg_access _ _) fun _ => by
    split
    · exact .seq .refused fun _ => setEffect_guard _
    · exact .seq (.modify fun _ => .of_rfl) fun _ => setEffect_guard _
    · exact .seq .raised fun _ => setEffect_guard _

theorem setZero_guard {b : Bool} : Keeps (Guard q) (setZero b) := setFlags_guard fun _ => rfl

theorem adjustRpl_guard {rm : RM} {r : Reg} : Keeps (Guard q) (adjustRpl rm r) :=
  .accessing protectedOnly_access fun _ => .accessing (getReg_access _ _) fun _ => .accessing (locate_access _ _ _ _) fun _ =>
    .accessing (readRM_access _ _) fun _ => .ite
      (.accessing (locate_access _ _ _ _) fun _ => .seq (writeLoc_guard _ _ _) fun _ => setZero_guard) setZero_guard

theorem inspectDesc_access {sel : Word16} : Keeps Access (inspectDesc sel) :=
  .ite (.pure Access.order _) (findDesc_access _)

theorem inspectInto_guard {w : Width} {ok : Desc → Bool} {value : Desc → Word32} {r : Reg} {rm : RM} :
    Keeps (Guard q) (inspectInto w ok value r rm) :=
  .accessing protectedOnly_access fun _ => .accessing (readRM_access _ _) fun _ => .getting fun _ =>
    .accessing inspectDesc_access fun found => by
      cases found with
      | some d => exact .ite (.seq (setReg_guard _ _ _) fun _ => setZero_guard) setZero_guard
      | none => exact setZero_guard

theorem verify_guard {ok : Desc → Bool} {rm : RM} : Keeps (Guard q) (verify ok rm) :=
  .accessing protectedOnly_access fun _ => .accessing (readRM_access _ _) fun _ => .getting fun _ =>
    .accessing inspectDesc_access fun found => by
      cases found with
      | some d => exact setZero_guard
      | none => exact setZero_guard

theorem halt_guard : Keeps (Guard q) halt := .accessing privileged_access fun _ => .modify fun _ => .of_rfl

theorem sensitive_guard : Keeps (Guard q) sensitive := .getting fun _ => .checked

theorem clearInterrupts_guard : Keeps (Guard q) clearInterrupts :=
  .seq sensitive_guard fun _ => setFlags_guard fun _ => rfl

theorem setInterrupts_guard : Keeps (Guard q) setInterrupts := .seq sensitive_guard fun _ => .modify fun _ => .of_rfl

end

end Sys2Proof.Machine

/-! # Every step keeps the invariant

What arrives from outside, the events of a boundary, the fetch, and the instruction (00_scope.md R16, R17). -/

namespace Sys2Proof.Machine

/-! ## What arrives from outside -/

theorem State.receive_inv {s : State} (hs : s.Inv) (i : Input) : (s.receive i).Inv := by
  obtain ⟨hmem, rest⟩ := hs
  cases i with
  | reset => exact ⟨hmem, fun _ => rfl, rfl, id, rfl⟩
  | master cells =>
    have h := (Access.masterBytes cells { s with cur := s.curAt .s16 }).guard (q := false)
    exact (h ⟨⟨hmem, rest⟩, nofun⟩).1
  | quiet | intr | nmi | busy | error => exact ⟨hmem, rest⟩

theorem State.absorb_inv {s : State} (hs : s.Inv) : s.absorb.Inv := by
  unfold State.absorb
  split
  · exact hs
  · rename_i i rest _
    exact State.receive_inv (s := { s with inputs := rest }) hs i

/-! ## The events of a boundary -/

theorem State.accept_inv {s : State} (hs : s.Inv) (p : Pending) : (s.accept p).Inv := by
  cases p <;> exact hs

theorem takePending_inv {p : Pending} {s t : State} (hs : s.Inv) (h : takePending p s = .next t) : t.Inv := by
  have d := (deliver_guard (q := false) (p.event s.eip)).run (s.accept p) ⟨State.accept_inv hs p, nofun⟩
  unfold takePending at h
  cases e : deliver (p.event s.eip) (s.accept p) with
  | ok _ u =>
    rw [e] at h d
    cases h
    exact d.1
  | error x u =>
    rw [e] at h d
    cases x with
    | refuse r => cases h
    | exc x => cases h; exact d.1
    | shutdown => cases h; exact d.1

/-! ## The fetch -/

theorem seenByte_access {off pa : Word32} {now : Byte} : Keeps Access (seenByte off pa now) :=
  .bind Access.order (.get Access.order) fun s => by
    cases staleBytes s.prefetch off pa with
    | nil => exact .pure Access.order _
    | cons b bs => exact .bind Access.order drawPrefetch_access fun _ => .pure Access.order _

theorem fetchByte_guard {q : Bool} : Keeps (Guard q) fetchByte :=
  .getting fun _ => .checking fun _ => .checking fun _ => .accessing (linResolve_access _ _ _ _ _) fun _ =>
    .accessing (physRead_access _) fun _ => .accessing seenByte_access fun _ => .seq (.modify fun _ => .of_rfl) fun _ => .done

theorem fetchMore_guard {q : Bool} (n : Nat) : ∀ bytes, Keeps (Guard q) (fetchMore n bytes) := by
  induction n with
  | zero =>
    intro bytes
    unfold fetchMore
    refine .getting fun s => ?_
    split
    · exact .done
    · exact .raised
    · exact .raised
    · exact .raised
  | succ n ih =>
    intro bytes
    unfold fetchMore
    refine .getting fun s => ?_
    split
    · exact .done
    · exact .seq fetchByte_guard fun _ => ih _
    · exact .raised
    · exact .raised

theorem fetchInstr_guard {q : Bool} : Keeps (Guard q) fetchInstr := fetchMore_guard 16 []

/-! ## The instruction -/

/-- Executing an instruction keeps the invariant, whatever it raises. -/
theorem exec_inv {i : Instr} {s t : State} (hs : s.Inv) (h : exec i s = .next t) : t.Inv := by
  cases i with
  | addEbGb | addEvGv | orEbGb | orEvGv | adcEbGb | adcEvGv | sbbEbGb | sbbEvGv | andEbGb | andEvGv | subEbGb
  | subEvGv | xorEbGb | xorEvGv | cmpEbGb | cmpEvGv =>
    exact run_inv aluRmReg_guard hs h
  | addGbEb | addGvEv | orGbEb | orGvEv | adcGbEb | adcGvEv | sbbGbEb | sbbGvEv | andGbEb | andGvEv | subGbEb
  | subGvEv | xorGbEb | xorGvEv | cmpGbEb | cmpGvEv =>
    exact run_inv aluRegRm_guard hs h
  | addAlIb | addEaxIv | orAlIb | orEaxIv | adcAlIb | adcEaxIv | sbbAlIb | sbbEaxIv | andAlIb | andEaxIv | subAlIb
  | subEaxIv | xorAlIb | xorEaxIv | cmpAlIb | cmpEaxIv =>
    exact run_inv aluAccImm_guard hs h
  | addEbIb | addEvIv | addEvIb | orEbIb | orEvIv | orEvIb | adcEbIb | adcEvIv | adcEvIb | sbbEbIb | sbbEvIv
  | sbbEvIb | andEbIb | andEvIv | andEvIb | subEbIb | subEvIv | subEvIb | xorEbIb | xorEvIv | xorEvIb | cmpEbIb
  | cmpEvIv | cmpEvIb =>
    exact run_inv aluRmImm_guard hs h
  | incRv | incEb | incEv => exact run_inv increment_guard hs h
  | decRv | decEb | decEv => exact run_inv decrement_guard hs h
  | pushRv => exact run_inv pushReg_guard hs h
  | popRv => exact run_inv popReg_guard hs h
  | boundGvMa => exact run_inv checkBounds_guard hs h
  | arplEwGw => exact run_inv adjustRpl_guard hs h
  | pushIv | pushIb => exact run_inv (push_guard _ _) hs h
  | imulGvEvIv | imulGvEvIb => exact run_inv multiplyImm_guard hs h
  | jo | jno | jb | jae | je | jne | jbe | ja | js | jns | jp | jnp | jl | jge | jle | jg =>
    exact run_inv jumpIf_guard hs h
  | setoEb | setnoEb | setbEb | setaeEb | seteEb | setneEb | setbeEb | setaEb | setsEb | setnsEb | setpEb
  | setnpEb | setlEb | setgeEb | setleEb | setgEb =>
    exact run_inv setOn_guard hs h
  | testEbGb | testEvGv => exact run_inv (testWith_guard (getReg_access _ _).guard) hs h
  | testAlIb | testEaxIv | testEbIb | testEvIv => exact run_inv (testWith_guard .done) hs h
  | xchgEbGb | xchgEvGv | xchgEaxEcx | xchgEaxEdx | xchgEaxEbx | xchgEaxEsp | xchgEaxEbp | xchgEaxEsi | xchgEaxEdi =>
    exact run_inv exchange_guard hs h
  | movEbGb | movEvGv => exact run_inv movStore_guard hs h
  | movGbEb | movGvEv => exact run_inv movLoad_guard hs h
  | movEwSreg => exact run_inv movFromSeg_guard hs h
  | leaGvM => exact run_inv loadAddress_guard hs h
  | movSregEw => exact run_inv movToSeg_guard hs h
  | popEv => exact run_inv popRM_guard hs h
  | callApFar | jmpApFar => exact run_inv farTransfer_guard hs h
  | movAlOb | movEaxOv => exact run_inv movFromOffset_guard hs h
  | movObAl | movOvEax => exact run_inv movToOffset_guard hs h
  | movR8Ib | movRvIv => exact run_inv (setReg_guard _ _ _) hs h
  | rolEb | rolEv | rorEb | rorEv | rclEb | rclEv | rcrEb | rcrEv | shlEb | shlEv | shrEb | shrEv | sarEb | sarEv =>
    exact run_inv shift_guard hs h
  | retIwNear | retNear => exact run_inv returnNear_guard hs h
  | lesGvMp | ldsGvMp | lssGvMp | lfsGvMp | lgsGvMp => exact run_inv loadFar_guard hs h
  | movEbIb | movEvIv => exact run_inv (writeRM_guard _ _ _) hs h
  | enterIwIb => exact run_inv enterFrame_guard hs h
  | retIwFar | retFar => exact run_inv returnFar_guard hs h
  | intIb | int3 => exact run_inv (softInterrupt_guard _) hs h
  | aamIb => exact run_inv adjustAfterMul_guard hs h
  | aadIb => exact run_inv adjustBeforeDiv_guard hs h
  | esc => exact run_inv escape_guard hs h
  | loopneJb | loopeJb | loopJb => exact run_inv loopWhile_guard hs h
  | jcxzJb | jecxzJb => exact run_inv jumpIfZero_guard hs h
  | inAlDx | inEaxDx => exact run_inv (inputFrom_guard (getReg_access _ _).guard) hs h
  | inAlIb | inEaxIb => exact run_inv (inputFrom_guard .done) hs h
  | outDxAl | outDxEax => exact run_inv (outputTo_guard (getReg_access _ _).guard) hs h
  | outIbAl | outIbEax => exact run_inv (outputTo_guard .done) hs h
  | callJvNear => exact run_inv callRel_guard hs h
  | jmpJvNear | jmpJbShort => exact run_inv jumpRel_guard hs h
  | notEb | notEv => exact run_inv invert_guard hs h
  | negEb | negEv => exact run_inv negate_guard hs h
  | mulEb | mulEv => exact run_inv multiply_guard hs h
  | imulEb | imulEv => exact run_inv multiplySigned_guard hs h
  | divEb | divEv => exact run_inv divide_guard hs h
  | idivEb | idivEv => exact run_inv divideSigned_guard hs h
  | callEvNear => exact run_inv callIndirect_guard hs h
  | callMpFar | jmpMpFar => exact run_inv farIndirect_guard hs h
  | jmpEvNear => exact run_inv jumpIndirect_guard hs h
  | pushEv => exact run_inv pushRM_guard hs h
  | sldtEw => exact run_inv storeLdt_guard hs h
  | strEw => exact run_inv storeTask_guard hs h
  | lldtEw => exact run_inv loadLdt_guard hs h
  | ltrEw => exact run_inv loadTask_guard hs h
  | verrEw | verwEw => exact run_inv verify_guard hs h
  | sgdtM => exact run_inv storeGdt_guard hs h
  | sidtM => exact run_inv storeIdt_guard hs h
  | lgdtM => exact run_inv loadGdt_guard hs h
  | lidtM => exact run_inv loadIdt_guard hs h
  | smswEw => exact run_inv storeMsw_guard hs h
  | lmswEw => exact run_inv loadMsw_guard hs h
  | larGvEw | lslGvEw => exact run_inv inspectInto_guard hs h
  | movR32Crn => exact run_inv readControl_guard hs h
  | movR32Drn => exact run_inv readDebug_guard hs h
  | movCrnR32 => exact run_inv writeControl_guard hs h
  | movDrnR32 => exact run_inv writeDebug_guard hs h
  | movR32Trn => exact run_inv readTest_guard hs h
  | movTrnR32 => exact run_inv writeTest_guard hs h
  | btEvGv | btsEvGv | btrEvGv | btcEvGv => exact run_inv bitTestReg_guard hs h
  | shldEvGvIb | shldEvGvCl | shrdEvGvIb | shrdEvGvCl => exact run_inv doubleShift_guard hs h
  | imulGvEv => exact run_inv multiplyReg_guard hs h
  | movzxGvEb | movzxGvEw => exact run_inv moveZero_guard hs h
  | btEvIb | btsEvIb | btrEvIb | btcEvIb => exact run_inv bitTestImm_guard hs h
  | bsfGvEv | bsrGvEv => exact run_inv bitScan_guard hs h
  | movsxGvEb | movsxGvEw => exact run_inv moveSigned_guard hs h
  | pushEs | pushCs | pushSs | pushDs | pushFs | pushGs => exact run_inv pushSeg_guard hs h
  | popEs | popSs | popDs | popFs | popGs => exact run_inv popSeg_guard hs h
  | daa | das => exact run_inv adjustPacked_guard hs h
  | aaa => exact run_inv adjustAsciiAdd_guard hs h
  | aas => exact run_inv adjustAsciiSub_guard hs h
  | pusha | pushad => exact run_inv pushAllRegs_guard hs h
  | popa | popad => exact run_inv popAllRegs_guard hs h
  | nop => exact run_inv .done hs h
  | cbw => exact run_inv convertByte_guard hs h
  | cwde => exact run_inv convertWord_guard hs h
  | cwd | cdq => exact run_inv spreadSign_guard hs h
  | wait => exact run_inv waitCoprocessor_guard hs h
  | pushf | pushfd => exact run_inv pushFlags_guard hs h
  | popf | popfd => exact run_inv popFlags_guard hs h
  | sahf => exact run_inv ahToFlags_guard hs h
  | lahf => exact run_inv flagsToAh_guard hs h
  | leave => exact run_inv leaveFrame_guard hs h
  | into => exact run_inv interruptOnOverflow_guard hs h
  | iret | iretd => exact run_inv interruptReturn_guard hs h
  | xlat => exact run_inv translateByte_guard hs h
  | hlt => exact run_inv halt_guard hs h
  | cmc | clc | stc | cld | std => exact run_inv (setFlags_guard fun _ => by rfl) hs h
  | cli => exact run_inv clearInterrupts_guard hs h
  | sti => exact run_inv setInterrupts_guard hs h
  | clts => exact run_inv clearTaskSwitched_guard hs h
  | undef82 | undefD6 | undefF1 => exact run_inv .raised hs h
  | insb | insw | insd => exact run_inv (repeatString_guard inputString_guard) hs h
  | outsb | outsw | outsd => exact run_inv (repeatString_guard outputString_guard) hs h
  | movsb | movsw | movsd => exact run_inv (repeatString_guard moveString_guard) hs h
  | cmpsb | cmpsw | cmpsd => exact run_inv (repeatString_guard compareString_guard) hs h
  | stosb | stosw | stosd => exact run_inv (repeatString_guard storeString_guard) hs h
  | lodsb | lodsw | lodsd => exact run_inv (repeatString_guard loadString_guard) hs h
  | scasb | scasw | scasd => exact run_inv (repeatString_guard scanString_guard) hs h
  | pfxEs | pfxCs | pfxSs | pfxDs | pfxFs | pfxGs | pfxOpSize | pfxAddrSize | pfxLock | pfxRepne | pfxRep =>
    cases h; exact hs

theorem settle_inv {base t : State} {r : EStateM.Result Stop State Unit} (hb : base.Inv) (hr : (after r).Inv)
    (h : settle base r = .next t) : t.Inv := by
  unfold settle at h
  split at h
  · cases h; exact hr
  · cases h
  · exact takeFault_inv hb hr h
  · cases h; exact ⟨hr.1, hb.2⟩

theorem finish_inv {tf : Bool} {o : Host.Outcome State Fault Refusal} {t : State} (ho : ∀ u, o = .next u → u.Inv)
    (h : finish tf o = .next t) : t.Inv := by
  unfold finish at h
  split at h
  · rename_i u
    cases h
    have hu := ho u rfl
    exact hu
  · cases h
  · cases h

theorem executeFrom_error {fuel : Nat} {tf : Bool} {s t : State} {x : Stop} (e : fetchInstr s = .error x t) :
    executeFrom fuel tf s = finish tf (settle t (.error x t)) := by
  unfold executeFrom
  rw [e]

theorem executeFrom_instr {fuel : Nat} {tf : Bool} {s t : State} {i : Instr} (e : fetchInstr s = .ok i t)
    (p : isPrefix i = false) : executeFrom fuel tf s = finish tf (exec i t) := by
  unfold executeFrom
  rw [e]
  simp only [p, Bool.false_eq_true, if_false]

theorem executeFrom_prefix {fuel : Nat} {tf : Bool} {s t u : State} {i : Instr} (e : fetchInstr s = .ok i t)
    (p : isPrefix i = true) (x : exec i t = .next u) : executeFrom (fuel + 1) tf s = executeFrom fuel tf u := by
  rw [executeFrom, e]
  simp only [p, if_true, x]

theorem executeFrom_prefix_zero {tf : Bool} {s t u : State} {i : Instr} (e : fetchInstr s = .ok i t)
    (p : isPrefix i = true) (x : exec i t = .next u) : executeFrom 0 tf s = finish tf (takeFault u u gp0) := by
  rw [executeFrom, e]
  simp only [p, if_true, x]

/-- Prefixes set attributes of the instruction in progress: neither where it starts, nor where the next byte is fetched, nor
the default size of its code segment. -/
theorem exec_prefix {i : Instr} (p : isPrefix i = true) (s : State) :
    ∃ c : Cur, exec i s = .next { s with cur := c } ∧ c.start = s.cur.start ∧ c.next = s.cur.next ∧ c.code = s.cur.code := by
  cases i with
  | pfxEs | pfxCs | pfxSs | pfxDs | pfxFs | pfxGs | pfxOpSize | pfxAddrSize | pfxLock | pfxRepne | pfxRep =>
    exact ⟨_, rfl, rfl, rfl, rfl⟩
  | _ => cases p

/-- Prefixes and the instruction after them keep the invariant. -/
theorem executeFrom_inv {tf : Bool} {t : State} (fuel : Nat) :
    ∀ s : State, s.Inv → executeFrom fuel tf s = .next t → t.Inv := by
  induction fuel using Nat.strongRecOn with
  | _ fuel ih =>
    intro s hs h
    have f := (fetchInstr_guard (q := false)).run s ⟨hs, nofun⟩
    cases e : fetchInstr s with
    | error x u =>
      rw [e] at f
      rw [executeFrom_error e] at h
      exact finish_inv (fun _ => settle_inv f.1 f.1) h
    | ok i u =>
      rw [e] at f
      cases p : isPrefix i with
      | false =>
        rw [executeFrom_instr e p] at h
        exact finish_inv (fun _ => exec_inv f.1) h
      | true =>
        obtain ⟨c, x, -⟩ := exec_prefix p u
        have hu := exec_inv f.1 x
        cases fuel with
        | zero =>
          rw [executeFrom_prefix_zero e p x] at h
          exact finish_inv (fun _ => takeFault_inv hu hu) h
        | succ k =>
          rw [executeFrom_prefix e p x] at h
          exact ih k k.lt_succ_self _ hu h

theorem State.startInstr_inv {s : State} (hs : s.Inv) : s.startInstr.Inv := by
  unfold State.startInstr
  split <;> exact hs

theorem executeNext_inv {s t : State} (hs : s.Inv) (h : executeNext s = .next t) : t.Inv :=
  executeFrom_inv 15 s.startInstr (State.startInstr_inv hs) h

theorem State.passed_inv {s : State} (hs : s.Inv) : s.passed.Inv := hs

theorem stepBoundary_inv {s t : State} (hs : s.Inv) (h : stepBoundary s = .next t) : t.Inv := by
  unfold stepBoundary at h
  split at h
  · cases h
  · split at h
    · exact takePending_inv hs h
    · split at h
      · exact executeNext_inv (State.passed_inv hs) h
      · cases h; exact State.passed_inv hs
      · cases h; exact State.passed_inv hs

/-- Settles O58: what arrives keeps the invariant, and so does what the boundary does: an event, an instruction, or
nothing. -/
theorem stepKeepsInvariant : Obligations.StepKeepsInvariant := fun _ _ hs h => stepBoundary_inv (State.absorb_inv hs) h

end Sys2Proof.Machine

/-! # The status flags against exact integers (00_scope.md R14) -/

namespace Sys2Proof.Machine

/-! ## The flags of a result -/

/-- A list holds an even number of elements with a property exactly if the exclusive or over it is false. -/
theorem filter_even_eq_not_xor {α : Type} (f : α → Bool) (l : List α) :
    decide ((l.filter f).length % 2 = 0) = !(l.foldr (fun i b => f i ^^ b) false) := by
  induction l with
  | nil => rfl
  | cons i l ih =>
    rw [List.foldr_cons]
    cases h : f i
    · rw [List.filter_cons_of_neg (by simp [h]), ih, Bool.false_xor]
    · rw [List.filter_cons_of_pos h, List.length_cons, Bool.true_xor, ← ih, ← decide_not, decide_eq_decide]
      omega

theorem parity_eq_even {n : Nat} (r : BitVec n) :
    parity r = decide (((List.range 8).filter fun i => r.getLsbD i).length % 2 = 0) := by
  rw [filter_even_eq_not_xor, show List.range 8 = [0, 1, 2, 3, 4, 5, 6, 7] from rfl]
  simp only [parity, List.foldr, Bool.xor_assoc, Bool.xor_false]

theorem beq_zero_eq_toNat {n : Nat} (r : BitVec n) : (r == 0) = decide (r.toNat = 0) := by
  rw [Bool.eq_iff_iff, beq_iff_eq, decide_eq_true_eq, ← BitVec.toNat_inj, BitVec.ofNat_eq_ofNat, BitVec.toNat_zero]

theorem FlagEffect.szp_describes {n : Nat} (e : FlagEffect) (r : BitVec n) :
    (e.szp r).zf = .set (decide (r.toNat = 0)) ∧ (e.szp r).sf = .set (decide (r.toInt < 0)) ∧
      (e.szp r).pf = .set (decide (((List.range 8).filter fun i => r.getLsbD i).length % 2 = 0)) :=
  ⟨congrArg FlagVal.set (beq_zero_eq_toNat r), congrArg FlagVal.set BitVec.msb_eq_toInt,
    congrArg FlagVal.set (parity_eq_even r)⟩

/-! ## Additions and subtractions as numbers -/

theorem carryNat_le (c : Bool) : carryNat c ≤ 1 := by cases c <;> decide

section
variable {n : Nat}

/-- A sum and its carry out. -/
theorem toNat_add_carry (x y : BitVec n) :
    (x + y).toNat + (if 2 ^ n ≤ x.toNat + y.toNat then 2 ^ n else 0) = x.toNat + y.toNat := by
  have hx := x.isLt
  have hy := y.isLt
  rw [BitVec.toNat_add]
  split
  · rw [Nat.mod_eq_sub_mod ‹_›, Nat.mod_eq_of_lt (by omega)]
    omega
  · rw [Nat.mod_eq_of_lt (by omega)]
    omega

/-- A difference and its borrow out. -/
theorem toNat_sub_borrow (x y : BitVec n) :
    (x - y).toNat + y.toNat = x.toNat + (if x.toNat < y.toNat then 2 ^ n else 0) := by
  have h := toNat_add_carry (x - y) y
  rw [BitVec.sub_add_cancel] at h
  have hd := (x - y).isLt
  have hx := x.isLt
  have hy := y.isLt
  split at h <;> split <;> omega

/-- The sign and the signed value of a word, by half of its range. -/
theorem msb_toInt_half (hn : 0 < n) : ∃ h, 2 ^ n = 2 * h ∧ ∀ x : BitVec n, x.toNat < 2 * h ∧
    x.msb = decide (h ≤ x.toNat) ∧ x.toInt = if h ≤ x.toNat then (x.toNat : Int) - 2 * h else x.toNat := by
  have e : 2 ^ n = 2 * 2 ^ (n - 1) := by rw [← Nat.pow_succ', Nat.succ_eq_add_one, Nat.sub_add_cancel hn]
  refine ⟨2 ^ (n - 1), e, fun x => ⟨e ▸ x.isLt, x.msb_eq_decide, ?_⟩⟩
  rw [BitVec.toInt_eq_toNat_cond]
  push_cast [e]
  split <;> split <;> omega

theorem toNat_carry (hn : 0 < n) (c : Bool) : (BitVec.ofNat n (carryNat c)).toNat = carryNat c := by
  have hc := carryNat_le c
  exact Nat.mod_eq_of_lt (Nat.lt_of_le_of_lt hc (Nat.one_lt_two_pow (Nat.ne_of_gt hn)))

variable (a b : BitVec n) (c : Bool)

theorem addResult_toNat : (addResult a b c).toNat = (a.toNat + b.toNat + carryNat c) % 2 ^ n := by
  rw [addResult, BitVec.toNat_add, BitVec.toNat_add, BitVec.toNat_ofNat, ← Nat.add_mod]

/-- The sum with carry-in is the exact one, or 2^n below it. -/
theorem addResult_exact (hn : 0 < n) : (addResult a b c).toNat = a.toNat + b.toNat + carryNat c ∨
    (addResult a b c).toNat + 2 ^ n = a.toNat + b.toNat + carryNat c := by
  have h := toNat_add_carry a b
  have h' := toNat_add_carry (a + b) (BitVec.ofNat n (carryNat c))
  rw [toNat_carry hn] at h'
  have ha := a.isLt
  have hb := b.isLt
  have hc := carryNat_le c
  rw [addResult]
  split at h <;> split at h' <;> omega

/-- The difference with borrow-in is the exact one, or 2^n above it. -/
theorem subResult_exact (hn : 0 < n) : (subResult a b c).toNat + b.toNat + carryNat c = a.toNat ∨
    (subResult a b c).toNat + b.toNat + carryNat c = a.toNat + 2 ^ n := by
  have h := toNat_sub_borrow a b
  have h' := toNat_sub_borrow (a - b) (BitVec.ofNat n (carryNat c))
  rw [toNat_carry hn] at h'
  have ha := a.isLt
  have hb := b.isLt
  have hc := carryNat_le c
  rw [subResult]
  split at h <;> split at h' <;> omega

theorem subResult_toNat (hn : 0 < n) :
    ((subResult a b c).toNat : Int) = (a.toNat - b.toNat - carryNat c) % 2 ^ n := by
  have lt : ((subResult a b c).toNat : Int) < 2 ^ n := by exact_mod_cast (subResult a b c).isLt
  have pos : (0 : Int) ≤ (subResult a b c).toNat := Int.natCast_nonneg _
  rcases subResult_exact a b c hn with h | h
  · have h : (a.toNat - b.toNat - carryNat c : Int) = (subResult a b c).toNat := by omega
    rw [h, Int.emod_eq_of_lt pos lt]
  · have h : (a.toNat - b.toNat - carryNat c : Int) = (subResult a b c).toNat - 2 ^ n := by
      have h : ((subResult a b c).toNat + b.toNat + carryNat c : Int) = a.toNat + 2 ^ n := by exact_mod_cast h
      omega
    rw [h, Int.sub_emod_right, Int.emod_eq_of_lt pos lt]

/-! ## The flags of an addition and of a subtraction -/

/-- Operands of one sign and a result of the other: the exact signed sum is not that of the result. -/
theorem addFlags_ov (hn : 0 < n) :
    (addFlags a b c).ov = .set (decide (a.toInt + b.toInt + carryNat c ≠ (addResult a b c).toInt)) := by
  refine congrArg FlagVal.set ?_
  obtain ⟨h, e, half⟩ := msb_toInt_half hn
  have hr := addResult_exact a b c hn
  obtain ⟨la, ma, ia⟩ := half a
  obtain ⟨lb, mb, ib⟩ := half b
  obtain ⟨lr, mr, ir⟩ := half (addResult a b c)
  have hc := carryNat_le c
  rw [Bool.eq_iff_iff, Bool.and_eq_true, beq_iff_eq, bne_iff_ne, decide_eq_true_eq, ma, mb, mr, ia, ib, ir, ne_eq,
    decide_eq_decide, decide_eq_decide]
  omega

/-- Operands of two signs and a result of the second's: the exact signed difference is not that of the result. -/
theorem subFlags_ov (hn : 0 < n) :
    (subFlags a b c).ov = .set (decide (a.toInt - b.toInt - carryNat c ≠ (subResult a b c).toInt)) := by
  refine congrArg FlagVal.set ?_
  obtain ⟨h, e, half⟩ := msb_toInt_half hn
  have hr := subResult_exact a b c hn
  obtain ⟨la, ma, ia⟩ := half a
  obtain ⟨lb, mb, ib⟩ := half b
  obtain ⟨lr, mr, ir⟩ := half (subResult a b c)
  have hc := carryNat_le c
  rw [Bool.eq_iff_iff, Bool.and_eq_true, bne_iff_ne, bne_iff_ne, decide_eq_true_eq, ma, mb, mr, ia, ib, ir, ne_eq, ne_eq,
    decide_eq_decide, decide_eq_decide]
  omega

theorem addFlags_af :
    (addFlags a b c).af = .set (decide (16 ≤ (a.setWidth 4).toNat + (b.setWidth 4).toNat + carryNat c)) := by
  rw [BitVec.toNat_setWidth, BitVec.toNat_setWidth]
  rfl

theorem subFlags_af : (subFlags a b c).af =
    .set (decide (((a.setWidth 4).toNat : Int) - (b.setWidth 4).toNat - carryNat c < 0)) := by
  rw [BitVec.toNat_setWidth, BitVec.toNat_setWidth]
  refine congrArg FlagVal.set (decide_eq_decide.mpr ?_)
  omega

theorem subFlags_cf : (subFlags a b c).cf = .set (decide ((a.toNat : Int) - b.toNat - carryNat c < 0)) := by
  refine congrArg FlagVal.set (decide_eq_decide.mpr ?_)
  omega

end

/-- Settles O2: the flags of a result by its value and its low bits; those of an addition and of a subtraction by how far
the result is from the exact one. -/
theorem arithmeticFlags : Obligations.ArithmeticFlags := fun _ a b r c h4 =>
  have hn := Nat.lt_of_lt_of_le (by decide) h4
  ⟨fun e => e.szp_describes r, addResult_toNat a b c, rfl, addFlags_ov a b c hn, addFlags_af a b c, rfl,
    subResult_toNat a b c hn, subFlags_cf a b c, subFlags_ov a b c hn, subFlags_af a b c, rfl⟩

end Sys2Proof.Machine

/-! # Prefix bytes and the instruction after them

The fetch of what stands at CS:EIP, from its first byte to its last (30_encoding.md R313 to R316; 00_scope.md R17). -/

namespace Sys2Proof.Machine

/-- Prefixes are encoded in one byte each, read back as them at any size attributes. -/
theorem encode_prefix {p : Instr} (h : isPrefix p = true) :
    ∃ b, encode .s16 .s16 p = [b] ∧ ∀ osz asz, decode osz asz [b] = .ok (p, []) := by
  cases p with
  | pfxEs | pfxCs | pfxSs | pfxDs | pfxFs | pfxGs | pfxOpSize | pfxAddrSize | pfxLock | pfxRepne | pfxRep =>
    exact ⟨_, rfl, fun _ _ => rfl⟩
  | _ => cases h

theorem length_prefixes : ∀ {ps : List Instr}, (∀ p ∈ ps, isPrefix p = true) →
    (ps.flatMap (encode .s16 .s16)).length = ps.length
  | [], _ => rfl
  | p :: ps, h => by
    obtain ⟨b, enc, -⟩ := encode_prefix (h p List.mem_cons_self)
    rw [List.flatMap_cons, List.length_append, enc, length_prefixes fun x hx => h x (List.mem_cons_of_mem _ hx)]
    exact Nat.add_comm _ _

/-- The state with that offset as the one of the next instruction. -/
def State.withNext (s : State) (off : Word32) : State := { s with cur := { s.cur with next := off } }

section
variable {a : State} {all : List Byte}

theorem State.fetching_succ (c : Cur) (k : Nat) :
    { a.fetching c k with cur := { (a.fetching c k).cur with next := (a.fetching c k).cur.next + 1 } } =
      a.fetching c (k + 1) := by
  have next : a.eip + BitVec.ofNat 32 k + 1 = a.eip + BitVec.ofNat 32 (k + 1) := by
    rw [BitVec.add_assoc, BitVec.ofNat_add]
    rfl
  simp only [State.fetching, next]

/-- Prefixes leave the next byte to fetch where it is. -/
theorem exec_prefix_fetching {p : Instr} (h : isPrefix p = true) (c : Cur) (k : Nat) :
    ∃ c', exec p (a.fetching c k) = .next (a.fetching c' k) := by
  obtain ⟨c', x, hstart, hnext, -⟩ := exec_prefix h (a.fetching c k)
  refine ⟨c', x.trans ?_⟩
  have hc : c' = { c' with start := a.eip, next := a.eip + BitVec.ofNat 32 k } := by
    rw [show a.eip = c'.start from hstart.symm, show c'.start + _ = c'.next from hstart ▸ hnext.symm]
  exact congrArg (fun d => Host.Outcome.next { a with cur := d }) hc

theorem State.prefixed_cons {p : Instr} {ps : List Instr} {c c' : Cur} {k : Nat}
    (x : exec p (a.fetching c (k + 1)) = .next (a.fetching c' (k + 1))) :
    (a.fetching c k).prefixed (p :: ps) = (a.fetching c' (k + 1)).prefixed ps := by
  rw [State.prefixed, State.fetching_succ, x]

/-- The fetch of what is encoded in the bytes that come next. -/
theorem fetchInstr_at (r : Ready a all) {c : Cur} {k : Nat} {i : Instr} {bs rest : List Byte}
    (here : all.drop k = bs ++ rest) (hk : k ≤ all.length) (d : decode c.opSize c.addrSize bs = .ok (i, [])) :
    fetchInstr (a.fetching c k) = .ok i (a.fetching c (k + bs.length)) := by
  have len := congrArg List.length here
  rw [List.length_drop, List.length_append] at len
  have := r.len
  refine fetchMore_at r c bs [] 16 k (by omega) (by omega) (fun j hj => ?_) d
  rw [← List.getElem?_drop, here, List.getElem?_append_left hj, List.getElem?_eq_getElem hj]

/-- Prefixes and an instruction that stand at the next byte to fetch: the instruction is executed with their attributes,
the offset after the last byte as that of the next instruction. -/
theorem executeFrom_at (r : Ready a all) {i : Instr} {bytes : List Byte} (hi : isPrefix i = false) (tf : Bool) :
    ∀ (ps : List Instr) (c : Cur) (k fuel : Nat), (∀ p ∈ ps, isPrefix p = true) → ps.length ≤ fuel → k ≤ all.length →
      all.drop k = ps.flatMap (encode .s16 .s16) ++ bytes →
      let t := (a.fetching c k).prefixed ps
      decode t.cur.opSize t.cur.addrSize bytes = .ok (i, []) →
      executeFrom fuel tf (a.fetching c k) = finish tf (exec i (t.withNext (a.eip + BitVec.ofNat 32 all.length)))
  | [], c, k, fuel, _, _, hk, here, d => by
    have len := congrArg List.length here
    rw [List.length_drop] at len
    have e := fetchInstr_at (c := c) r (here.trans (List.append_nil bytes).symm) hk d
    have stop : k + bytes.length = all.length := by simp at len; omega
    rw [executeFrom_instr e hi, stop]
    rfl
  | p :: ps, c, k, fuel, hps, hfuel, hk, here, d => by
    have hp := hps p List.mem_cons_self
    obtain ⟨b, enc, dec⟩ := encode_prefix hp
    obtain ⟨c', x⟩ := exec_prefix_fetching (a := a) hp c (k + 1)
    rw [List.flatMap_cons, enc, List.append_assoc] at here
    have hk' : k < all.length := by
      have len := congrArg List.length here
      simp at len
      omega
    have here' : all.drop (k + 1) = ps.flatMap (encode .s16 .s16) ++ bytes := by
      rw [← List.drop_drop, here]; rfl
    obtain ⟨n, rfl⟩ : ∃ n, fuel = n + 1 := ⟨fuel - 1, by simp at hfuel; omega⟩
    rw [State.prefixed_cons x] at d ⊢
    rw [executeFrom_prefix (fetchInstr_at r here hk (dec _ _)) hp x]
    exact executeFrom_at r hi tf ps c' (k + 1) n (fun p h => hps p (List.mem_cons_of_mem _ h)) (by simpa using hfuel) hk'
      here' d

end

theorem State.startInstr_fetching {a : State} (h : a.modeStale = false) :
    a.startInstr = a.fetching (a.curAt (if a.cr0.pe = true ∧ a.cs.attr.db = true then .s32 else .s16)) 0 := by
  simp only [State.startInstr, State.codeSize, State.fetching, State.curAt, h, Bool.false_eq_true, if_false,
    Bool.and_eq_true, BitVec.add_zero]

theorem stepBoundary_running {s : State} (vm : s.flags.vm = false) (noEvent : s.pending = none)
    (running : s.activity = .running) : stepBoundary s = executeNext s.passed := by
  simp only [stepBoundary, vm, noEvent, running, Bool.false_eq_true, if_false]

/-- Settles O54: at a boundary with no event to take, the prefixes and the instruction are fetched, and it is executed. -/
theorem stepRunsDecoded : Obligations.StepRunsDecoded := by
  intro s ps bytes i a z t all vm noEvent running stale pg pf quiet hps hi d len here
  have r : Ready a all := ⟨pg, pf, quiet, len, here⟩
  have start : a.startInstr = a.fetching (a.curAt z) 0 := State.startInstr_fetching stale
  have begun : { a with cur := a.curAt z } = a.fetching (a.curAt z) 0 := by
    simp only [State.fetching, State.curAt, BitVec.add_zero]
  have fuel : ps.length ≤ 15 := by
    rw [List.length_append, length_prefixes hps] at len
    omega
  have ht : t = (a.fetching (a.curAt z) 0).prefixed ps := congrArg (State.prefixed · ps) begun
  calc step s = executeFrom 15 a.flags.tf a.startInstr := stepBoundary_running vm noEvent running
    _ = finish a.flags.tf (exec i (t.withNext (a.eip + BitVec.ofNat 32 all.length))) := by
      rw [start, ht]
      exact executeFrom_at r hi _ ps _ 0 15 hps fuel (Nat.zero_le _) rfl (ht ▸ d)
    _ = _ := rfl

end Sys2Proof.Machine

/-! # The general registers by width, and the state after RESET

Which bits a register name of each width stands for and what a write to it leaves (10_state.md R31 to R33), and what a
signal on RESET leaves (R90). -/

namespace Sys2Proof.Machine

/-! ## Parts of a doubleword replaced -/

/-- The bits of a value put below the upper bits of a word. -/
theorem extractLsb'_append_bit {n m k : Nat} (a : BitVec n) (v : BitVec k) {j : Nat} (h : n ≤ j + m) (i : Nat) :
    (a.extractLsb' j m ++ v).getLsbD i = if i < k then v.getLsbD i else a.getLsbD (j + (i - k)) := by
  rw [BitVec.getLsbD_append, BitVec.getLsbD_extractLsb']
  by_cases inside : i - k < m
  · rw [decide_eq_true inside, Bool.true_and]
  · rw [BitVec.getLsbD_of_ge a (j + (i - k)) (by omega), Bool.and_false]

theorem setLow8_bit (a : Word32) (v : Byte) (i : Nat) :
    (setLow8 a v).getLsbD i = if i < 8 then v.getLsbD i else a.getLsbD i := by
  rw [setLow8, extractLsb'_append_bit a v (by decide)]
  split
  · rfl
  · rw [Nat.add_sub_of_le (by omega)]

theorem setHigh8_bit (a : Word32) (v : Byte) (i : Nat) :
    (setHigh8 a v).getLsbD i = if 8 ≤ i ∧ i < 16 then v.getLsbD (i - 8) else a.getLsbD i := by
  rw [setHigh8, BitVec.getLsbD_append]
  by_cases below : i < 8
  · rw [if_pos below, if_neg (by omega), BitVec.getLsbD_extractLsb', decide_eq_true below, Bool.true_and, Nat.zero_add]
  · rw [if_neg below, extractLsb'_append_bit a v (by decide)]
    by_cases within : i < 16
    · rw [if_pos (by omega), if_pos (by omega)]
    · rw [if_neg (by omega), if_neg (by omega), show 16 + (i - 8 - 8) = i by omega]

/-! ## The part of a register that a name of a width stands for -/

/-- The register that holds the part named at that width (10_state.md R31 to R33). -/
def partReg (w : Width) (r : Reg) : Reg := if w = .b8 then (byteReg r).1 else r

/-- The number of the part's lowest bit (R31, R32). -/
def partLow (w : Width) (r : Reg) : Nat := if w = .b8 ∧ (byteReg r).2 = true then 8 else 0

/-- A read gives the bits of the part. -/
theorem Regs.read_bit (g : Regs) {w : Width} (r : Reg) {i : Nat} (h : i < w.bits) :
    (g.read w r).getLsbD i = (g.get (partReg w r)).getLsbD (partLow w r + i) := by
  cases w with
  | b8 => cases high : (byteReg r).2 <;> simp [Regs.read, partReg, partLow, high, h]
  | b16 => simp [Regs.read, partReg, partLow, h]
  | b32 => simp only [Regs.read, partReg, partLow, reduceCtorEq, false_and, if_false, Nat.zero_add]

/-- A write replaces the bits of the part and no others. -/
theorem Regs.write_bit (g : Regs) (w : Width) (r : Reg) (v : Val w) (i : Nat) :
    ((g.write w r v).get (partReg w r)).getLsbD i =
      if partLow w r ≤ i ∧ i < partLow w r + w.bits then v.getLsbD (i - partLow w r)
      else (g.get (partReg w r)).getLsbD i := by
  cases w with
  | b8 =>
    cases high : (byteReg r).2
    · simp [Regs.write, partReg, partLow, high, setLow8_bit]
    · simp [Regs.write, partReg, partLow, high, setHigh8_bit, Width.bits]
  | b16 => simp [Regs.write, partReg, partLow, setLow16_bit]
  | b32 =>
    by_cases h : i < 32
    · simp [Regs.write, partReg, partLow, h]
    · rw [BitVec.getLsbD_of_ge _ i (by omega), BitVec.getLsbD_of_ge _ i (by omega), if_neg (by simp [partLow, h])]

theorem Regs.write_bit_outside (g : Regs) {w : Width} {r : Reg} (v : Val w) {i : Nat}
    (h : i < partLow w r ∨ partLow w r + w.bits ≤ i) :
    ((g.write w r v).get (partReg w r)).getLsbD i = (g.get (partReg w r)).getLsbD i :=
  (g.write_bit w r v i).trans (if_neg (by omega))

theorem Regs.read_write_self (g : Regs) (w : Width) (r : Reg) (v : Val w) : (g.write w r v).read w r = v := by
  apply BitVec.eq_of_getLsbD_eq
  intro i hi
  rw [Regs.read_bit _ _ hi, Regs.write_bit, if_pos ⟨Nat.le_add_right _ _, Nat.add_lt_add_left hi _⟩,
    Nat.add_sub_cancel_left]

theorem Regs.get_write_other (g : Regs) {w : Width} {r q : Reg} (h : q ≠ partReg w r) (v : Val w) :
    (g.write w r v).get q = g.get q := by
  cases w <;> exact Regs.get_set_other g h _

/-! ## Registers by number -/

theorem Reg.toBits_ofBits : ∀ n : BitVec 3, (Reg.ofBits n).toBits = n := by decide

theorem byteReg_ofBits : ∀ n : BitVec 3, byteReg (Reg.ofBits n) = (Reg.ofBits (n &&& 3), decide (4 ≤ n.toNat)) := by
  decide

/-- Settles O50: a name of a width stands for the bits of one register from `partLow` on, and a write changes just
these. -/
theorem registerParts : Obligations.RegisterParts := by
  constructor
  · intro g n named first
    refine ⟨Reg.toBits_ofBits n, rfl, fun i hi => ?_, fun i hi => ?_⟩
    · rw [Regs.read_bit (w := .b16) g named hi]
      exact congrArg _ (Nat.zero_add i)
    · have part : byteReg named = (first, decide (4 ≤ n.toNat)) := byteReg_ofBits n
      rw [Regs.read_bit (w := .b8) g named hi, partReg, partLow, part]
      by_cases upper : 4 ≤ n.toNat
      · simp [upper, Nat.add_comm]
      · simp [upper]
  · intro g w r v
    refine ⟨g.read_write_self w r v, fun q hq => g.get_write_other hq v, fun hw i hi => ?_, fun hw i side below => ?_⟩
    · subst hw
      exact g.write_bit_outside (w := .b16) v (.inr (by simpa [partLow] using hi))
    · subst hw
      refine g.write_bit_outside (w := .b8) v ?_
      cases high : (byteReg r).2
      · exact .inr (by simpa [partLow, high] using below)
      · simpa [partLow, high, Width.bits] using side

/-! ## The state a signal on RESET leaves -/

theorem Flags.reset_image : Flags.reset.image = 2 := by decide

/-- CS after RESET can be executed and read (10_state.md R90). -/
theorem Seg.resetCode_attr (sel : Word16) :
    (Seg.resetCode sel).attr.code = true ∧ (Seg.resetCode sel).attr.readable = true := by
  simp [Seg.resetCode, SegAttr.readable, SegAttr.code]

section
variable {mem : Memory} {plat : Platform} {busy error : Bool} {inputs : List Input}
  {masters : List (List (Word32 × Byte))} {events : List BusEvent} {free : Nat}

theorem State.afterReset_seg {r : SReg} (h : r ≠ .cs) :
    (State.afterReset mem plat busy error inputs masters events free).seg r = .resetData := by
  cases r with
  | cs => exact absurd rfl h
  | es | ss | ds | fs | gs => rfl

theorem State.afterReset_inv (h : mem.wf = true) :
    (State.afterReset mem plat busy error inputs masters events free).Inv :=
  ⟨h, fun _ => rfl, rfl, id, rfl⟩

end

/-- DX after RESET: DH says that this is an 80386, DL which revision (10_state.md R90). -/
theorem resetEdx_bytes (rev : Byte) :
    (0x300 + rev.setWidth 32 : Word32).extractLsb' 8 8 = 3 ∧ (0x300 + rev.setWidth 32 : Word32).extractLsb' 0 8 = rev := by
  have small := rev.isLt
  have value : (0x300 + rev.setWidth 32 : Word32).toNat = 0x300 + rev.toNat := by simp; omega
  constructor <;> rw [← BitVec.toNat_inj, BitVec.extractLsb'_toNat, value, Nat.shiftRight_eq_div_pow]
  · show (0x300 + rev.toNat) / 256 % 256 = 3
    omega
  · show (0x300 + rev.toNat) / 1 % 256 = rev.toNat
    omega

theorem State.absorb_reset {s : State} {rest : List Input} (h : s.inputs = .reset :: rest) :
    s.absorb = .afterReset s.mem s.plat s.busyLine s.errorLine rest s.masters s.events s.free := by
  rw [State.absorb, h]; rfl

/-- Settles O56: what RESET leaves has the values of the table whatever it keeps, and `State.reset` is such a state. -/
theorem resetValues : Obligations.ResetValues := by
  unfold Obligations.ResetValues
  intro fresh
  have afterReset_fresh : ∀ mem plat busy error inputs masters events free,
      fresh (.afterReset mem plat busy error inputs masters events free) := by
    intro mem plat busy error inputs masters events free
    obtain ⟨dh, dl⟩ := resetEdx_bytes plat.revDl
    obtain ⟨code, readable⟩ := Seg.resetCode_attr plat.resetCs
    refine ⟨Flags.reset_image, rfl, rfl, rfl, rfl, rfl, rfl, code, readable, fun r hr => ?_, rfl, rfl, dh, dl,
      fun _ => rfl, rfl, rfl, rfl, rfl, rfl⟩
    rw [State.afterReset_seg hr]
    exact ⟨rfl, rfl, rfl, rfl, rfl, rfl, rfl⟩
  refine ⟨afterReset_fresh .., rfl, rfl, fun s rest h => ?_⟩
  rw [State.absorb_reset h]
  exact ⟨afterReset_fresh .., rfl, rfl, rfl⟩

/-- Settles O57: RESET leaves real-address mode at CPL 0 with paging off and CR3 = 0, and memory as it was. -/
theorem resetSafe : Obligations.ResetSafe :=
  ⟨State.afterReset_inv rfl, fun _ h => State.afterReset_inv h⟩

end Sys2Proof.Machine

/-! # The checks of an access through a segment register (20_memory.md R110; 21_translation_protection.md R180 to R185) -/

namespace Sys2Proof.Machine

/-- An access through a segment register passes: its type, which protected mode looks at, and its limit. -/
def Seg.admits (g : Seg) (pe : Bool) (off : Word32) (n : Nat) (write : Bool) : Bool :=
  (!pe || g.allows write) && g.inLimit pe off n

theorem Seg.allows_iff (g : Seg) (write : Bool) : g.allows write = true ↔ g.valid = true ∧
    (if write then g.attr.writable = true else g.attr.data = true ∨ g.attr.code = true ∧ g.attr.type.getLsbD 1 = true) := by
  cases write <;> simp [Seg.allows, SegAttr.readable]

/-- The last byte is at most at the upper bound exactly if the offset after it is at most one past that bound. -/
theorem Seg.inLimit_iff (g : Seg) (pe : Bool) (off : Word32) {n : Nat} (hn : 0 < n) : g.inLimit pe off n = true ↔
    if pe = true ∧ g.attr.expandDown = true
    then g.limit.toNat < off.toNat ∧ off.toNat + n ≤ (if g.attr.db then 0x100000000 else 0x10000)
    else off.toNat + n ≤ g.limit.toNat + 1 := by
  unfold Seg.inLimit
  simp only [Bool.and_eq_true]
  split
  · rw [Bool.and_eq_true, decide_eq_true_eq, decide_eq_true_eq]
    cases g.attr.db <;> simp only [Bool.false_eq_true, if_false, if_true] <;> omega
  · rw [decide_eq_true_eq]
    omega

section
variable {r : SReg} {off : Word32} {n : Nat} {write : Bool} {s : State}

theorem segCheck_ok (h : (s.seg r).admits s.cr0.pe off n write = true) :
    segCheck r off n write s = .ok ((s.seg r).base + off) s := by
  obtain ⟨typed, inside⟩ := Bool.and_eq_true_iff.mp h
  exact (bind_ok (m := require _ _) (require_eq_ok.mpr ⟨typed, rfl⟩)).trans (bind_ok (require_eq_ok.mpr ⟨inside, rfl⟩))

theorem segCheck_error (h : (s.seg r).admits s.cr0.pe off n write = false) :
    segCheck r off n write s = .error (.exc (segExn r)) s := by
  show (require _ _ >>= _) s = _
  cases typed : (!s.cr0.pe || (s.seg r).allows write)
  · exact bind_error rfl
  · have inside : (s.seg r).inLimit s.cr0.pe off n = false := by rwa [Seg.admits, typed, Bool.true_and] at h
    exact (bind_ok rfl).trans (bind_error (require_eq_error.mpr ⟨inside, rfl, rfl⟩))

end

/-- Settles O52: the words of the statement are `Seg.admits`, which decides what `segCheck` does. -/
theorem segmentChecks : Obligations.SegmentChecks := by
  intro r off n write s hn _ g typed inside
  have typed_iff : typed ↔ (s.cr0.pe = true → g.allows write = true) := imp_congr_right fun _ => (g.allows_iff write).symm
  have admits_iff : g.admits s.cr0.pe off n write = true ↔ typed ∧ inside := by
    rw [Seg.admits, Bool.and_eq_true, g.inLimit_iff _ _ hn, typed_iff]
    refine and_congr_left fun _ => ?_
    cases s.cr0.pe <;> simp
  constructor
  · intro bad
    have refused := Bool.eq_false_iff.mpr fun h => bad (admits_iff.mp h)
    exact bind_error (m := segCheck r off n write) (segCheck_error refused)
  · intro good pg
    exact (bind_ok (m := segCheck r off n write) (segCheck_ok (admits_iff.mpr good))).trans (linResolve_off pg _ _ _ _ _)

end Sys2Proof.Machine

/-! # Bytes stored in memory, and what other bus masters write (20_memory.md R102 to R113, R125, R127, R145) -/

namespace Sys2Proof.Machine

/-! ## The bytes of a value at consecutive addresses -/

theorem ofBytes_toBytes (w : Width) (v : Val w) : ofBytes w (toBytes w.bytes v) = v := by
  apply BitVec.eq_of_toNat_eq
  have h := v.isLt
  cases w <;>
    simp only [ofBytes, toBytes, leNat, List.range, List.range.loop, List.map, BitVec.toNat_ofNat, BitVec.extractLsb'_toNat,
      Nat.shiftRight_eq_div_pow] <;> simp only [Width.bits] at h ⊢ <;> omega

/-- The bytes of a value, each with the address it is stored at. -/
def cellsOf (w : Width) (a : Word32) (v : Val w) : List (Word32 × Byte) := (addrs a w.bytes).zip (toBytes w.bytes v)

theorem cellsOf_eq (w : Width) (a : Word32) (v : Val w) :
    cellsOf w a v = (List.range w.bytes).map fun k => (a + BitVec.ofNat 32 k, v.extractLsb' (8 * k) 8) := List.zip_map' ..

theorem cellsOf_addrs (w : Width) (a : Word32) (v : Val w) : (cellsOf w a v).map (·.1) = addrs a w.bytes := by
  rw [cellsOf_eq, List.map_map]; rfl

theorem length_cellsOf (w : Width) (a : Word32) (v : Val w) : (cellsOf w a v).length = w.bytes := by
  rw [cellsOf_eq, List.length_map, List.length_range]

theorem cellsOf_cons (w : Width) (a : Word32) (v : Val w) : ∃ b rest, cellsOf w a v = (a, b) :: rest := by
  rw [cellsOf_eq]
  cases w <;> simp [List.range_succ_eq_map]

theorem forall_mem_cellsOf {w : Width} {a : Word32} {v : Val w} {P : Word32 × Byte → Prop} :
    (∀ c ∈ cellsOf w a v, P c) ↔ ∀ k < w.bytes, P (a + BitVec.ofNat 32 k, v.extractLsb' (8 * k) 8) := by
  rw [cellsOf_eq]
  simp only [List.mem_map, List.mem_range, forall_exists_index, and_imp, forall_apply_eq_imp_iff₂]

theorem addrs_nodup (a : Word32) {n : Nat} (hn : n ≤ 4) : (addrs a n).Nodup := by
  refine List.pairwise_map.mpr (List.nodup_range.imp_of_mem fun {i j} hi hj ne e => ne ?_)
  rw [List.mem_range] at hi hj
  have low := congrArg BitVec.toNat ((BitVec.add_right_inj a).mp e)
  rwa [BitVec.toNat_ofNat, BitVec.toNat_ofNat, Nat.mod_eq_of_lt (by omega), Nat.mod_eq_of_lt (by omega)] at low

/-! ## The parts of a bus cycle -/

theorem regionKind_eq_regionAt (map : List Region) (a : Nat) :
    regionKind map a = ((regionAt map a).map (·.kind)).getD .ram := by
  induction map with
  | nil => rfl
  | cons r rest ih =>
    rw [regionKind, regionAt, List.find?_cons]
    by_cases h : r.base ≤ a ∧ a < r.base + r.size
    · simp [h]
    · have miss : (decide (r.base ≤ a) && decide (a < r.base + r.size)) = false := by simpa using h
      rw [if_neg h, ih, miss]
      rfl

/-- Elements whose addresses are all of one kind. -/
def OneKind {α : Type} (map : List Region) (address : α → Word32) (r : List α) : Prop :=
  ∀ x ∈ r, ∀ y ∈ r, regionKind map (address x).toNat = regionKind map (address y).toNat

section
variable {α : Type} {map : List Region} {f : α → Word32}

theorem OneKind.cons {a b : α} {r : List α} (h : OneKind map f (b :: r))
    (e : regionKind map (f a).toNat = regionKind map (f b).toNat) : OneKind map f (a :: b :: r) := by
  have first : ∀ x ∈ a :: b :: r, regionKind map (f x).toNat = regionKind map (f b).toNat := fun x hx => by
    rcases List.mem_cons.mp hx with rfl | hx
    · exact e
    · exact h x hx b List.mem_cons_self
  exact fun x hx y hy => (first x hx).trans (first y hy).symm

theorem OneKind.single (a : α) : OneKind map f [a] := fun x hx y hy => by
  rw [List.mem_singleton.mp hx, List.mem_singleton.mp hy]

theorem regionCons_oneKind {a : α} {runs : List (List α)} (h : ∀ r ∈ runs, OneKind map f r) :
    ∀ r ∈ regionCons map f a runs, OneKind map f r := by
  unfold regionCons
  split
  · rename_i b r rest
    obtain ⟨hr, hrest⟩ := List.forall_mem_cons.mp h
    split
    · rename_i same
      refine List.forall_mem_cons.mpr ⟨hr.cons ?_, hrest⟩
      rw [regionKind_eq_regionAt, regionKind_eq_regionAt, same]
    · exact List.forall_mem_cons.mpr ⟨.single a, h⟩
  · exact List.forall_mem_cons.mpr ⟨.single a, h⟩

/-- Each part of a bus cycle is taken by memory or devices of one kind (R112, R113). -/
theorem regionRuns_oneKind (p : List α) : ∀ r ∈ regionRuns map f p, OneKind map f r := by
  induction p with
  | nil => exact fun r hr => absurd hr List.not_mem_nil
  | cons a p ih => exact regionCons_oneKind ih

end

/-! ## What a bus cycle leaves unchanged -/

theorem writeBytes_rest : ∀ (l : List (Word32 × Byte)) (s : State), let t := l.foldl (fun t c => t.writeByte c.1 c.2) s
    t = { s with mem := t.mem, prefetch := t.prefetch }
  | [], _ => rfl
  | c :: rest, s => by
    rw [List.foldl_cons]
    exact writeBytes_rest rest (s.writeByte c.1 c.2)

theorem State.writeRun_rest (s : State) (p : List (Word32 × Byte)) : s.writeRun p =
    { s with mem := (s.writeRun p).mem, prefetch := (s.writeRun p).prefetch, events := (s.writeRun p).events } := by
  rcases s.writeRun_cases p with e | ⟨ev, e⟩ <;> rw [e]
  rw [writeBytes_rest]

theorem writeRuns_rest : ∀ (l : List (List (Word32 × Byte))) (s : State), let t := l.foldl State.writeRun s
    t = { s with mem := t.mem, prefetch := t.prefetch, events := t.events }
  | [], _ => rfl
  | r :: rest, s => by
    have first := s.writeRun_rest r
    have others := writeRuns_rest rest (s.writeRun r)
    rw [List.foldl_cons]
    generalize rest.foldl State.writeRun (s.writeRun r) = t at others ⊢
    rw [others, first]

theorem State.cycle_locked {s : State} (lock : s.busLock = true) : s.cycle = s := if_pos lock

theorem State.cycle_cons {s : State} {cells : List (Word32 × Byte)} {rest : List (List (Word32 × Byte))}
    (lock : s.busLock = false) (m : s.masters = cells :: rest) :
    s.cycle = cells.foldl State.masterByte { s with masters := rest } := by
  rw [State.cycle, if_neg (ne_true_of_eq_false lock), m]

/-- Before a bus cycle that LOCK# does not protect the next write of the others is made, and none while it is asserted. -/
theorem State.cycle_masters (s : State) : s.cycle.masters = if s.busLock then s.masters else s.masters.drop 1 := by
  split
  · rename_i lock
    rw [State.cycle_locked lock]
  · rename_i lock
    cases m : s.masters with
    | nil => rw [State.cycle_quiet m, m, List.drop_nil]
    | cons cells rest =>
      rw [State.cycle_cons (Bool.eq_false_iff.mpr lock) m, masterBytes_rest]
      rfl

theorem State.writePiece_masters (s : State) (p : List (Word32 × Byte)) :
    (s.writePiece p).masters = if s.busLock then s.masters else s.masters.drop 1 := by
  rw [State.writePiece, writeRuns_rest]
  exact s.cycle_masters

theorem State.writePiece_busLock (s : State) (p : List (Word32 × Byte)) : (s.writePiece p).busLock = s.busLock := by
  rw [State.writePiece, writeRuns_rest, State.cycle_rest]

/-! ## One store, in one bus cycle or two -/

/-- A write in one doubleword. -/
theorem physWrite_one {c : Word32 × Byte} {rest : List (Word32 × Byte)} (h : (c :: rest).length ≤ firstPiece c.1)
    (s : State) : physWrite (c :: rest) s = .ok () (s.writePiece (c :: rest)) := by
  unfold physWrite
  dsimp only
  rw [List.drop_eq_nil_of_le h, List.take_of_length_le h]
  rfl

/-- A write in two doublewords: two bus cycles, the upper one first only where a device can tell (R106). -/
theorem physWrite_two {c : Word32 × Byte} {rest : List (Word32 × Byte)} (h : firstPiece c.1 < (c :: rest).length)
    (s : State) : ∃ p q u, (p ++ q = c :: rest ∨ q ++ p = c :: rest) ∧
      (u = s ∨ touchesDevice s.plat.map ((c :: rest).map (·.1)) = true ∧ u = { s with free := s.free + 1 }) ∧
      physWrite (c :: rest) s = .ok () ((u.writePiece p).writePiece q) := by
  unfold physWrite
  dsimp only
  rw [if_neg (by simpa using h)]
  cases dev : touchesDevice s.plat.map ((c :: rest).map (·.1))
  · refine ⟨_, _, s, .inl (List.take_append_drop (firstPiece c.1) _), .inl rfl, ?_⟩
    rw [bind_ok (a := false) (t := s) (by unfold secondFirst; simp only [bind_run, get_run, dev]; rfl)]
    rfl
  · have drawn : secondFirst ((c :: rest).map (·.1)) s = .ok (Config.splitChoice s.free) { s with free := s.free + 1 } := by
      unfold secondFirst
      simp only [bind_run, get_run, dev]; rfl
    rw [bind_ok drawn]
    cases Config.splitChoice s.free
    · exact ⟨_, _, _, .inl (List.take_append_drop (firstPiece c.1) _), .inr ⟨rfl, rfl⟩, rfl⟩
    · exact ⟨_, _, _, .inr (List.take_append_drop (firstPiece c.1) _), .inr ⟨rfl, rfl⟩, rfl⟩

theorem stored_one {w : Width} {a : Word32} (h : a.toNat % 4 + w.bytes ≤ 4) (v : Val w) (s : State) :
    s.stored w (.mem (addrs a w.bytes)) v = s.writePiece (cellsOf w a v) := by
  have len := length_cellsOf w a v
  show endState (physWrite (cellsOf w a v) s) = _
  obtain ⟨b, rest, e⟩ := cellsOf_cons w a v
  rw [e] at len ⊢
  have fits : ((a, b) :: rest).length ≤ firstPiece a := by unfold firstPiece; omega
  rw [physWrite_one fits s]
  rfl

theorem stored_two {w : Width} {a : Word32} (h : ¬ a.toNat % 4 + w.bytes ≤ 4) (v : Val w) (s : State) :
    ∃ p q u, (p ++ q = cellsOf w a v ∨ q ++ p = cellsOf w a v) ∧
      (u = s ∨ touchesDevice s.plat.map (addrs a w.bytes) = true ∧ u = { s with free := s.free + 1 }) ∧
      s.stored w (.mem (addrs a w.bytes)) v = (u.writePiece p).writePiece q := by
  have len := length_cellsOf w a v
  have as := cellsOf_addrs w a v
  show ∃ p q u, _ ∧ _ ∧ endState (physWrite (cellsOf w a v) s) = _
  obtain ⟨b, rest, e⟩ := cellsOf_cons w a v
  rw [e] at len as ⊢
  have exceeds : firstPiece a < ((a, b) :: rest).length := by unfold firstPiece; omega
  obtain ⟨p, q, u, parts, hu, run⟩ := physWrite_two (c := (a, b)) exceeds s
  exact ⟨p, q, u, parts, as ▸ hu, by rw [run]; rfl⟩

/-! ## What storing bytes does -/

/-- `t` is `s` with those bytes stored: each where there is RAM, and nothing else changed but the prefetch record, and, only
where one of the addresses is a device's, what devices observe and the free values drawn. -/
structure Stores (p : List (Word32 × Byte)) (s t : State) : Prop where
  wf : t.mem.wf = true
  written : ∀ c ∈ p, regionKind s.plat.map c.1.toNat = .ram → t.mem.get c.1.toNat = c.2
  kept : ∀ x, (∀ c ∈ p, regionKind s.plat.map c.1.toNat = .ram → c.1.toNat ≠ x) → t.mem.get x = s.mem.get x
  rest : t = { s with mem := t.mem, prefetch := t.prefetch, events := t.events, free := t.free }
  unobserved : (∀ c ∈ p, regionKind s.plat.map c.1.toNat ≠ .device) → t.events = s.events ∧ t.free = s.free

/-- The addresses of the bytes differ. -/
def Apart (p : List (Word32 × Byte)) : Prop := p.Pairwise fun c d => c.1 ≠ d.1

theorem cellsOf_apart (w : Width) (a : Word32) (v : Val w) : Apart (cellsOf w a v) := by
  refine List.Pairwise.of_map (S := (· ≠ ·)) (·.1) (fun _ _ h => h) ?_
  rw [cellsOf_addrs]
  exact addrs_nodup a (by cases w <;> decide)

theorem Apart.comm {p q : List (Word32 × Byte)} : Apart (p ++ q) ↔ Apart (q ++ p) :=
  List.pairwise_append_comm fun h => h.symm

section
variable {p q : List (Word32 × Byte)} {s t u : State}

theorem Stores.refl (wf : s.mem.wf = true) : Stores [] s s where
  wf := wf
  written _ h := absurd h List.not_mem_nil
  kept _ _ := rfl
  rest := rfl
  unobserved _ := ⟨rfl, rfl⟩

theorem Stores.plat (h : Stores p s t) : t.plat = s.plat := by rw [h.rest]

/-- What LOCK# and the masters still to write allow stays as it was. -/
theorem Stores.still (h : Stores p s t) (still : s.masters = [] ∨ s.busLock = true) :
    t.masters = [] ∨ t.busLock = true := by rw [h.rest]; exact still

/-- Bytes stored after others, at other addresses. -/
theorem Stores.append (h : Stores p s t) (k : Stores q t u) (apart : Apart (p ++ q)) : Stores (p ++ q) s u := by
  obtain ⟨-, -, across⟩ := List.pairwise_append.mp apart
  have written := k.written
  have kept := k.kept
  have unobserved := k.unobserved
  rw [h.plat] at written kept unobserved
  refine ⟨k.wf, fun c hc ram => ?_, fun x hx => ?_, ?_, fun none => ?_⟩
  · rcases List.mem_append.mp hc with hp | hq
    · rw [kept _ fun d hd _ e => across c hp d hd (BitVec.eq_of_toNat_eq e.symm)]
      exact h.written c hp ram
    · exact written c hq ram
  · rw [kept x fun c hc => hx c (List.mem_append_right _ hc), h.kept x fun c hc => hx c (List.mem_append_left _ hc)]
  · rw [k.rest, h.rest]
  · obtain ⟨e, f⟩ := h.unobserved fun c hc => none c (List.mem_append_left _ hc)
    obtain ⟨e', f'⟩ := unobserved fun c hc => none c (List.mem_append_right _ hc)
    exact ⟨e'.trans e, f'.trans f⟩

theorem Stores.comm (h : Stores (p ++ q) s t) : Stores (q ++ p) s t where
  wf := h.wf
  written c hc := h.written c (List.mem_append.mpr (List.mem_append.mp hc).symm)
  kept x hx := h.kept x fun c hc => hx c (List.mem_append.mpr (List.mem_append.mp hc).symm)
  rest := h.rest
  unobserved none := h.unobserved fun c hc => none c (List.mem_append.mpr (List.mem_append.mp hc).symm)

/-- A value drawn before a store that a device can observe. -/
theorem Stores.of_drawn (h : Stores p { s with free := s.free + 1 } t)
    (dev : touchesDevice s.plat.map (p.map (·.1)) = true) : Stores p s t where
  wf := h.wf
  written := h.written
  kept := h.kept
  rest := h.rest
  unobserved none := by
    obtain ⟨a, ha, isDevice⟩ := List.any_eq_true.mp dev
    obtain ⟨c, hc, rfl⟩ := List.mem_map.mp ha
    exact absurd (eq_of_beq isDevice) (none c hc)

theorem Stores.writeByte (wf : s.mem.wf = true) {c : Word32 × Byte} (ram : regionKind s.plat.map c.1.toNat = .ram) :
    Stores [c] s (s.writeByte c.1 c.2) where
  wf := State.writeByte_wf wf c.1 c.2
  written d hd _ := by
    rw [List.mem_singleton.mp hd]
    exact Memory.get_set_self wf _ _
  kept x hx := Memory.get_set_other wf _ fun e => hx c List.mem_cons_self ram e.symm
  rest := rfl
  unobserved _ := ⟨rfl, rfl⟩

theorem Stores.writeBytes : ∀ {p : List (Word32 × Byte)} {s : State}, s.mem.wf = true → Apart p →
    (∀ c ∈ p, regionKind s.plat.map c.1.toNat = .ram) → Stores p s (p.foldl (fun t c => t.writeByte c.1 c.2) s)
  | [], _, wf, _, _ => .refl wf
  | c :: p, s, wf, apart, ram => by
    obtain ⟨hc, hp⟩ := List.forall_mem_cons.mp ram
    have first := Stores.writeByte wf hc
    exact first.append (.writeBytes first.wf apart.of_cons hp) apart

/-- Bytes dropped, or given to a device: none of them is stored in RAM. -/
theorem Stores.dropped (wf : s.mem.wf = true) (notRam : ∀ c ∈ p, regionKind s.plat.map c.1.toNat ≠ .ram)
    {events : List BusEvent}
    (unobserved : (∀ c ∈ p, regionKind s.plat.map c.1.toNat ≠ .device) → events = s.events) :
    Stores p s { s with events := events } where
  wf := wf
  written c hc ram := absurd ram (notRam c hc)
  kept _ _ := rfl
  rest := rfl
  unobserved none := ⟨unobserved none, rfl⟩

/-- Bytes of one region written in a bus cycle (R112, R113). -/
theorem Stores.writeRun (wf : s.mem.wf = true) (apart : Apart p) (one : OneKind s.plat.map (·.1) p) :
    Stores p s (s.writeRun p) := by
  cases p with
  | nil => exact .refl wf
  | cons c rest =>
    have all (k : RegionKind) (h : regionKind s.plat.map c.1.toNat = k) :
        ∀ d ∈ c :: rest, regionKind s.plat.map d.1.toNat = k := fun d hd => (one d hd c List.mem_cons_self).trans h
    unfold State.writeRun
    dsimp only
    split
    · rename_i kind
      exact .writeBytes wf apart (all .ram kind)
    · rename_i kind
      exact .dropped wf (fun d hd => by rw [all .rom kind d hd]; nofun) fun _ => rfl
    · rename_i kind
      exact .dropped wf (fun d hd => by rw [all .absent kind d hd]; nofun) fun _ => rfl
    · rename_i kind
      exact .dropped wf (fun d hd => by rw [all .device kind d hd]; nofun) fun none => absurd kind (none c List.mem_cons_self)

theorem Stores.writeRuns {map : List Region} : ∀ {runs : List (List (Word32 × Byte))} {s : State}, s.mem.wf = true →
    Apart runs.flatten → s.plat.map = map → (∀ r ∈ runs, OneKind map (·.1) r) →
    Stores runs.flatten s (runs.foldl State.writeRun s)
  | [], _, wf, _, _, _ => .refl wf
  | r :: runs, s, wf, apart, hmap, one => by
    rw [List.flatten_cons] at apart ⊢
    obtain ⟨hr, hruns, -⟩ := List.pairwise_append.mp apart
    obtain ⟨oneR, oneRuns⟩ := List.forall_mem_cons.mp one
    have first : Stores r s (s.writeRun r) := .writeRun wf hr (by rw [hmap]; exact oneR)
    exact first.append (.writeRuns first.wf hruns (by rw [first.plat, hmap]) oneRuns) apart

theorem State.cycle_still (still : s.masters = [] ∨ s.busLock = true) : s.cycle = s :=
  still.elim State.cycle_quiet State.cycle_locked

/-- One bus cycle before which no other bus master writes. -/
theorem Stores.writePiece (wf : s.mem.wf = true) (still : s.masters = [] ∨ s.busLock = true) (apart : Apart p) :
    Stores p s (s.writePiece p) := by
  have flat := regionRuns_flatten s.plat.map (·.1) p
  have runs := Stores.writeRuns wf (flat.symm ▸ apart) rfl (regionRuns_oneKind (map := s.plat.map) (f := (·.1)) p)
  rw [flat] at runs
  rwa [State.writePiece, State.cycle_still still]

theorem Stores.twoPieces (wf : s.mem.wf = true) (still : s.masters = [] ∨ s.busLock = true) (apart : Apart (p ++ q)) :
    Stores (p ++ q) s ((s.writePiece p).writePiece q) := by
  obtain ⟨hp, hq, -⟩ := List.pairwise_append.mp apart
  have first := Stores.writePiece wf still hp
  exact first.append (.writePiece first.wf (first.still still) hq) apart

/-- A value stored at consecutive addresses, no other bus master writing. -/
theorem Stores.stored (wf : s.mem.wf = true) (still : s.masters = [] ∨ s.busLock = true) (w : Width) (a : Word32)
    (v : Val w) : Stores (cellsOf w a v) s (s.stored w (.mem (addrs a w.bytes)) v) := by
  have apart := cellsOf_apart w a v
  by_cases fits : a.toNat % 4 + w.bytes ≤ 4
  · rw [stored_one fits]
    exact .writePiece wf still apart
  · obtain ⟨p, q, u, parts, hu, e⟩ := stored_two fits v s
    rw [e]
    have two {x : State} (hx : x.mem.wf = true) (hstill : x.masters = [] ∨ x.busLock = true) :
        Stores (cellsOf w a v) x ((x.writePiece p).writePiece q) := by
      rcases parts with h | h <;> rw [← h] at apart ⊢
      · exact .twoPieces hx hstill apart
      · exact (Stores.twoPieces hx hstill (Apart.comm.mp apart)).comm
    rcases hu with rfl | ⟨dev, rfl⟩
    · exact two wf still
    · exact (two (x := { s with free := s.free + 1 }) wf still).of_drawn (by rw [cellsOf_addrs]; exact dev)

end

/-! ## Reading from RAM -/

section
variable {s : State}

theorem readRun_ram {p : List Word32} (ram : ∀ a ∈ p, regionKind s.plat.map a.toNat = .ram) :
    readRun p s = .ok (p.map fun a => s.mem.get a.toNat) s := by
  cases p with
  | nil => rfl
  | cons a rest =>
    have kind := ram a List.mem_cons_self
    simp only [readRun, bind_run, get_run, kind, pure_run]

theorem readRuns_ram : ∀ {runs : List (List Word32)}, (∀ a ∈ runs.flatten, regionKind s.plat.map a.toNat = .ram) →
    readRuns runs s = .ok (runs.flatten.map fun a => s.mem.get a.toNat) s
  | [], _ => rfl
  | p :: runs, ram => by
    rw [List.flatten_cons] at ram ⊢
    obtain ⟨hp, hruns⟩ := List.forall_mem_append.mp ram
    rw [readRuns, bind_ok (readRun_ram hp), bind_ok (readRuns_ram hruns), List.map_append]
    rfl

theorem readPiece_ram {p : List Word32} (still : s.masters = [] ∨ s.busLock = true)
    (ram : ∀ a ∈ p, regionKind s.plat.map a.toNat = .ram) :
    readPiece p s = .ok (p.map fun a => s.mem.get a.toNat) s := by
  have flat := regionRuns_flatten s.plat.map id p
  have runs := readRuns_ram (s := s) (runs := regionRuns s.plat.map id p) (flat.symm ▸ ram)
  rw [flat] at runs
  have cycle : busCycle s = .ok () s := by rw [busCycle, modify_run, State.cycle_still still]
  rw [readPiece, bind_ok cycle, bind_ok (get_run s), runs]

theorem secondFirst_ram {p : List Word32} (ram : ∀ a ∈ p, regionKind s.plat.map a.toNat = .ram) :
    secondFirst p s = .ok false s := by
  have none : touchesDevice s.plat.map p = false := by
    refine List.any_eq_false.mpr fun a ha => ?_
    rw [ram a ha]
    decide
  simp only [secondFirst, bind_run, get_run, none, Bool.false_eq_true, if_false, pure_run]

/-- A read of RAM, in one bus cycle or two, before which no other bus master writes, gives the bytes there. -/
theorem physRead_ram {p : List Word32} (still : s.masters = [] ∨ s.busLock = true)
    (ram : ∀ a ∈ p, regionKind s.plat.map a.toNat = .ram) :
    physRead p s = .ok (p.map fun a => s.mem.get a.toNat) s := by
  cases p with
  | nil => rfl
  | cons a rest =>
    have first := readPiece_ram (p := (a :: rest).take (firstPiece a)) still fun b hb => ram b (List.mem_of_mem_take hb)
    have second := readPiece_ram (p := (a :: rest).drop (firstPiece a)) still fun b hb => ram b (List.mem_of_mem_drop hb)
    unfold physRead
    dsimp only
    split
    · rename_i whole
      rw [first, List.take_of_length_le (by simpa using whole)]
    · rw [bind_ok (secondFirst_ram ram)]
      refine (bind_ok first).trans ((bind_ok second).trans ?_)
      rw [← List.map_append, List.take_append_drop]
      rfl

end

/-! ## Outside RAM, and other bus masters -/

section
variable {s : State} {a : Word32} {v : Byte}

theorem stored_byte (still : s.masters = [] ∨ s.busLock = true) : s.stored .b8 (.mem [a]) v = s.writeRun [(a, v)] := by
  have one : [a] = addrs a (Width.bytes .b8) := by simp [addrs]
  have cell : cellsOf .b8 a v = [(a, v)] := by simp [cellsOf_eq]
  rw [one, stored_one (by show a.toNat % 4 + 1 ≤ 4; omega), cell, State.writePiece, State.cycle_still still]
  rfl

theorem writeRun_dropped (h : regionKind s.plat.map a.toNat = .rom ∨ regionKind s.plat.map a.toNat = .absent) :
    s.writeRun [(a, v)] = s := by
  rcases h with kind | kind <;> simp only [State.writeRun, kind]

theorem writeRun_device (kind : regionKind s.plat.map a.toNat = .device) :
    s.writeRun [(a, v)] = { s with events := .devWrite a [v] :: s.events } := by
  simp only [State.writeRun, kind, List.map_cons, List.map_nil]

theorem State.masterByte_ram (kind : regionKind s.plat.map a.toNat = .ram) : s.masterByte (a, v) = s.writeByte a v := by
  simp only [State.masterByte, kind]

theorem State.masterByte_notRam (kind : regionKind s.plat.map a.toNat ≠ .ram) : s.masterByte (a, v) = s := by
  unfold State.masterByte
  split
  · rename_i ram
    exact absurd ram kind
  all_goals rfl

end

/-- LOCK# says when others write, not what a write does. -/
theorem writeBytes_busLock (b : Bool) : ∀ (l : List (Word32 × Byte)) (s : State),
    l.foldl (fun t c => t.writeByte c.1 c.2) { s with busLock := b } =
      { l.foldl (fun t c => t.writeByte c.1 c.2) s with busLock := b }
  | [], _ => rfl
  | c :: rest, s => writeBytes_busLock b rest (s.writeByte c.1 c.2)

theorem State.writeRun_busLock (s : State) (b : Bool) (p : List (Word32 × Byte)) :
    State.writeRun { s with busLock := b } p = { s.writeRun p with busLock := b } := by
  cases p with
  | nil => rfl
  | cons c rest =>
    unfold State.writeRun
    dsimp only
    split
    · exact writeBytes_busLock b (c :: rest) s
    all_goals rfl

theorem writeRuns_busLock (b : Bool) : ∀ (l : List (List (Word32 × Byte))) (s : State),
    l.foldl State.writeRun { s with busLock := b } = { l.foldl State.writeRun s with busLock := b }
  | [], _ => rfl
  | r :: rest, s => by
    rw [List.foldl_cons, State.writeRun_busLock, writeRuns_busLock b rest]
    rfl

/-- A bus cycle is the write of another bus master, and then the same cycle as under LOCK#. -/
theorem State.writePiece_locked {s : State} (lock : s.busLock = false) (p : List (Word32 × Byte)) :
    s.writePiece p = { State.writePiece { s.cycle with busLock := true } p with busLock := false } := by
  have unlocked : ((regionRuns s.plat.map (·.1) p).foldl State.writeRun s.cycle).busLock = false := by
    rw [writeRuns_rest, State.cycle_rest]
    exact lock
  have locked : State.writePiece { s.cycle with busLock := true } p =
      { (regionRuns s.plat.map (·.1) p).foldl State.writeRun s.cycle with busLock := true } := by
    rw [State.writePiece, State.cycle_locked (s := { s.cycle with busLock := true }) rfl, ← State.cycle_plat s]
    exact writeRuns_busLock true _ s.cycle
  rw [locked, State.writePiece, ← unlocked]

/-- What a store takes of the writes of the others: one for each bus cycle that LOCK# does not protect. -/
theorem stored_masters (w : Width) (a : Word32) (v : Val w) (s : State) :
    (s.stored w (.mem (addrs a w.bytes)) v).masters =
      if s.busLock then s.masters else s.masters.drop (if a.toNat % 4 + w.bytes ≤ 4 then 1 else 2) := by
  split
  · rename_i lock
    exact (stored_access s w _ v).2.2.2 lock
  · rename_i lock
    split
    · rename_i fits
      rw [stored_one fits, State.writePiece_masters, if_neg lock]
    · rename_i fits
      obtain ⟨p, q, u, -, hu, e⟩ := stored_two fits v s
      have same : u.masters = s.masters ∧ u.busLock = s.busLock := by rcases hu with rfl | ⟨-, rfl⟩ <;> exact ⟨rfl, rfl⟩
      rw [e, State.writePiece_masters, State.writePiece_busLock, State.writePiece_masters, same.1, same.2, if_neg lock,
        if_neg lock, List.drop_drop]

/-- Settles O51: a store is `Stores` of the bytes of its value, which says what memory holds after it; a byte outside RAM is
dropped or observed; before each unlocked bus cycle, and only there, the next write of the others is made. -/
theorem storedBytes : Obligations.StoredBytes := by
  refine ⟨fun w a v s wf still => ?_, fun a v s still => ?_, fun w a v s => ?_, fun a v s wf => ?_⟩
  · intro at' ram l t
    have st : Stores (cellsOf w a v) s t := .stored wf still w a v
    have written := forall_mem_cellsOf.mp st.written
    refine ⟨written, fun x hx => st.kept x (forall_mem_cellsOf.mpr hx), st.rest,
      fun none => st.unobserved (forall_mem_cellsOf.mpr none), fun all => ?_⟩
    have allRam : ∀ b ∈ addrs a w.bytes, regionKind t.plat.map b.toNat = .ram := by
      rw [st.plat]
      intro b hb
      obtain ⟨k, hk, rfl⟩ := List.mem_map.mp hb
      exact all k (List.mem_range.mp hk)
    have bytes : (addrs a w.bytes).map (fun b => t.mem.get b.toNat) = toBytes w.bytes v := by
      rw [addrs, List.map_map]
      exact List.map_congr_left fun k hk => written k (List.mem_range.mp hk) (all k (List.mem_range.mp hk))
    show (physRead (addrs a w.bytes) >>= _) t = _
    rw [bind_ok (physRead_ram (st.still still) allRam), bytes, ofBytes_toBytes]
    rfl
  · intro t
    have e : t = s.writeRun [(a, v)] := stored_byte still
    rw [e]
    exact ⟨writeRun_dropped, writeRun_device⟩
  · intro t
    have taken := stored_masters w a v s
    refine ⟨fun lock => by rwa [lock] at taken, fun lock => by rwa [lock] at taken, fun lock fits cells rest m => ?_⟩
    show s.stored w _ v = _
    rw [stored_one fits, stored_one fits, State.writePiece_locked lock, State.cycle_cons lock m]
  · intro t
    refine ⟨State.masterByte_notRam, fun ram => ?_⟩
    have e : t = s.writeByte a v := State.masterByte_ram ram
    rw [e]
    refine ⟨Memory.get_set_self wf _ _, fun x hx _ => Memory.get_set_other wf _ ?_, rfl⟩
    rintro rfl
    exact hx ⟨a, List.mem_cons_self, rfl⟩

end Sys2Proof.Machine

/-! # Invalid opcodes (30_encoding.md R353, R354; 23_real_address_mode.md R296; 20_memory.md R127) -/

namespace Sys2Proof

/-! ## How many bytes a reader asks for -/

/-- The reader answers from that many bytes, and takes no more of them. -/
def Parser.AtMost {α : Type} (p : Parser α) (n : Nat) : Prop :=
  ∀ bs : List Byte, n ≤ bs.length → ∃ a cs, p bs = .ok (a, cs) ∧ bs.length ≤ cs.length + n

namespace Parser.AtMost
variable {α β : Type}

theorem pure (a : α) : (Pure.pure a : Parser α).AtMost 0 := fun bs _ => ⟨a, bs, rfl, Nat.le_refl _⟩

theorem byte : nextByte.AtMost 1
  | [], h => absurd h (by decide)
  | b :: bs, _ => ⟨b, bs, rfl, Nat.le_refl _⟩

theorem mono {p : Parser α} {m n : Nat} (h : p.AtMost m) (le : m ≤ n := by decide) : p.AtMost n := fun bs len => by
  obtain ⟨a, cs, e, l⟩ := h bs (Nat.le_trans le len)
  exact ⟨a, cs, e, by omega⟩

theorem bind {p : Parser α} {f : α → Parser β} {m n k : Nat} (hp : p.AtMost m) (hf : ∀ a, (f a).AtMost n)
    (le : m + n ≤ k := by decide) : (p >>= f).AtMost k := fun bs len => by
  obtain ⟨a, cs, e, l⟩ := hp bs (by omega)
  obtain ⟨b, ds, e', l'⟩ := hf a cs (by omega)
  exact ⟨b, ds, (Parser.bind_ok e).trans e', by omega⟩

end Parser.AtMost

theorem word16_atMost : word16.AtMost 2 :=
  .bind (n := 1) .byte fun _ => .bind .byte fun _ => .pure _

theorem word32_atMost : word32.AtMost 4 :=
  .bind (n := 3) .byte fun _ => .bind (n := 2) .byte fun _ => .bind (n := 1) .byte fun _ => .bind .byte fun _ => .pure _

theorem disp16_atMost (m : BitVec 2) : (disp16 m).AtMost 2 := by
  unfold disp16
  split
  · exact .mono (.pure _)
  · exact .bind .byte fun _ => .pure _
  · exact .bind word16_atMost fun _ => .pure _

theorem disp32_atMost (m : BitVec 2) : (disp32 m).AtMost 4 := by
  unfold disp32
  split
  · exact .mono (.pure _)
  · exact .bind .byte fun _ => .pure _
  · exact .bind word32_atMost fun _ => .pure _

/-- A memory form takes at most a SIB byte and a doubleword after its ModR/M byte (R321 to R323). -/
theorem memForm_atMost (asz : Size) (m : BitVec 2) (rm : BitVec 3) : (memForm asz m rm).AtMost 5 := by
  cases asz with
  | s16 =>
    unfold memForm
    dsimp only
    split
    · exact .bind word16_atMost fun _ => .pure _
    · exact .bind (disp16_atMost _) fun _ => .pure _
  | s32 =>
    unfold memForm
    dsimp only
    split
    · refine .bind (n := 4) .byte fun _ => ?_
      split
      · exact .bind word32_atMost fun _ => .pure _
      · exact .bind (disp32_atMost _) fun _ => .pure _
    · split
      · exact .bind word32_atMost fun _ => .pure _
      · exact .bind (disp32_atMost _) fun _ => .pure _

theorem rmOperand_atMost (asz : Size) (b : Byte) : (rmOperand asz b).AtMost 5 := by
  unfold rmOperand
  split
  · exact .mono (.pure _)
  · exact .bind (memForm_atMost _ _ _) fun _ => .pure _

/-! ## Opcodes and group members that are refused -/

section
variable {osz asz : Size} {m : Byte} {rest : List Byte}

theorem undefinedMember_refuses (h : 6 ≤ rest.length) : undefinedMember asz m rest = .error .undefinedOpcode := by
  obtain ⟨rm, cs, e, -⟩ := rmOperand_atMost asz m rest (by omega)
  exact Parser.bind_ok e

theorem undefinedMemberIb_refuses (h : 6 ≤ rest.length) : undefinedMemberIb asz m rest = .error .undefinedOpcode := by
  obtain ⟨rm, cs, e, l⟩ := rmOperand_atMost asz m rest (by omega)
  obtain ⟨b, ds, e', -⟩ := Parser.AtMost.byte cs (by omega)
  exact (Parser.bind_ok e).trans (Parser.bind_ok e')

/-- An operand that must be memory, where the ModR/M byte names a register (R354). -/
theorem memOperand_refuses {K : Mem → Parser Instr} (reg : hiField m = 3) :
    (memOperand asz m >>= K) rest = .error .registerForm := by
  rw [memOperand, if_pos reg]
  rfl

/-- An opcode with a ModR/M byte: the member of its group that the `reg` field selects. -/
theorem decode_member {op : Byte} {f g : Byte → Parser Instr} {n : Nat} {why : DecodeStop}
    (opcode : decodeOpcode osz asz op = nextByte >>= f) (member : ∀ b, (midField b).toNat = n → f b = g b)
    (reg : (midField m).toNat = n) (refuses : g m rest = .error why) :
    decode osz asz (op :: m :: rest) = .error why := by
  show decodeOpcode osz asz op (m :: rest) = _
  rw [opcode, ← refuses, ← member m reg]
  rfl

/-- The same for a two-byte opcode. -/
theorem decode_member_twoByte {op : Byte} {f g : Byte → Parser Instr} {n : Nat} {why : DecodeStop}
    (opcode : decodeTwoByte osz asz op = nextByte >>= f) (member : ∀ b, (midField b).toNat = n → f b = g b)
    (reg : (midField m).toNat = n) (refuses : g m rest = .error why) :
    decode osz asz (0x0F :: op :: m :: rest) = .error why := by
  show decodeTwoByte osz asz op (m :: rest) = _
  rw [opcode, ← refuses, ← member m reg]
  rfl

/-- A byte that is in a list of numbers is one of them. -/
theorem forall_byte_mem {l : List Nat} {P : Byte → Prop} (h : ∀ n ∈ l, P (BitVec.ofNat 8 n)) (op : Byte)
    (hop : op.toNat ∈ l) : P op := by
  have := h _ hop
  rwa [BitVec.ofNat_toNat, BitVec.setWidth_eq] at this

/-- POP, and MOV of an immediate, to an r/m operand are the only members of their groups. -/
theorem decode_popMov_undefined (h : 6 ≤ rest.length) (reg : 1 ≤ (midField m).toNat) :
    decode osz asz (0x8F :: m :: rest) = .error .undefinedOpcode ∧
    decode osz asz (0xC6 :: m :: rest) = .error .undefinedOpcode ∧
    decode osz asz (0xC7 :: m :: rest) = .error .undefinedOpcode := by
  obtain ⟨k, reg⟩ := Nat.exists_eq_add_of_le' reg
  exact ⟨decode_member rfl (fun b e => by rw [e]; rfl) reg (undefinedMember_refuses h),
    decode_member rfl (fun b e => by rw [e]; rfl) reg (undefinedMember_refuses h),
    decode_member rfl (fun b e => by rw [e]; rfl) reg (undefinedMember_refuses h)⟩

/-- The shifts and rotates have no member 6, by an immediate count, by 1 and by CL. -/
theorem decode_shift_undefined (h : 6 ≤ rest.length) (reg : (midField m).toNat = 6) :
    ∀ op : Byte, op.toNat ∈ [0xC0, 0xC1, 0xD0, 0xD1, 0xD2, 0xD3] →
      decode osz asz (op :: m :: rest) = .error .undefinedOpcode := by
  refine forall_byte_mem ?_
  simp only [List.forall_mem_cons, List.not_mem_nil, false_imp_iff, implies_true, and_true]
  exact ⟨decode_member rfl (fun b e => by rw [e]; rfl) reg (undefinedMemberIb_refuses h),
    decode_member rfl (fun b e => by rw [e]; rfl) reg (undefinedMemberIb_refuses h),
    decode_member rfl (fun b e => by rw [e]; rfl) reg (undefinedMember_refuses h),
    decode_member rfl (fun b e => by rw [e]; rfl) reg (undefinedMember_refuses h),
    decode_member rfl (fun b e => by rw [e]; rfl) reg (undefinedMember_refuses h),
    decode_member rfl (fun b e => by rw [e]; rfl) reg (undefinedMember_refuses h)⟩

/-- TEST of an immediate has one encoding in its group. -/
theorem decode_test_undefined (h : 6 ≤ rest.length) (reg : (midField m).toNat = 1) :
    decode osz asz (0xF6 :: m :: rest) = .error .undefinedOpcode ∧
    decode osz asz (0xF7 :: m :: rest) = .error .undefinedOpcode :=
  ⟨decode_member rfl (fun b e => by rw [e]; rfl) reg (undefinedMember_refuses h),
    decode_member rfl (fun b e => by rw [e]; rfl) reg (undefinedMember_refuses h)⟩

/-- INC and DEC are the only members that FEH has. -/
theorem decode_incDecByte_undefined (h : 6 ≤ rest.length) (reg : 2 ≤ (midField m).toNat) :
    decode osz asz (0xFE :: m :: rest) = .error .undefinedOpcode := by
  obtain ⟨k, reg⟩ := Nat.exists_eq_add_of_le' reg
  exact decode_member rfl (fun b e => by rw [e]; rfl) reg (undefinedMember_refuses h)

/-- The group of INC, DEC, CALL, JMP and PUSH has no member 7. -/
theorem decode_incPushGroup_undefined (h : 6 ≤ rest.length) (reg : (midField m).toNat = 7) :
    decode osz asz (0xFF :: m :: rest) = .error .undefinedOpcode :=
  decode_member rfl (fun b e => by rw [e]; rfl) reg (undefinedMember_refuses h)

/-- SLDT, STR, LLDT, LTR, VERR and VERW are members 0 to 5. -/
theorem decode_descGroup_undefined (h : 6 ≤ rest.length) (reg : 6 ≤ (midField m).toNat) :
    decode osz asz (0x0F :: 0x00 :: m :: rest) = .error .undefinedOpcode := by
  obtain ⟨k, reg⟩ := Nat.exists_eq_add_of_le' reg
  exact decode_member_twoByte rfl (fun b e => by rw [e]; rfl) reg (undefinedMember_refuses h)

/-- The group of the descriptor-table registers and the machine status word has no members 5 and 7. -/
theorem decode_tableGroup_undefined (h : 6 ≤ rest.length) (reg : (midField m).toNat = 5 ∨ (midField m).toNat = 7) :
    decode osz asz (0x0F :: 0x01 :: m :: rest) = .error .undefinedOpcode := by
  rcases reg with reg | reg
  all_goals exact decode_member_twoByte rfl (fun b e => by rw [e]; rfl) reg (undefinedMember_refuses h)

/-- The bit tests by an immediate are members 4 to 7. -/
theorem decode_bitGroup_undefined (h : 6 ≤ rest.length) (reg : (midField m).toNat < 4) :
    decode osz asz (0x0F :: 0xBA :: m :: rest) = .error .undefinedOpcode := by
  obtain reg | reg | reg | reg : (midField m).toNat = 0 ∨ (midField m).toNat = 1 ∨ (midField m).toNat = 2 ∨
    (midField m).toNat = 3 := by omega
  all_goals exact decode_member_twoByte rfl (fun b e => by rw [e]; rfl) reg (undefinedMemberIb_refuses h)

/-- The second bytes of two-byte opcodes (R352), but those of Jcc and SETcc. -/
def listedTwoByte : List Nat :=
  [0x00, 0x01, 0x02, 0x03, 0x06, 0x20, 0x21, 0x22, 0x23, 0x24, 0x26, 0xA0, 0xA1, 0xA3, 0xA4, 0xA5, 0xA8, 0xA9, 0xAB, 0xAC,
    0xAD, 0xAF, 0xB2, 0xB3, 0xB4, 0xB5, 0xB6, 0xB7, 0xBA, 0xBB, 0xBC, 0xBD, 0xBE, 0xBF]

theorem decodeTwoByte_unlisted {b : Byte} (h : b.toNat ∉ listedTwoByte) (h' : ¬ (0x80 ≤ b.toNat ∧ b.toNat ≤ 0x9F)) :
    decodeTwoByte osz asz b = stopDecode .undefinedOpcode := by
  simp only [listedTwoByte, List.mem_cons, List.not_mem_nil, or_false, not_or] at h
  unfold decodeTwoByte
  split
  any_goals omega
  rfl

/-! ## Register forms of instructions that take a memory operand (R354) -/

theorem decode_registerForm {op : Byte} {f : Byte → Parser Instr} {n : Nat}
    (opcode : decodeOpcode osz asz op = nextByte >>= f)
    (member : ∀ b, (midField b).toNat = n → ∃ K, f b = memOperand asz b >>= K)
    (reg : (midField m).toNat = n) (h : hiField m = 3) : decode osz asz (op :: m :: rest) = .error .registerForm := by
  obtain ⟨K, e⟩ := member m reg
  show decodeOpcode osz asz op (m :: rest) = _
  rw [opcode]
  exact (congrFun e rest).trans (memOperand_refuses h)

theorem decode_registerForm_twoByte {op : Byte} {f : Byte → Parser Instr} {n : Nat}
    (opcode : decodeTwoByte osz asz op = nextByte >>= f)
    (member : ∀ b, (midField b).toNat = n → ∃ K, f b = memOperand asz b >>= K)
    (reg : (midField m).toNat = n) (h : hiField m = 3) :
    decode osz asz (0x0F :: op :: m :: rest) = .error .registerForm := by
  obtain ⟨K, e⟩ := member m reg
  show decodeTwoByte osz asz op (m :: rest) = _
  rw [opcode]
  exact (congrFun e rest).trans (memOperand_refuses h)

/-- BOUND, LEA, LES and LDS. -/
theorem decode_pointer_registerForm (h : hiField m = 3) :
    ∀ op : Byte, op.toNat ∈ [0x62, 0x8D, 0xC4, 0xC5] → decode osz asz (op :: m :: rest) = .error .registerForm := by
  refine forall_byte_mem ?_
  simp only [List.forall_mem_cons, List.not_mem_nil, false_imp_iff, implies_true, and_true]
  exact ⟨decode_registerForm rfl (fun _ _ => ⟨_, rfl⟩) rfl h, decode_registerForm rfl (fun _ _ => ⟨_, rfl⟩) rfl h,
    decode_registerForm rfl (fun _ _ => ⟨_, rfl⟩) rfl h, decode_registerForm rfl (fun _ _ => ⟨_, rfl⟩) rfl h⟩

/-- LSS, LFS and LGS. -/
theorem decode_loadFar_registerForm (h : hiField m = 3) : ∀ op : Byte, op.toNat ∈ [0xB2, 0xB4, 0xB5] →
    decode osz asz (0x0F :: op :: m :: rest) = .error .registerForm := by
  refine forall_byte_mem ?_
  simp only [List.forall_mem_cons, List.not_mem_nil, false_imp_iff, implies_true, and_true]
  exact ⟨decode_registerForm_twoByte rfl (fun _ _ => ⟨_, rfl⟩) rfl h,
    decode_registerForm_twoByte rfl (fun _ _ => ⟨_, rfl⟩) rfl h,
    decode_registerForm_twoByte rfl (fun _ _ => ⟨_, rfl⟩) rfl h⟩

/-- CALL and JMP through a far pointer. -/
theorem decode_farIndirect_registerForm (h : hiField m = 3) (reg : (midField m).toNat = 3 ∨ (midField m).toNat = 5) :
    decode osz asz (0xFF :: m :: rest) = .error .registerForm := by
  rcases reg with reg | reg
  all_goals exact decode_registerForm rfl (fun b e => by rw [e]; exact ⟨_, rfl⟩) reg h

/-- SGDT, SIDT, LGDT and LIDT. -/
theorem decode_table_registerForm (h : hiField m = 3) (reg : (midField m).toNat < 4) :
    decode osz asz (0x0F :: 0x01 :: m :: rest) = .error .registerForm := by
  obtain reg | reg | reg | reg : (midField m).toNat = 0 ∨ (midField m).toNat = 1 ∨ (midField m).toNat = 2 ∨
    (midField m).toNat = 3 := by omega
  all_goals exact decode_registerForm_twoByte rfl (fun b e => by rw [e]; exact ⟨_, rfl⟩) reg h

end

end Sys2Proof

namespace Sys2Proof.Machine

/-! ## Instructions that real-address mode does not have (23_real_address_mode.md R296) -/

theorem run_protectedOnly {s : State} {f : Unit → M Unit} (pe : s.cr0.pe = false) (lock : s.cur.lock = false) :
    run false (protectedOnly >>= f) s = takeFault s s.entered ud :=
  run_exc (fun l => absurd (lock.symm.trans l) nofun) (bind_error (require_eq_error.mpr ⟨pe, rfl, rfl⟩))

/-! ## The opcodes that take the exception in every state (30_encoding.md R353) -/

theorem run_raise (s : State) (x : Exn) (lock : s.cur.lock = false) : run false (raise x) s = takeFault s s.entered x :=
  run_exc (fun l => absurd (lock.symm.trans l) nofun) rfl

theorem exec_undefined {i : Instr} (h : i ∈ [Instr.undef82, .undefD6, .undefF1]) (s : State) :
    exec i s = takeFault s (if s.cur.lock then s else s.entered) ud := by
  have meaning : exec i s = run false (raise ud) s := by
    simp only [List.mem_cons, List.not_mem_nil, or_false] at h
    rcases h with rfl | rfl | rfl <;> rfl
  rw [meaning]
  cases lock : s.cur.lock
  · exact run_raise s ud lock
  · exact run_locked lock

/-- A fault that changed nothing, delivered from the state before the instruction. -/
theorem takeFault_delivered {s u t : State} {x : Exn} (committed : u.cur.committed = false)
    (partway : u.cur.partway = false) (same : s.rollback u = s)
    (d : deliver (faultEvent x s.cur.start false) { s with cur := { s.cur with incomplete := true } } = .ok () t) :
    takeFault s u x = .next t := by
  have resume : resumeAt s u s.cur.start = (s, s.cur.start) := by
    simp only [resumeAt, committed, partway, same, Bool.false_eq_true, if_false]
  unfold takeFault
  rw [resume]
  dsimp only
  rw [d]

/-! ## A LOCK that is not allowed (20_memory.md R127) -/

/-- The instructions that may be locked, with a memory destination (R127). -/
def TakesLock (i : Instr) : Prop :=
  (∃ (op : AluOp) (f : AluForm), i = op.instr f ∧ op.lockable f = true) ∨
  (∃ (op : UnaryOp) (f : UnaryForm), i = op.instr f ∧ isMem f.operand = true) ∨
  (∃ m, i = .notEb (.mem m) ∨ i = .notEv (.mem m)) ∨
  (∃ m r, i = .xchgEbGb (.mem m) r ∨ i = .xchgEvGv (.mem m) r) ∨
  (∃ (op : BitOp) (m : Mem), op.writes = true ∧ ((∃ r, i = op.byReg (.mem m) r) ∨ ∃ v, i = op.byImm (.mem m) v))

/-- The instruction takes #UD in that state, or may be locked. -/
def LockChecked (s : State) (i : Instr) : Prop := exec i s = takeFault s s ud ∨ TakesLock i

section
variable {s : State} (lock : s.cur.lock = true)
include lock

/-- What runs with LOCK where its r/m operand is memory only. -/
theorem run_isMem_locked {P : Prop} {m : M Unit} {rm : RM} (mem : isMem rm = true → P) :
    run (isMem rm) m s = takeFault s s ud ∨ P := by
  cases rm with
  | reg r => exact .inl (run_locked lock)
  | mem x => exact .inr (mem rfl)

theorem alu_lockChecked (op : AluOp) (f : AluForm) : LockChecked s (op.instr f) := by
  suffices h : exec (op.instr f) s = takeFault s s ud ∨ op.lockable f = true from h.imp_right fun h => .inl ⟨op, f, rfl, h⟩
  cases f with
  | ebGb | evGv | ebIb | evIv | evIb =>
    cases op with
    | cmp => exact .inl (run_locked lock)
    | _ => exact run_isMem_locked lock id
  | gbEb | gvEv | alIb | eaxIv => cases op <;> exact .inl (run_locked lock)

theorem unary_lockChecked (op : UnaryOp) (f : UnaryForm) : LockChecked s (op.instr f) := by
  suffices h : exec (op.instr f) s = takeFault s s ud ∨ isMem f.operand = true from
    h.imp_right fun h => .inr (.inl ⟨op, f, rfl, h⟩)
  cases op <;> cases f <;> exact run_isMem_locked lock id

theorem bit_lockChecked (op : BitOp) (rm : RM) :
    (∀ r, LockChecked s (op.byReg rm r)) ∧ ∀ v, LockChecked s (op.byImm rm v) := by
  cases rm with
  | reg => cases op <;> exact ⟨fun _ => .inl (run_locked lock), fun _ => .inl (run_locked lock)⟩
  | mem m =>
    have takes (w : op.writes = true) :
        (∀ r, LockChecked s (op.byReg (.mem m) r)) ∧ ∀ v, LockChecked s (op.byImm (.mem m) v) :=
      ⟨fun r => .inr (.inr (.inr (.inr (.inr ⟨op, m, w, .inl ⟨r, rfl⟩⟩)))),
        fun v => .inr (.inr (.inr (.inr (.inr ⟨op, m, w, .inr ⟨v, rfl⟩⟩))))⟩
    cases op with
    | bt => exact ⟨fun _ => .inl (run_locked lock), fun _ => .inl (run_locked lock)⟩
    | bts | btr | btc => exact takes rfl

theorem not_lockChecked (rm : RM) : LockChecked s (.notEb rm) ∧ LockChecked s (.notEv rm) := by
  cases rm with
  | reg => exact ⟨.inl (run_locked lock), .inl (run_locked lock)⟩
  | mem m => exact ⟨.inr (.inr (.inr (.inl ⟨m, .inl rfl⟩))), .inr (.inr (.inr (.inl ⟨m, .inr rfl⟩)))⟩

theorem xchg_lockChecked (rm : RM) (r : Reg) : LockChecked s (.xchgEbGb rm r) ∧ LockChecked s (.xchgEvGv rm r) := by
  cases rm with
  | reg => exact ⟨.inl (run_locked lock), .inl (run_locked lock)⟩
  | mem m =>
    exact ⟨.inr (.inr (.inr (.inr (.inl ⟨m, r, .inl rfl⟩)))), .inr (.inr (.inr (.inr (.inl ⟨m, r, .inr rfl⟩))))⟩

/-- Every instruction but those of R127 with a memory destination takes #UD. -/
theorem exec_lockChecked {i : Instr} (h : isPrefix i = false) : LockChecked s i := by
  cases i with
  | addEbGb rm r => exact alu_lockChecked lock .add (.ebGb rm r)
  | addEvGv rm r => exact alu_lockChecked lock .add (.evGv rm r)
  | addEbIb rm v => exact alu_lockChecked lock .add (.ebIb rm v)
  | addEvIv rm v => exact alu_lockChecked lock .add (.evIv rm v)
  | addEvIb rm v => exact alu_lockChecked lock .add (.evIb rm v)
  | orEbGb rm r => exact alu_lockChecked lock .or (.ebGb rm r)
  | orEvGv rm r => exact alu_lockChecked lock .or (.evGv rm r)
  | orEbIb rm v => exact alu_lockChecked lock .or (.ebIb rm v)
  | orEvIv rm v => exact alu_lockChecked lock .or (.evIv rm v)
  | orEvIb rm v => exact alu_lockChecked lock .or (.evIb rm v)
  | adcEbGb rm r => exact alu_lockChecked lock .adc (.ebGb rm r)
  | adcEvGv rm r => exact alu_lockChecked lock .adc (.evGv rm r)
  | adcEbIb rm v => exact alu_lockChecked lock .adc (.ebIb rm v)
  | adcEvIv rm v => exact alu_lockChecked lock .adc (.evIv rm v)
  | adcEvIb rm v => exact alu_lockChecked lock .adc (.evIb rm v)
  | sbbEbGb rm r => exact alu_lockChecked lock .sbb (.ebGb rm r)
  | sbbEvGv rm r => exact alu_lockChecked lock .sbb (.evGv rm r)
  | sbbEbIb rm v => exact alu_lockChecked lock .sbb (.ebIb rm v)
  | sbbEvIv rm v => exact alu_lockChecked lock .sbb (.evIv rm v)
  | sbbEvIb rm v => exact alu_lockChecked lock .sbb (.evIb rm v)
  | andEbGb rm r => exact alu_lockChecked lock .and (.ebGb rm r)
  | andEvGv rm r => exact alu_lockChecked lock .and (.evGv rm r)
  | andEbIb rm v => exact alu_lockChecked lock .and (.ebIb rm v)
  | andEvIv rm v => exact alu_lockChecked lock .and (.evIv rm v)
  | andEvIb rm v => exact alu_lockChecked lock .and (.evIb rm v)
  | subEbGb rm r => exact alu_lockChecked lock .sub (.ebGb rm r)
  | subEvGv rm r => exact alu_lockChecked lock .sub (.evGv rm r)
  | subEbIb rm v => exact alu_lockChecked lock .sub (.ebIb rm v)
  | subEvIv rm v => exact alu_lockChecked lock .sub (.evIv rm v)
  | subEvIb rm v => exact alu_lockChecked lock .sub (.evIb rm v)
  | xorEbGb rm r => exact alu_lockChecked lock .xor (.ebGb rm r)
  | xorEvGv rm r => exact alu_lockChecked lock .xor (.evGv rm r)
  | xorEbIb rm v => exact alu_lockChecked lock .xor (.ebIb rm v)
  | xorEvIv rm v => exact alu_lockChecked lock .xor (.evIv rm v)
  | xorEvIb rm v => exact alu_lockChecked lock .xor (.evIb rm v)
  | incEb rm => exact unary_lockChecked lock .inc (.eb rm)
  | incEv rm => exact unary_lockChecked lock .inc (.ev rm)
  | decEb rm => exact unary_lockChecked lock .dec (.eb rm)
  | decEv rm => exact unary_lockChecked lock .dec (.ev rm)
  | negEb rm => exact unary_lockChecked lock .neg (.eb rm)
  | negEv rm => exact unary_lockChecked lock .neg (.ev rm)
  | notEb rm => exact (not_lockChecked lock rm).1
  | notEv rm => exact (not_lockChecked lock rm).2
  | xchgEbGb rm r => exact (xchg_lockChecked lock rm r).1
  | xchgEvGv rm r => exact (xchg_lockChecked lock rm r).2
  | btsEvGv rm r => exact (bit_lockChecked lock .bts rm).1 r
  | btrEvGv rm r => exact (bit_lockChecked lock .btr rm).1 r
  | btcEvGv rm r => exact (bit_lockChecked lock .btc rm).1 r
  | btsEvIb rm v => exact (bit_lockChecked lock .bts rm).2 v
  | btrEvIb rm v => exact (bit_lockChecked lock .btr rm).2 v
  | btcEvIb rm v => exact (bit_lockChecked lock .btc rm).2 v
  | pfxEs | pfxCs | pfxSs | pfxDs | pfxFs | pfxGs | pfxOpSize | pfxAddrSize | pfxLock | pfxRepne | pfxRep => cases h
  | _ => exact .inl (run_locked lock)

end

/-- Settles O32: each clause by what the instruction's meaning begins with, or where the decoder stops. -/
theorem invalidOpcodes : Obligations.InvalidOpcodes := by
  refine ⟨fun s rm r pe lock => ?_, ⟨fun s t i hi => ⟨exec_undefined hi s, fun committed partway d => ?_⟩,
    fun osz asz m rest => ?_⟩, fun i s lock hi notTaken => ?_⟩
  · simp only [List.forall_mem_cons, List.not_mem_nil, false_imp_iff, implies_true, and_true]
    exact ⟨run_protectedOnly pe lock, run_protectedOnly pe lock, run_protectedOnly pe lock, run_protectedOnly pe lock,
      run_protectedOnly pe lock, run_protectedOnly pe lock, run_protectedOnly pe lock, run_protectedOnly pe lock,
      run_protectedOnly pe lock⟩
  · rw [exec_undefined hi s]
    cases s.cur.lock
    · exact takeFault_delivered (u := s.entered) committed partway rfl d
    · exact takeFault_delivered (u := s) committed partway rfl d
  · intro refused reg
    refine ⟨fun b unlisted notCond => congrFun (decodeTwoByte_unlisted unlisted notCond) rest, fun len => ?_, fun isReg => ?_⟩
    · exact ⟨decode_popMov_undefined len, decode_shift_undefined len, decode_test_undefined len,
        decode_incDecByte_undefined len, decode_incPushGroup_undefined len,
        decode_descGroup_undefined len, decode_tableGroup_undefined len, decode_bitGroup_undefined len⟩
    · exact ⟨decode_pointer_registerForm isReg, decode_loadFar_registerForm isReg, decode_farIndirect_registerForm isReg,
        decode_table_registerForm isReg⟩
  · exact (exec_lockChecked lock hi).resolve_right notTaken

end Sys2Proof.Machine

/-! # The data segments after a return to an outer level (21_translation_protection.md R200) -/

namespace Sys2Proof.Machine

/-- The check of a data segment register passes over a register that may be kept, and nulls any other. -/
theorem Seg.keepOrNull_eq (g : Seg) (cpl : BitVec 2) : g.keepOrNull cpl =
    if g.valid = true ∧ g.attr.conforming = false ∧ g.attr.dpl < cpl then { g with sel := 0, valid := false } else g := by
  simp [Seg.keepOrNull, and_assoc]

theorem State.nullOuter_seg (s : State) {r : SReg} (data : r = .ds ∨ r = .es ∨ r = .fs ∨ r = .gs) :
    s.nullOuter.seg r = (s.seg r).keepOrNull s.cpl := by
  rcases data with rfl | rfl | rfl | rfl <;> rfl

/-- Settles O34: what the return leaves of each data segment register is `Seg.keepOrNull`, and each clause is a case of it. -/
theorem outerReturnNulls : Obligations.OuterReturnNulls := by
  intro s r data g h
  have kept : h = g.keepOrNull s.cpl := s.nullOuter_seg data
  rw [Seg.keepOrNull_eq] at kept
  refine ⟨fun valid notConforming inner => ?_, fun mayKeep => ?_, rfl, rfl, rfl⟩
  · rw [if_pos ⟨valid, notConforming, inner⟩] at kept
    exact ⟨congrArg Seg.sel kept, congrArg Seg.valid kept⟩
  · refine kept.trans (if_neg fun ⟨valid, notConforming, inner⟩ => ?_)
    rcases mayKeep with invalid | conforming | outer
    · exact absurd (invalid.symm.trans valid) nofun
    · exact absurd (notConforming.symm.trans conforming) nofun
    · exact absurd inner (BitVec.not_lt.mpr outer)

end Sys2Proof.Machine

/-! # The privileged instructions (21_translation_protection.md R201) -/

namespace Sys2Proof.Machine

section
variable {s : State} {f : Unit → M Unit} (outer : s.cpl ≠ 0) (lock : s.cur.lock = false)
include outer

/-- Outside privilege level 0 a privileged action raises #GP(0) and nothing of it is done. -/
theorem privileged_outer : (privileged >>= f) s = .error (.exc gp0) s :=
  bind_error (require_eq_error.mpr ⟨beq_false_of_ne outer, rfl, rfl⟩)

include lock

theorem run_privileged : run false (privileged >>= f) s = takeFault s s.entered gp0 :=
  run_exc (fun l => absurd (lock.symm.trans l) nofun) (privileged_outer (s := s.entered) outer)

/-- LLDT and LTR look at the mode first. -/
theorem run_protectedOnly_privileged (pe : s.cr0.pe = true) :
    run false (protectedOnly >>= fun _ => privileged >>= f) s = takeFault s s.entered gp0 :=
  run_exc (fun l => absurd (lock.symm.trans l) nofun)
    ((bind_ok (require_eq_ok.mpr ⟨pe, rfl⟩)).trans (privileged_outer (s := s.entered) outer))

/-- MOV to and from a test register looks at its number first. -/
theorem run_testNumber_privileged {n : BitVec 3} (named : n = 6 ∨ n = 7) :
    run false (testNumber n >>= fun _ => privileged >>= f) s = takeFault s s.entered gp0 := by
  have inRange : decide (6 ≤ n.toNat) = true := by rcases named with rfl | rfl <;> rfl
  exact run_exc (fun l => absurd (lock.symm.trans l) nofun)
    ((bind_ok (require_eq_ok.mpr ⟨inRange, rfl⟩)).trans (privileged_outer (s := s.entered) outer))

end

/-- Settles O31: each of the instructions begins with the test of the privilege level, but for what LLDT, LTR and the test
registers look at before it. -/
theorem privilegedInstructions : Obligations.PrivilegedInstructions := by
  intro s outer lock
  refine ⟨fun i listed => ?_, fun pe rm =>
    ⟨run_protectedOnly_privileged outer lock pe, run_protectedOnly_privileged outer lock pe⟩⟩
  rcases listed with rfl | rfl | ⟨m, rfl⟩ | ⟨m, rfl⟩ | ⟨rm, rfl⟩ | ⟨r, n, rfl⟩ | ⟨n, r, rfl⟩ | ⟨r, n, rfl⟩ | ⟨n, r, rfl⟩ |
    ⟨r, n, named, rfl⟩ | ⟨n, r, named, rfl⟩
  any_goals exact run_privileged outer lock
  · exact run_testNumber_privileged outer lock named
  · exact run_testNumber_privileged outer lock named

end Sys2Proof.Machine

/-! # The right to use a port (21_translation_protection.md R235, R237; 49_io_coprocessor.md R700) -/

namespace Sys2Proof.Machine

/-! ## The bits of the I/O permission map -/

section
variable {s t u : State} {base port n : Nat}

theorem portBitClear_beyond (beyond : s.tr.limit.toNat < base + port / 8 + ((mapWidth s).bytes - 1)) :
    portBitClear s base port t = .ok false t := by
  simp only [portBitClear, beyond, if_true, pure_run]

theorem portBitClear_read {b : Val (mapWidth s)} (inside : base + port / 8 + ((mapWidth s).bytes - 1) ≤ s.tr.limit.toNat)
    (read : linRead (mapWidth s) (s.tr.base + BitVec.ofNat 32 (base + port / 8)) false t = .ok b u) :
    portBitClear s base port t = .ok (!b.getLsbD (port % 8)) u := by
  simp only [portBitClear, Nat.not_lt.mpr inside, if_false, bind_run, read, pure_run]

/-- The bits up to one that is not readable and clear. -/
theorem portBitsClear_stop (stop : portBitClear s base port t = .ok false u) :
    portBitsClear s base port (n + 1) t = .ok false u := by
  rw [portBitsClear, bind_ok stop]
  rfl

/-- The bits after some that are readable and clear. -/
theorem portBitsClear_skip {t : Nat → State} {m : Nat} : ∀ {k : Nat},
    (∀ i < k, portBitClear s base (port + i) (t i) = .ok true (t (i + 1))) →
    portBitsClear s base port (k + m) (t 0) = portBitsClear s base (port + k) m (t k)
  | 0, _ => by rw [Nat.zero_add, Nat.add_zero]
  | k + 1, clear => by
    rw [Nat.add_right_comm, Nat.add_assoc, portBitsClear_skip fun i hi => clear i (Nat.lt_succ_of_lt hi), portBitsClear,
      bind_ok (clear k (Nat.lt_succ_self k))]
    rfl

end

/-! ## The check of the ports -/

section
variable {port : Word16} {n : Nat} {s t u : State}

theorem ioCheck_given (given : s.cr0.pe = false ∨ s.cpl ≤ s.flags.iopl) :
    ioCheck port n s = if 0x10000 < port.toNat + n then .error (.refuse .portPastEnd) s else .ok () s := by
  have skipped : (s.cr0.pe && decide (s.flags.iopl < s.cpl)) = false := by
    rcases given with real | inner
    · rw [real, Bool.false_and]
    · rw [decide_eq_false (BitVec.not_lt.mpr inner), Bool.and_false]
  simp only [ioCheck, bind_run, get_run, skipped, Bool.false_eq_true, if_false]
  split <;> rfl

section
variable (pe : s.cr0.pe = true) (outer : s.flags.iopl < s.cpl)
include pe outer

theorem ioCheck_denied (h : ioPermitted port n s = .ok false u) : ioCheck port n s = .error (.exc gp0) u := by
  simp [ioCheck, pe, outer, h]

theorem ioCheck_permitted (h : ioPermitted port n s = .ok true u) (inside : port.toNat + n ≤ 0x10000) :
    ioCheck port n s = .ok () u := by
  simp [ioCheck, pe, outer, h, Nat.not_lt.mpr inside]

end

theorem ioPermitted_noTss (notAvailable : s.tr.type ≠ 9) (notBusy : s.tr.type ≠ 0xB) :
    ioPermitted port n s = .ok false s := by
  simp only [ioPermitted, bind_run, get_run, beq_false_of_ne notAvailable, beq_false_of_ne notBusy, Bool.or_false,
    Bool.not_false, if_true, pure_run]

section
variable {map : Word16} (tss : s.tr.type = 9 ∨ s.tr.type = 0xB)
  (read : linRead .b16 (s.tr.base + 0x66) false s = .ok map u)
include tss read

theorem ioPermitted_tss : ioPermitted port n s =
    if s.tr.limit.toNat ≤ map.toNat then .ok false u else portBitsClear s map.toNat port.toNat n u := by
  have is386 : (s.tr.type == 9 || s.tr.type == 0xB) = true := by rcases tss with h | h <;> rw [h] <;> rfl
  simp only [ioPermitted, bind_run, get_run, is386, Bool.not_true, Bool.false_eq_true, if_false, read]
  split <;> rfl

theorem ioPermitted_noMap (beyond : s.tr.limit.toNat ≤ map.toNat) : ioPermitted port n s = .ok false u := by
  rw [ioPermitted_tss tss read, if_pos beyond]

theorem ioPermitted_map (inside : map.toNat < s.tr.limit.toNat) :
    ioPermitted port n s = portBitsClear s map.toNat port.toNat n u := by
  rw [ioPermitted_tss tss read, if_neg (Nat.not_le.mpr inside)]

end

end

/-- Settles O39: the bits before the one in question are passed over by `portBitsClear_skip`; that one, or their end, decides
the check. -/
theorem portPermission : Obligations.PortPermission := by
  intro port n s
  refine ⟨fun given => ?_, fun pe outer notAvailable notBusy => ?_, fun map u pe outer tss read => ⟨fun beyond => ?_,
    fun inside => ?_⟩⟩
  · rw [ioCheck_given given]
    exact ⟨fun inside => if_neg (Nat.not_lt.mpr inside), fun past => if_pos past⟩
  · exact ioCheck_denied pe outer (ioPermitted_noTss notAvailable notBusy)
  · exact ioCheck_denied pe outer (ioPermitted_noMap tss read beyond)
  · intro w off b t start reads clear
    have bitRead {i : Nat} (h : reads i) :
        portBitClear s map.toNat (port.toNat + i) (t i) = .ok (!(b i).getLsbD ((port.toNat + i) % 8)) (t (i + 1)) :=
      portBitClear_read h.1 h.2
    have permitted {k m : Nat} (split : n = k + m) (passed : ∀ i < k, reads i ∧ clear i) :
        ioPermitted port n s = portBitsClear s map.toNat (port.toNat + k) m (t k) := by
      rw [ioPermitted_map tss read inside, split, ← start]
      refine portBitsClear_skip fun i hi => ?_
      obtain ⟨hr, hc⟩ := passed i hi
      rw [bitRead hr, hc, Bool.not_false]
    refine ⟨fun inRange all => ioCheck_permitted pe outer (permitted (m := 0) rfl all) inRange, fun k hk passed => ?_⟩
    have upTo := permitted (show n = k + (n - k - 1 + 1) by omega) passed
    refine ⟨fun hr set => ?_, fun beyond => ?_⟩
    · have stop := bitRead hr
      rw [eq_true_of_ne_false set, Bool.not_true] at stop
      exact ioCheck_denied pe outer (upTo.trans (portBitsClear_stop stop))
    · exact ioCheck_denied pe outer (upTo.trans (portBitsClear_stop (portBitClear_beyond beyond)))

end Sys2Proof.Machine

/-! # Far JMP and CALL to a code segment in protected mode (21_translation_protection.md R191; 44_control_transfer.md R526,
R527) -/

namespace Sys2Proof.Machine

section
variable {s a : State} {jmp call : Instr} {off : Word32} {sel : Word16}

/-! ## The operand -/

theorem FarPair.reading (h : FarPair s jmp call off sel a) : Reading s.entered a := by
  rcases h with ⟨-, -, rfl⟩ | ⟨m, v, x, -, -, -, readOff, readSel⟩
  · exact Reading.order.refl _
  · exact Reading.order.trans ((segRead_reading _ _ _).ok readOff) ((segRead_reading _ _ _).ok readSel)

theorem run_settle {m : M Unit} (lock : s.cur.lock = false) : run false m s = settle s (m s.entered) := by
  rw [run, begin_run fun l => absurd (lock.symm.trans l) nofun]

theorem farIndirect_operand {k : FarKind} {w : Width} {m : Mem} {v : Val w} {x : State}
    (readOff : segRead w (s.segOr (defaultSeg m)) (effAddr s.regs m) s = .ok v x)
    (readSel : segRead .b16 (s.segOr (defaultSeg m)) (effAddr s.regs m + distOf w) x = .ok sel a) :
    farIndirect k w m s = farTransfer k w sel (v.setWidth 32) a :=
  (bind_ok (get_run s)).trans ((bind_ok readOff).trans (bind_ok readSel))

/-- A far JMP and CALL are the transfer from the state in which their operand has been read. -/
theorem FarPair.exec_eq (h : FarPair s jmp call off sel a) (lock : s.cur.lock = false) :
    exec jmp s = settle s (farTransfer .jmp s.opw sel off a) ∧
      exec call s = settle s (farTransfer .call s.opw sel off a) := by
  rcases h with ⟨rfl, rfl, rfl⟩ | ⟨m, v, x, rfl, rfl, rfl, readOff, readSel⟩
  · exact ⟨run_settle lock, run_settle lock⟩
  · have operand (k : FarKind) := congrArg (settle s) (farIndirect_operand (k := k) (s := s.entered) readOff readSel)
    exact ⟨(run_settle lock).trans (operand .jmp), (run_settle lock).trans (operand .call)⟩

end

/-! ## The return address pushed -/

/-- A check of slots reads. -/
theorem Probed.reading {user : Bool} {w : Width} : ∀ {k : Nat} {s t : State}, Probed user w k s t → Reading s t
  | 0, _, _, h => h ▸ Reading.order.refl _
  | _ + 1, _, _, ⟨_, _, before, e⟩ => Reading.order.trans before.reading ((segResolveAs_reading _ _ _ _ _ _).ok e)

/-- What an instruction has read up to a state is what that state differs in from the one it began in. -/
theorem Access.exists_through {s u : State} (h : Access s.entered u) : ∃ x, u = s.through x := ⟨u, h.1⟩

section
variable {s a t : State} {w : Width} {pas : List Word32}

theorem pushReturn_eq : pushReturn w a =
    (probePushesAs a.user w 2 >>= fun _ => pushAll w [a.cs.sel.setWidth w.bits, a.nextIp.setWidth w.bits]) a := by
  have two (b c : Val w) : pushAll w [b, c] = (push w b >>= fun _ => push w c) :=
    congrArg (push w b >>= ·) (funext fun _ => bind_pure_unit)
  simp only [pushReturn, probePushes, two, bind_assoc, bind_run, get_run]

theorem PushesReturn.run (h : PushesReturn s w a t pas) (begun : Access s.entered a) : pushReturn w a = .ok () t := by
  obtain ⟨u, probed, pushed⟩ := h
  obtain ⟨x, rfl⟩ := begun.exists_through
  obtain ⟨y, rfl⟩ := (Access.order.trans begun probed.reading.1).exists_through
  exact pushReturn_eq.trans ((bind_ok (probePushesAs_ok.mpr probed)).trans pushed.pushAll)

theorem ProbeFails.pushReturn {x : Exn} (h : ProbeFails s.user w 2 a x t) (begun : Access s.entered a) :
    pushReturn w a = .error (.exc x) t := by
  obtain ⟨y, rfl⟩ := begun.exists_through
  exact pushReturn_eq.trans (bind_error (probePushesAs_exc.mpr h))

/-- After the pushes the state differs from the one the instruction began in by (E)SP and what accesses change. -/
theorem PushesReturn.access (h : PushesReturn s w a t pas) (begun : Access s.entered a) :
    Access (s.entered.moveSP (-BitVec.ofNat 32 (2 * w.bytes))) t := by
  obtain ⟨u, probed, pushed⟩ := h
  exact Access.order.trans ((Access.order.trans begun probed.reading.1).moveSP _) pushed.state

theorem PushesReturn.cpl (h : PushesReturn s w a t pas) (begun : Access s.entered a) : t.cpl = s.cpl := by
  rw [(h.access begun).1]
  rfl

theorem PushesReturn.pushed (h : PushesReturn s w a t pas) (begun : Reading s.entered a) : ReturnPushed s w t pas := by
  refine ⟨?_, fun pg wf => ?_⟩
  · rw [(h.access begun.1).1, BitVec.sub_eq_add_neg]
    rfl
  · obtain ⟨u, probed, pushed⟩ := h
    have readUp := Reading.order.trans begun probed.reading
    obtain ⟨slots, kept⟩ := pushed.kept (by rw [readUp.1.1]; exact pg) (readUp.wf wf)
    exact ⟨slots.trans (slots_access readUp.1 w 2), kept.since readUp pg wf⟩

end

/-! ## The transfer -/

section
variable {a u v x : State} {k : FarKind} {w : Width} {sel : Word16} {off : Word32} {d : Desc}

theorem Desc.directOk_iff (d : Desc) (cpl : BitVec 2) (sel : Word16) : d.directOk cpl sel = true ↔
    d.dpl ≤ cpl ∧ d.attr.conforming = true ∨ d.dpl = cpl ∧ rpl sel ≤ cpl ∧ d.attr.conforming = false := by
  unfold Desc.directOk
  cases d.attr.conforming <;> simp

theorem enterCode_ok (accessed : setAccessed sel d u = .ok () x) :
    enterCode sel d off u = .ok () ({ x with cs := d.seg (withRpl sel x.cpl) }.jumped off) := bind_ok accessed

theorem farTransfer_protected (pe : a.cr0.pe = true) : farTransfer k w sel off a = farProtected k w sel off a := by
  simp only [farTransfer, bind_run, get_run, pe, if_true]

theorem farProtected_null (null : selNull sel = true) : farProtected k w sel off a = .error (.exc gp0) a := by
  simp only [farProtected, bind_run, get_run, require_run, null, Bool.not_true, Bool.false_eq_true, if_false]

section
variable (notNull : selNull sel = false)
include notNull

theorem farProtected_unread {e : Exn} (unread : readDesc sel (gpFault sel) a = .error (.exc e) u) :
    farProtected k w sel off a = .error (.exc e) u := by
  simp only [farProtected, bind_run, get_run, require_run, notNull, Bool.not_false, if_true, unread]

variable (read : readDesc sel (gpFault sel) a = .ok d u)
include read

theorem farProtected_code (code : d.attr.code = true) : farProtected k w sel off a = farCode k w sel d off u := by
  simp only [farProtected, bind_run, get_run, require_run, notNull, Bool.not_false, if_true, read, code]

/-- A descriptor that is no code segment, and no gate or TSS that a far transfer goes through. -/
theorem farProtected_otherType (notCode : d.attr.code = false)
    (other : ∀ t : BitVec 4, t = 1 ∨ t = 3 ∨ t = 4 ∨ t = 5 ∨ t = 9 ∨ t = 0xC → d.isSys t = false) :
    farProtected k w sel off a = .error (.exc (gpFault sel)) u := by
  have not286 : d.tss286 = false := by rw [Desc.tss286, other 1 (by simp), other 3 (by simp)]; rfl
  simp only [farProtected, bind_run, get_run, require_run, notNull, Bool.not_false, if_true, read, notCode, not286,
    other 0xC (by simp), other 9 (by simp), other 5 (by simp), other 4 (by simp), Bool.false_eq_true, if_false,
    Bool.or_false, raise_run]

end

theorem farCode_privilege (bad : d.directOk u.cpl sel = false) :
    farCode k w sel d off u = .error (.exc (gpFault sel)) u := by
  simp only [farCode, bind_run, get_run, require_run, bad, Bool.false_eq_true, if_false]

section
variable (privileged : d.directOk u.cpl sel = true)
include privileged

theorem farCode_absent (absent : d.present = false) : farCode k w sel d off u = .error (.exc (npFault sel)) u := by
  simp only [farCode, bind_run, get_run, require_run, privileged, absent, if_true, Bool.false_eq_true, if_false]

theorem farCode_present (present : d.present = true) :
    farCode k w sel d off u = farSame k w sel d (cutTarget u.cur.opSize off) u := by
  simp only [farCode, bind_run, get_run, require_run, privileged, present, if_true]

end

theorem farSame_noRoom (noRoom : stackRoom true u.ss u.regs.esp w 2 = false) :
    farSame .call w sel d off u = .error (.exc ss0) u := by
  simp only [farSame, bind_run, get_run, require_run, noRoom, if_true, Bool.false_eq_true, if_false]

theorem farSame_jmp : farSame .jmp w sel d off u =
    if off.toNat ≤ d.limit.toNat then enterCode sel d off u else .error (.exc gp0) u := by
  by_cases inside : off.toNat ≤ d.limit.toNat <;>
    simp only [farSame, bind_run, get_run, require_run, reduceCtorEq, if_false, decide_eq_true_eq, inside, if_true]

theorem farSame_call (room : stackRoom true u.ss u.regs.esp w 2 = true) : farSame .call w sel d off u =
    if off.toNat ≤ d.limit.toNat then (pushReturn w >>= fun _ => enterCode sel d off) u else .error (.exc gp0) u := by
  by_cases inside : off.toNat ≤ d.limit.toNat <;>
    simp only [farSame, bind_run, get_run, require_run, room, if_true, decide_eq_true_eq, inside, if_false]

end

/-- Settles O21: the transfer is followed from the operand to the check that decides, and each clause is one outcome. -/
theorem farTransferProtected : Obligations.FarTransferProtected := by
  intro jmp call off sel s a pe lock pair target both
  have begun := pair.reading
  obtain ⟨jmpIs, callIs⟩ := pair.exec_eq lock
  have ape : a.cr0.pe = true := by rw [begun.1.1]; exact pe
  rw [farTransfer_protected ape] at jmpIs callIs
  have both_of {x : Exn} {u : State} (h : ∀ k, farProtected k s.opw sel off a = .error (.exc x) u) : both x u :=
    ⟨jmpIs.trans (congrArg (settle s) (h .jmp)), callIs.trans (congrArg (settle s) (h .call))⟩
  refine ⟨fun null => both_of fun _ => farProtected_null null,
    fun x u notNull unread => both_of fun _ => farProtected_unread notNull unread, ?_⟩
  intro d u notNull read ok room
  have readUp := Reading.order.trans begun ((readDesc_reading _ _).ok read)
  refine ⟨fun notCode other => both_of fun _ => farProtected_otherType notNull read notCode other, fun code => ?_⟩
  have checked (k : FarKind) := farProtected_code (k := k) (w := s.opw) (off := off) notNull read code
  obtain ⟨y, rfl⟩ := readUp.1.exists_through
  have ok_iff : d.directOk s.cpl sel = true ↔ ok := d.directOk_iff s.cpl sel
  refine ⟨fun bad => both_of fun k =>
      (checked k).trans (farCode_privilege (Bool.eq_false_iff.mpr fun h => bad (ok_iff.mp h))),
    fun good absent => both_of fun k => (checked k).trans (farCode_absent (ok_iff.mpr good) absent), fun good present => ?_⟩
  have same (k : FarKind) : farProtected k s.opw sel off a = farSame k s.opw sel d target (s.through y) :=
    (checked k).trans (farCode_present (ok_iff.mpr good) present)
  rw [same] at jmpIs callIs
  rw [farSame_jmp] at jmpIs
  refine ⟨fun noRoom => ?_, fun beyond => ⟨?_, fun hasRoom => ?_⟩, fun inside => ⟨fun v accessed => ?_,
    fun x v hasRoom fails => ?_, fun v pas hasRoom pushes => ⟨pushes.pushed readUp, fun x accessed => ?_⟩⟩⟩
  · rw [callIs, farSame_noRoom (u := s.through y) (Bool.eq_false_iff.mpr noRoom)]
    rfl
  · rw [jmpIs, if_neg (Nat.not_le.mpr beyond)]
    rfl
  · rw [callIs, farSame_call (u := s.through y) hasRoom, if_neg (Nat.not_le.mpr beyond)]
    rfl
  · obtain ⟨z, rfl⟩ := (Access.order.trans readUp.1 ((setAccessed_access _ _).ok accessed)).exists_through
    rw [jmpIs, if_pos inside, enterCode_ok accessed]
    rfl
  · rw [callIs, farSame_call (u := s.through y) hasRoom, if_pos inside, bind_error (fails.pushReturn readUp.1)]
    rfl
  · have level : x.cpl = s.cpl := by
      rw [((setAccessed_access _ _).ok accessed).1]
      exact pushes.cpl readUp.1
    rw [callIs, farSame_call (u := s.through y) hasRoom, if_pos inside, bind_ok (pushes.run readUp.1),
      enterCode_ok accessed, level]
    rfl

end Sys2Proof.Machine

/-! # The page walk and the cached translations (21_translation_protection.md R212 to R216, R220 to R222) -/

namespace Sys2Proof.Machine

/-! ## A doubleword of RAM read, and written in one bus cycle -/

theorem writeRun_ram {s : State} {p : List (Word32 × Byte)} (ram : ∀ c ∈ p, regionKind s.plat.map c.1.toNat = .ram) :
    s.writeRun p = p.foldl (fun t c => t.writeByte c.1 c.2) s := by
  cases p with
  | nil => rfl
  | cons c rest =>
    have kind := ram c List.mem_cons_self
    simp only [State.writeRun, kind]

theorem writeRuns_ram : ∀ {runs : List (List (Word32 × Byte))} {s : State},
    (∀ c ∈ runs.flatten, regionKind s.plat.map c.1.toNat = .ram) →
    runs.foldl State.writeRun s = runs.flatten.foldl (fun t c => t.writeByte c.1 c.2) s
  | [], _, _ => rfl
  | r :: runs, s, ram => by
    rw [List.flatten_cons] at ram ⊢
    obtain ⟨hr, hruns⟩ := List.forall_mem_append.mp ram
    have plat : (s.writeRun r).plat = s.plat := by rw [s.writeRun_rest r]
    rw [List.foldl_cons, writeRuns_ram (by rw [plat]; exact hruns), writeRun_ram hr, List.foldl_append]

/-- A bus cycle that writes RAM only, before which no other bus master writes. -/
theorem writePiece_ram {s : State} {p : List (Word32 × Byte)} (still : s.masters = [] ∨ s.busLock = true)
    (ram : ∀ c ∈ p, regionKind s.plat.map c.1.toNat = .ram) :
    s.writePiece p = p.foldl (fun t c => t.writeByte c.1 c.2) s := by
  have flat := regionRuns_flatten s.plat.map (·.1) p
  rw [State.writePiece, State.cycle_still still, writeRuns_ram (flat.symm ▸ ram), flat]

/-- The four bytes at an address are RAM. -/
def State.RamAt (s : State) (a : Word32) : Prop := ∀ b ∈ addrs a 4, regionKind s.plat.map b.toNat = .ram

/-- The state with the four bytes of a doubleword in memory written. -/
def State.withDword (s : State) (a v : Word32) : State := (cellsOf .b32 a v).foldl (fun t c => t.writeByte c.1 c.2) s

theorem memRead32_ram {s : State} {a : Word32} (still : s.masters = [] ∨ s.busLock = true) (ram : s.RamAt a) :
    memRead32 a s = .ok (peek32 s a) s := bind_ok (physRead_ram still ram)

section
variable {s : State} {a b v : Word32}

theorem State.withDword_rest (s : State) (a v : Word32) :
    s.withDword a v = { s with mem := (s.withDword a v).mem, prefetch := (s.withDword a v).prefetch } :=
  writeBytes_rest _ _

theorem State.RamAt.cells (ram : s.RamAt a) : ∀ c ∈ cellsOf .b32 a v, regionKind s.plat.map c.1.toNat = .ram :=
  fun _ hc => ram _ (List.of_mem_zip hc).1

theorem State.RamAt.stores (ram : s.RamAt a) (wf : s.mem.wf = true) (v : Word32) :
    Stores (cellsOf .b32 a v) s (s.withDword a v) := .writeBytes wf (cellsOf_apart .b32 a v) ram.cells

theorem peek32_withDword_self (ram : s.RamAt a) (wf : s.mem.wf = true) : peek32 (s.withDword a v) a = v := by
  have written := forall_mem_cellsOf.mp (ram.stores wf v).written
  have bytes : (addrs a 4).map (fun b => (s.withDword a v).mem.get b.toNat) = toBytes 4 v := by
    rw [addrs, List.map_map]
    exact List.map_congr_left fun k hk => written k (List.mem_range.mp hk) (ram _ (List.mem_map_of_mem hk))
  exact (congrArg (ofBytes .b32) bytes).trans (ofBytes_toBytes .b32 v)

theorem withDword_get_other (wf : s.mem.wf = true) {x : Nat} (outside : ∀ c ∈ addrs a 4, c.toNat ≠ x) :
    (s.withDword a v).mem.get x = s.mem.get x :=
  writeBytes_get_other _ wf fun c hc => outside c.1 (List.of_mem_zip hc).1

/-- Doublewords at different addresses divisible by four have no byte in common. -/
theorem addrs_disjoint (ha : a.toNat % 4 = 0) (hb : b.toNat % 4 = 0) (ne : a ≠ b) :
    ∀ c ∈ addrs a 4, ∀ d ∈ addrs b 4, c ≠ d := by
  intro c hc d hd e
  obtain ⟨i, hi, rfl⟩ := List.mem_map.mp hc
  obtain ⟨j, hj, rfl⟩ := List.mem_map.mp hd
  rw [List.mem_range] at hi hj
  have e := congrArg BitVec.toNat e
  simp only [BitVec.toNat_add, BitVec.toNat_ofNat] at e
  exact ne (BitVec.eq_of_toNat_eq (by omega))

theorem peek32_withDword_other (wf : s.mem.wf = true) (ha : a.toNat % 4 = 0) (hb : b.toNat % 4 = 0) (ne : a ≠ b) :
    peek32 (s.withDword a v) b = peek32 s b := by
  refine congrArg (ofBytes .b32) (List.map_congr_left fun d hd => withDword_get_other wf fun c hc e => ?_)
  exact addrs_disjoint ha hb ne c hc d hd (BitVec.eq_of_toNat_eq e)

/-- A doubleword of RAM at an address divisible by four changed under LOCK#. -/
theorem lockedUpdate_ram (still : s.masters = [] ∨ s.busLock = true) (ram : s.RamAt a) (aligned : a.toNat % 4 = 0)
    (f : Word32 → Word32) :
    lockedUpdate (addrs a 4) f s = .ok (peek32 s a) (s.withDword a (f (peek32 s a))) := by
  have begun : s.lockBus = { s with busLock := true } := by rw [State.lockBus, State.cycle_still still]
  have written : physWrite (cellsOf .b32 a (f (peek32 s a))) { s with busLock := true } =
      .ok () { s.withDword a (f (peek32 s a)) with busLock := true } := by
    have len := length_cellsOf .b32 a (f (peek32 s a))
    have cells := ram.cells (v := f (peek32 s a))
    rw [State.withDword, ← writeBytes_busLock]
    obtain ⟨b, rest, e⟩ := cellsOf_cons .b32 a (f (peek32 s a))
    rw [e] at len cells ⊢
    rw [physWrite_one (by rw [len]; show 4 ≤ 4 - a.toNat % 4; omega)]
    exact congrArg _ (writePiece_ram (s := { s with busLock := true }) (.inr rfl) cells)
  have run : (do
      let bs ← physRead (addrs a 4)
      let v : Word32 := ofBytes .b32 bs
      physWrite ((addrs a 4).zip (toBytes 4 (f v)))
      return v : M Word32) s.lockBus = .ok (peek32 s a) { s.withDword a (f (peek32 s a)) with busLock := true } := by
    rw [begun]
    exact (bind_ok (physRead_ram (s := { s with busLock := true }) (.inr rfl) ram)).trans (bind_ok written)
  have busLock : (s.withDword a (f (peek32 s a))).busLock = s.busLock := by rw [State.withDword_rest]
  rw [lockedUpdate, locked_ok run, ← busLock]

end

/-! ## Bits of an entry set -/

/-- The state with bits of an entry of the tables set, unless it was read with them set (R216). -/
def State.marked (s : State) (a entry bits : Word32) : State :=
  if entry &&& bits = bits then s else s.withDword a (peek32 s a ||| bits)

section
variable {s : State} {a b entry bits : Word32}

theorem setEntryBits_ram (still : s.masters = [] ∨ s.busLock = true) (ram : s.RamAt a) (aligned : a.toNat % 4 = 0) :
    setEntryBits a entry bits s = .ok () (s.marked a entry bits) := by
  unfold setEntryBits State.marked
  split
  · rfl
  · exact bind_ok (lockedUpdate_ram still ram aligned (· ||| bits))

theorem State.marked_rest (s : State) (a entry bits : Word32) : s.marked a entry bits =
    { s with mem := (s.marked a entry bits).mem, prefetch := (s.marked a entry bits).prefetch } := by
  unfold State.marked
  split
  · rfl
  · exact s.withDword_rest _ _

theorem State.marked_wf (ram : s.RamAt a) (wf : s.mem.wf = true) : (s.marked a entry bits).mem.wf = true := by
  unfold State.marked
  split
  · exact wf
  · exact (ram.stores wf _).wf

theorem or_of_and_eq {x y : Word32} (h : x &&& y = y) : x ||| y = x := by
  rw [← h]
  ext i
  simp +contextual

/-- The entry in memory has every bit that it had as it was read: the bits are then set in either case. -/
theorem peek32_marked_self (ram : s.RamAt a) (wf : s.mem.wf = true) (grown : peek32 s a ||| entry = peek32 s a) :
    peek32 (s.marked a entry bits) a = peek32 s a ||| bits := by
  unfold State.marked
  split
  · rename_i set
    rw [← grown, BitVec.or_assoc, or_of_and_eq set]
  · exact peek32_withDword_self ram wf

theorem peek32_marked_other (wf : s.mem.wf = true) (ha : a.toNat % 4 = 0) (hb : b.toNat % 4 = 0) (ne : a ≠ b) :
    peek32 (s.marked a entry bits) b = peek32 s b := by
  unfold State.marked
  split
  · rfl
  · exact peek32_withDword_other wf ha hb ne

theorem marked_kept (wf : s.mem.wf = true) : MemoryKept s (s.marked a entry bits) (.mem (addrs a 4)) := by
  intro x hx _
  unfold State.marked
  split
  · rfl
  · exact withDword_get_other wf fun c hc e => hx ⟨c, hc, e⟩

end

/-! ## The entries of a linear address -/

/-- The page-directory entry of a linear address. -/
def State.pde (s : State) (la : Word32) : Word32 := peek32 s (pdeAddr s.cr3 la)

/-- The address of the page-table entry of a linear address. -/
def State.pteAt (s : State) (la : Word32) : Word32 := pteAddr (s.pde la) la

/-- The page-table entry of a linear address. -/
def State.pte (s : State) (la : Word32) : Word32 := peek32 s (s.pteAt la)

theorem shiftLeft_two (v : Word32) : v <<< 2 = 4 * v := by
  apply BitVec.eq_of_toNat_eq
  simp only [BitVec.ofNat_eq_ofNat, BitVec.toNat_shiftLeft, BitVec.toNat_mul, BitVec.toNat_ofNat, Nat.shiftLeft_eq]
  omega

theorem pageBase_mod_four (v i : Word32) : ((v &&& 0xFFFFF000) + (i <<< 2)).toNat % 4 = 0 := by
  have base : (v &&& 0xFFFFF000).toNat % 4 = 0 := by
    have low : (v &&& 0xFFFFF000) &&& 3 = 0 := by rw [BitVec.and_assoc]; exact BitVec.and_zero
    have low := congrArg BitVec.toNat low
    rwa [BitVec.toNat_and, show (3 : Word32).toNat = 2 ^ 2 - 1 from rfl, Nat.and_two_pow_sub_one_eq_mod] at low
  generalize v &&& 0xFFFFF000 = page at base ⊢
  rw [shiftLeft_two, BitVec.toNat_add, BitVec.toNat_mul]
  simp only [BitVec.ofNat_eq_ofNat, BitVec.toNat_ofNat]
  omega

theorem pdeAddr_mod_four (cr3 la : Word32) : (pdeAddr cr3 la).toNat % 4 = 0 := pageBase_mod_four _ _

theorem State.pteAt_mod_four (s : State) (la : Word32) : (s.pteAt la).toNat % 4 = 0 := pageBase_mod_four _ _

theorem mem_addTlb {e x : TlbEntry} {l : List TlbEntry} : x ∈ addTlb e l ↔ x = e ∨ x ∈ l := by
  unfold addTlb
  split
  · rename_i cached
    refine ⟨.inr, fun h => h.elim (fun here => ?_) id⟩
    rw [here]
    exact List.contains_iff_mem.mp cached
  · exact List.mem_cons

/-! ## The walk -/

theorem pageFault_run {α : Type} (la : Word32) (p w u : Bool) (s : State) : (pageFault la p w u : M α) s =
    .error (.exc ⟨14, .page (BitVec.ofBool u ++ (BitVec.ofBool w ++ BitVec.ofBool p))⟩) { s with cr2 := la } := rfl

theorem pageAllowed_iff {userOk writeOk write user : Bool} : pageAllowed userOk writeOk write user = true ↔
    user = false ∨ userOk = true ∧ (write = false ∨ writeOk = true) := by
  cases user <;> cases write <;> simp [pageAllowed]

section
variable {la : Word32} {write user commit : Bool} {s : State}

/-- The two entries together allow the access. -/
def State.walkAllowed (s : State) (la : Word32) (write user : Bool) : Bool :=
  pageAllowed ((s.pde la).getLsbD 2 && (s.pte la).getLsbD 2) ((s.pde la).getLsbD 1 && (s.pte la).getLsbD 1) write user

/-- The bits a walk sets in the table entry. -/
def tableBits (write : Bool) : Word32 := if write then 0x60 else 0x20

/-- The state with the bits set that a walk sets in the two entries. -/
def State.walked (s : State) (la : Word32) (write : Bool) : State :=
  (s.marked (pdeAddr s.cr3 la) (s.pde la) 0x20).marked (s.pteAt la) (s.pte la) (tableBits write)

/-- What a walk caches. -/
def State.walkEntry (s : State) (la : Word32) (write : Bool) : TlbEntry :=
  { page := frameOf la, frame := frameOf (s.pte la), user := (s.pde la).getLsbD 2 && (s.pte la).getLsbD 2
    write := (s.pde la).getLsbD 1 && (s.pte la).getLsbD 1, dirty := write }

/-- The state a walk of the tables leaves: the entries marked, and its answer cached. -/
def State.afterWalk (s : State) (la : Word32) (write : Bool) : State :=
  { s.walked la write with tlb := addTlb (s.walkEntry la write) s.tlb }

theorem State.walked_rest (s : State) (la : Word32) (write : Bool) : s.walked la write =
    { s with mem := (s.walked la write).mem, prefetch := (s.walked la write).prefetch } := by
  have first := s.marked_rest (pdeAddr s.cr3 la) (s.pde la) 0x20
  have second := (s.marked (pdeAddr s.cr3 la) (s.pde la) 0x20).marked_rest (s.pteAt la) (s.pte la) (tableBits write)
  unfold State.walked
  rw [second, first]

section
variable (still : s.masters = [] ∨ s.busLock = true) (ramPde : s.RamAt (pdeAddr s.cr3 la)) (ramPte : s.RamAt (s.pteAt la))
include still ramPde ramPte

theorem recordWalk_run :
    recordWalk la (pdeAddr s.cr3 la) (s.pde la) (s.pteAt la) (s.pte la) ((s.pde la).getLsbD 2 && (s.pte la).getLsbD 2)
      ((s.pde la).getLsbD 1 && (s.pte la).getLsbD 1) write s = .ok () (s.afterWalk la write) := by
  have rest := s.marked_rest (pdeAddr s.cr3 la) (s.pde la) 0x20
  have first : setEntryBits (pdeAddr s.cr3 la) (s.pde la) 0x20 s = .ok () (s.marked (pdeAddr s.cr3 la) (s.pde la) 0x20) :=
    setEntryBits_ram still ramPde (pdeAddr_mod_four _ _)
  have second : setEntryBits (s.pteAt la) (s.pte la) (tableBits write) (s.marked (pdeAddr s.cr3 la) (s.pde la) 0x20) =
      .ok () (s.walked la write) :=
    setEntryBits_ram (by rw [rest]; exact still) (by unfold State.RamAt; rw [rest]; exact ramPte) (s.pteAt_mod_four la)
  have tlb : (s.walked la write).tlb = s.tlb := by rw [s.walked_rest la write]
  refine (bind_ok first).trans ((bind_ok second).trans ?_)
  rw [modify_run, tlb]
  rfl

theorem walk_run : walk la write user true s =
    if (s.pde la).getLsbD 0 && (s.pte la).getLsbD 0 then
      if s.walkAllowed la write user then .ok (frameOf (s.pte la)) (s.afterWalk la write)
      else pageFault la true write user s
    else pageFault la false write user s := by
  have readPde : memRead32 (pdeAddr s.cr3 la) s = .ok (s.pde la) s := memRead32_ram still ramPde
  have readPte : memRead32 (pteAddr (s.pde la) la) s = .ok (s.pte la) s := memRead32_ram still ramPte
  unfold walk
  rw [bind_ok (get_run s)]
  dsimp only
  rw [bind_ok readPde]
  cases presentPde : (s.pde la).getLsbD 0
  · rfl
  · simp only [Bool.not_true, Bool.false_eq_true, if_false, Bool.true_and]
    rw [bind_ok readPte]
    cases presentPte : (s.pte la).getLsbD 0
    · rfl
    · simp only [Bool.not_true, Bool.false_eq_true, if_false, if_true]
      change (if !s.walkAllowed la write user then _ else _ : M (BitVec 20)) s = _
      cases s.walkAllowed la write user
      · rfl
      · exact bind_ok (recordWalk_run still ramPde ramPte)

end

/-! ## What the entries hold after a walk -/

theorem or_tableBits (v : Word32) (write : Bool) : v ||| 0x20 ||| tableBits write = v ||| tableBits write := by
  rw [BitVec.or_assoc]
  cases write <;> rfl

section
variable (ramPde : s.RamAt (pdeAddr s.cr3 la)) (ramPte : s.RamAt (s.pteAt la)) (wf : s.mem.wf = true)
include ramPde ramPte wf

/-- A is set in the directory entry, and in the table entry A and for a write D (R216), also where they are one. -/
theorem walked_entries :
    peek32 (s.walked la write) (pdeAddr s.cr3 la) =
        s.pde la ||| 0x20 ||| (if s.pteAt la = pdeAddr s.cr3 la then tableBits write else 0) ∧
      peek32 (s.walked la write) (s.pteAt la) = s.pte la ||| tableBits write := by
  have first : peek32 (s.marked (pdeAddr s.cr3 la) (s.pde la) 0x20) (pdeAddr s.cr3 la) = s.pde la ||| 0x20 :=
    peek32_marked_self ramPde wf BitVec.or_self
  have wfFirst : (s.marked (pdeAddr s.cr3 la) (s.pde la) 0x20).mem.wf = true := State.marked_wf ramPde wf
  have ramSecond : (s.marked (pdeAddr s.cr3 la) (s.pde la) 0x20).RamAt (s.pteAt la) := by
    unfold State.RamAt
    rw [s.marked_rest]
    exact ramPte
  by_cases same : s.pteAt la = pdeAddr s.cr3 la
  · have pteIs : s.pte la = s.pde la := congrArg (peek32 s) same
    have second : peek32 (s.walked la write) (pdeAddr s.cr3 la) = s.pde la ||| 0x20 ||| tableBits write := by
      have grown : s.pde la ||| 0x20 ||| s.pde la = s.pde la ||| 0x20 := by
        rw [BitVec.or_comm, ← BitVec.or_assoc, BitVec.or_self]
      rw [same] at ramSecond
      rw [State.walked, same, pteIs, peek32_marked_self ramSecond wfFirst (by rw [first, grown]), first]
    rw [if_pos same, same, pteIs, second]
    exact ⟨rfl, or_tableBits _ _⟩
  · have unchanged : peek32 (s.marked (pdeAddr s.cr3 la) (s.pde la) 0x20) (s.pteAt la) = s.pte la :=
      peek32_marked_other wf (pdeAddr_mod_four _ _) (s.pteAt_mod_four la) (Ne.symm same)
    rw [if_neg same, show ∀ v : Word32, v ||| 0 = v from fun _ => BitVec.or_zero, State.walked,
      peek32_marked_other wfFirst (s.pteAt_mod_four la) (pdeAddr_mod_four _ _) same, first,
      peek32_marked_self ramSecond wfFirst (by rw [unchanged, BitVec.or_self]), unchanged]
    exact ⟨rfl, rfl⟩

end

theorem walked_kept (ramPde : s.RamAt (pdeAddr s.cr3 la)) (wf : s.mem.wf = true) :
    MemoryKept s (s.walked la write) (.mem (addrs (pdeAddr s.cr3 la) 4 ++ addrs (s.pteAt la) 4)) := by
  refine MemoryKept.trans (fun x o => ?_) (marked_kept wf) (marked_kept (State.marked_wf ramPde wf))
  rw [s.marked_rest] at o
  exact o

end

/-! ## Cached translations -/

section
variable {la : Word32} {write user commit : Bool} {s : State}

/-- The state in which the choice among the admissible translations has been drawn. -/
def State.drawn (s : State) : State := { s with free := s.free + 1 }

/-- Nothing cached for the page, or every cached entry agrees with the tables. -/
theorem translate_agreeing (agree : ∀ e ∈ s.tlb, e.page = frameOf la → e.agrees s la = true) :
    translate la write user commit s = walk la write user commit s := by
  have all : ((s.tlb.filter fun e => e.page == frameOf la).all fun e => e.agrees s la) = true := by
    rw [List.all_eq_true]
    intro e he
    obtain ⟨cached, page⟩ := List.mem_filter.mp he
    exact agree e cached (eq_of_beq page)
  rw [translate, bind_ok (get_run s)]
  simp only [all, if_true]

theorem translate_cases :
    translate la write user commit s = walk la write user commit s ∨
    translate la write user commit s = walk la write user commit s.drawn ∨
    ∃ e ∈ s.tlb, e.page = frameOf la ∧ translate la write user commit s = useEntry e la write user commit s.drawn := by
  rw [translate, bind_ok (get_run s)]
  have cached : ∀ e ∈ s.tlb.filter fun e => e.page == frameOf la, e ∈ s.tlb ∧ e.page = frameOf la := fun e he =>
    ⟨(List.mem_filter.mp he).1, eq_of_beq (List.mem_filter.mp he).2⟩
  generalize (s.tlb.filter fun e => e.page == frameOf la) = hits at cached ⊢
  cases hits.all fun e => e.agrees s la
  · right
    simp only [Bool.false_eq_true, if_false]
    rw [bind_ok (show drawTlb s = .ok (Config.tlbChoice s.free) s.drawn from rfl)]
    generalize chosen : hits[Config.tlbChoice s.free % (hits.length + 1) - 1]? = hit
    cases hit with
    | none => exact .inl rfl
    | some e =>
      obtain ⟨mem, page⟩ := cached e (List.mem_of_getElem? chosen)
      by_cases walks : Config.tlbChoice s.free % (hits.length + 1) = 0
      · exact .inl (by simp only [walks, if_true])
      · exact .inr ⟨e, mem, page, by simp only [walks, if_false]⟩
  · exact .inl rfl

/-- A cached entry decides by its own attributes; a write through one that is not dirty walks the tables. -/
theorem useEntry_run (e : TlbEntry) : useEntry e la write user commit s =
    if pageAllowed e.user e.write write user then
      if write && !e.dirty then walk la write user commit s else .ok e.frame s
    else pageFault la true write user s := by
  unfold useEntry
  cases pageAllowed e.user e.write write user
  · rfl
  · cases write && !e.dirty <;> rfl

/-! ## An operand in one page or in two -/

variable {n : Nat} {f : BitVec 20} {t : State} (pg : s.cr0.pg = true)
  (first : translate la write user commit s = .ok f t)
include pg first

theorem linResolve_run : linResolve la n write user commit s =
    if frameOf (la + BitVec.ofNat 32 (n - 1)) = frameOf la then .ok ((addrs la n).map (inFrame f)) t
    else (do
      let g ← translate ((la + BitVec.ofNat 32 (n - 1)) &&& 0xFFFFF000) write user commit
      return (addrs la n).map fun a => if frameOf a = frameOf la then inFrame f a else inFrame g a : M (List Word32)) t := by
  rw [linResolve, bind_ok (get_run s)]
  simp only [pg, Bool.not_true, Bool.false_eq_true, if_false]
  rw [bind_ok first]
  split <;> rfl

end

/-- Settles O53. The words of the statement are the entries `State.pde` and `State.pte`, whose walk `walk_run` gives; a cached
entry is used as `useEntry_run` says. -/
theorem pageTranslation : Obligations.PageTranslation := by
  refine ⟨fun la write user s still => ?_, fun la n write user commit s => ⟨translate_agreeing, ?_, ?_, fun pg =>
    linResolve_off pg _ _ _ _ _⟩⟩
  · intro word pdeAt pde pteAt pte ram allowed fault ramPde ramPte
    have pdeAt_eq : pdeAt = pdeAddr s.cr3 la := by rw [pdeAddr, shiftLeft_two]; rfl
    have pde_eq : pde = s.pde la := congrArg (peek32 s) pdeAt_eq
    have pteAt_eq : pteAt = s.pteAt la := by rw [State.pteAt, pteAddr, shiftLeft_two, ← pde_eq]; rfl
    have pte_eq : pte = s.pte la := congrArg (peek32 s) pteAt_eq
    have ram_iff {a : Word32} : ram a ↔ s.RamAt a := by
      simp only [ram, State.RamAt, addrs, List.mem_map, List.mem_range, forall_exists_index, and_imp,
        forall_apply_eq_imp_iff₂]
    have ramPde : s.RamAt (pdeAddr s.cr3 la) := ram_iff.mp (pdeAt_eq ▸ ramPde)
    have ramPte : s.RamAt (s.pteAt la) := ram_iff.mp (pteAt_eq ▸ ramPte)
    have run := walk_run (write := write) (user := user) still ramPde ramPte
    have allowed_iff : s.walkAllowed la write user = true ↔ allowed := by
      rw [State.walkAllowed, pageAllowed_iff, ← pde_eq, ← pte_eq, Bool.and_eq_true, Bool.and_eq_true, and_assoc]
    rw [pde_eq, pte_eq, pdeAt_eq, pteAt_eq]
    refine ⟨fun absent => ?_, fun presentPde presentPte refused => ?_, fun presentPde presentPte granted => ?_⟩
    · have absent : ((s.pde la).getLsbD 0 && (s.pte la).getLsbD 0) = false := Bool.and_eq_false_iff.mpr absent
      rw [run, absent]
      rfl
    · have refused : s.walkAllowed la write user = false := Bool.eq_false_iff.mpr fun h => refused (allowed_iff.mp h)
      rw [run, presentPde, presentPte, refused]
      rfl
    · rw [presentPde, presentPte, allowed_iff.mpr granted] at run
      have rest := s.walked_rest la write
      refine ⟨s.afterWalk la write, run, ?_, ⟨s.walkEntry la write, rfl, mem_addTlb.mpr (.inl rfl), fun x => mem_addTlb⟩,
        fun wf => ?_⟩
      · rw [State.afterWalk, rest]
      · obtain ⟨directory, table⟩ := walked_entries (write := write) ramPde ramPte wf
        exact ⟨directory, table, walked_kept ramPde wf⟩
  · rcases translate_cases (la := la) (write := write) (user := user) (commit := commit) (s := s) with
      walks | walks | ⟨e, cached, page, uses⟩
    · exact .inl walks
    · exact .inr (.inl walks)
    · rw [useEntry_run] at uses
      refine .inr (.inr ⟨e, cached, page, fun refused => ?_, fun granted isWrite clean => ?_, fun granted usable => ?_⟩)
      · rw [uses, if_neg fun h => refused (pageAllowed_iff.mp h)]
        rfl
      · rw [uses, if_pos (pageAllowed_iff.mpr granted), isWrite, clean]
        rfl
      · have direct : (write && !e.dirty) = false := by rcases usable with h | h <;> simp [h]
        rw [uses, if_pos (pageAllowed_iff.mpr granted), direct]
        rfl
  · intro f t pg first
    have run := fun k => linResolve_run (n := k) pg first
    refine ⟨?_, fun two => ⟨fun x u fails => ?_, fun g u second => ?_⟩⟩
    · rw [run, if_pos (by simp)]
      simp [addrs, inFrame]
    · rw [run, if_neg two]
      exact bind_error fails
    · rw [run, if_neg two]
      refine (bind_ok second).trans (congrArg (EStateM.Result.ok · u) (List.map_congr_left fun a _ => ?_))
      split <;> rfl

end Sys2Proof.Machine

/-! # The fields of a TSS and the busy bit in memory (22_multitasking.md R252, R262, R273) -/

namespace Sys2Proof.Machine

/-- A machine whose memory is RAM alone, reached without paging, and which no other bus master writes. -/
structure State.Plain (s : State) : Prop where
  pg : s.cr0.pg = false
  map : s.plat.map = []
  quiet : s.masters = []
  wf : s.mem.wf = true

section
variable {s t : State} {p q : List (Word32 × Byte)} {a v : Word32}

theorem State.Plain.ram (h : s.Plain) (x : Nat) : regionKind s.plat.map x = .ram := by
  rw [h.map]
  rfl

theorem Stores.plain (h : s.Plain) (k : Stores p s t) : t.Plain where
  pg := by rw [k.rest]; exact h.pg
  map := by rw [k.rest]; exact h.map
  quiet := by rw [k.rest]; exact h.quiet
  wf := k.wf

/-- The byte at each address stored to is the one stored there. -/
theorem Stores.get_self (k : Stores p s t) (h : s.Plain) {c : Word32 × Byte} (hc : c ∈ p) : t.mem.get c.1.toNat = c.2 :=
  k.written c hc (h.ram _)

/-- A doubleword all of whose bytes have been stored. -/
theorem Stores.peek32 (k : Stores p s t) (h : s.Plain) (sub : cellsOf .b32 a v ⊆ p) : peek32 t a = v := by
  have written := forall_mem_cellsOf.mp fun c hc => k.get_self h (sub hc)
  have bytes : (addrs a 4).map (fun b => t.mem.get b.toNat) = toBytes 4 v := by
    rw [addrs, List.map_map]
    exact List.map_congr_left fun i hi => written i (List.mem_range.mp hi)
  exact (congrArg (ofBytes .b32) bytes).trans (ofBytes_toBytes .b32 v)

theorem Stores.memoryKept (k : Stores p s t) {pas : List Word32} (sub : p.map (·.1) ⊆ pas) : MemoryKept s t (.mem pas) :=
  fun _ hx _ => k.kept _ fun _ hc _ e => hx ⟨_, sub (List.mem_map_of_mem hc), e⟩

/-- Storing what memory holds changes no byte of it. -/
theorem Stores.memoryKept_same (k : Stores p s t) (h : s.Plain) (same : ∀ c ∈ p, s.mem.get c.1.toNat = c.2) :
    MemoryKept s t .nowhere := fun x _ _ => by
  by_cases hx : ∃ c ∈ p, c.1.toNat = x
  · obtain ⟨c, hc, rfl⟩ := hx
    rw [k.get_self h hc, same c hc]
  · exact k.kept x fun c hc _ e => hx ⟨c, hc, e⟩

/-! ## Doublewords read and written -/

theorem linRead_plain (h : s.Plain) (la : Word32) (u : Bool) : linRead .b32 la u s = .ok (peek32 s la) s := by
  have read := physRead_ram (p := addrs la 4) (.inl h.quiet) fun b _ => h.ram b.toNat
  exact (bind_ok (linResolve_off h.pg la 4 false u true)).trans (bind_ok read)

theorem linWrite_plain (h : s.Plain) (la v : Word32) (u : Bool) :
    ∃ t, linWrite .b32 la v u s = .ok () t ∧ Stores (cellsOf .b32 la v) s t :=
  ⟨_, (bind_ok (linResolve_off h.pg la 4 true u true)).trans (writeLoc_ok .b32 (.mem (addrs la 4)) v s),
    .stored h.wf (.inl h.quiet) .b32 la v⟩

/-- LOCK# asserted for a store and then as before. -/
theorem Stores.unlock {b : Bool} (k : Stores p { s with busLock := b } t) : Stores p s { t with busLock := s.busLock } where
  wf := k.wf
  written := k.written
  kept := k.kept
  rest := by rw [k.rest]
  unobserved := k.unobserved

theorem lockedUpdate_plain (h : s.Plain) (a : Word32) (f : Word32 → Word32) :
    ∃ t, lockedUpdate (addrs a 4) f s = .ok (peek32 s a) t ∧ Stores (cellsOf .b32 a (f (peek32 s a))) s t := by
  have read := physRead_ram (s := { s with busLock := true }) (p := addrs a 4) (.inr rfl) fun b _ => h.ram b.toNat
  have written := writeLoc_ok .b32 (.mem (addrs a 4)) (f (peek32 s a)) { s with busLock := true }
  have stores := Stores.stored (s := { s with busLock := true }) h.wf (.inr rfl) .b32 a (f (peek32 s a))
  refine ⟨_, locked_ok ?_, stores.unlock⟩
  rw [State.lockBus_quiet h.quiet]
  exact (bind_ok read).trans (bind_ok written)

/-! ## The fields of a TSS -/

theorem probeFields_plain (h : s.Plain) (base : Word32) : ∀ offs : List Word32, probeFields base offs s = .ok () s
  | [] => rfl
  | off :: rest =>
    (bind_ok (linResolve_off h.pg (base + off) 4 true false false)).trans (probeFields_plain h base rest)

theorem readFields_plain (h : s.Plain) (base : Word32) :
    ∀ offs : List Word32, readFields base offs s = .ok (offs.map fun o => peek32 s (base + o)) s
  | [] => rfl
  | off :: rest => (bind_ok (linRead_plain h (base + off) false)).trans (bind_ok (readFields_plain h base rest))

/-- The bytes of doublewords at offsets from a linear address. -/
def fieldCells (base : Word32) (fields : List (Word32 × Word32)) : List (Word32 × Byte) :=
  fields.flatMap fun p => cellsOf .b32 (base + p.1) p.2

/-- Fields are apart where each begins at least four bytes from every other, either way round the address space. -/
def FieldsApart (fields : List (Word32 × Word32)) : Prop :=
  fields.Pairwise fun p q => 4 ≤ (p.1 - q.1).toNat ∧ 4 ≤ (q.1 - p.1).toNat

theorem add_ne_add_of_far {x y : Word32} (xy : 4 ≤ (x - y).toNat) (yx : 4 ≤ (y - x).toNat) {i j : Nat} (hi : i < 4)
    (hj : j < 4) : a + x + BitVec.ofNat 32 i ≠ a + y + BitVec.ofNat 32 j := by
  intro e
  rw [BitVec.add_assoc, BitVec.add_assoc, BitVec.add_right_inj] at e
  have e := congrArg BitVec.toNat e
  rw [BitVec.toNat_sub] at xy yx
  simp only [BitVec.toNat_add, BitVec.toNat_ofNat] at e
  omega

theorem fieldCells_apart (base : Word32) {fields : List (Word32 × Word32)} (apart : FieldsApart fields) :
    Apart (fieldCells base fields) := by
  refine List.pairwise_flatMap.mpr ⟨fun p _ => cellsOf_apart .b32 _ _, apart.imp fun {p q} far c hc d hd => ?_⟩
  rw [cellsOf_eq] at hc hd
  obtain ⟨i, hi, rfl⟩ := List.mem_map.mp hc
  obtain ⟨j, hj, rfl⟩ := List.mem_map.mp hd
  exact add_ne_add_of_far far.1 far.2 (List.mem_range.mp hi) (List.mem_range.mp hj)

theorem fieldCells_addrs (base : Word32) (fields : List (Word32 × Word32)) :
    (fieldCells base fields).map (·.1) = fields.flatMap fun p => addrs (base + p.1) 4 := by
  rw [fieldCells, List.map_flatMap]
  exact congrArg (fields.flatMap ·) (funext fun p => cellsOf_addrs .b32 _ _)

theorem writeFields_stores (base : Word32) : ∀ {fields : List (Word32 × Word32)} {s : State}, s.Plain → FieldsApart fields →
    ∃ t, writeFields base fields s = .ok () t ∧ Stores (fieldCells base fields) s t
  | [], s, h, _ => ⟨s, rfl, .refl h.wf⟩
  | (off, v) :: rest, s, h, apart => by
    obtain ⟨u, first, k⟩ := linWrite_plain h (base + off) v false
    obtain ⟨t, others, k'⟩ := writeFields_stores base (Stores.plain h k) apart.of_cons
    exact ⟨t, (bind_ok first).trans others, k.append k' (fieldCells_apart base apart)⟩

/-- Fields stored apart from one another hold the values stored, and no other byte of memory changes. -/
theorem writeFields_plain (h : s.Plain) (base : Word32) {fields : List (Word32 × Word32)} (apart : FieldsApart fields) :
    ∃ t, writeFields base fields s = .ok () t ∧ (∀ p ∈ fields, peek32 t (base + p.1) = p.2) ∧
      MemoryKept s t (.mem (fields.flatMap fun p => addrs (base + p.1) 4)) := by
  obtain ⟨t, run, k⟩ := writeFields_stores base h apart
  refine ⟨t, run, fun p hp => k.peek32 h fun c hc => List.mem_flatMap.mpr ⟨p, hp, hc⟩, k.memoryKept ?_⟩
  rw [fieldCells_addrs]
  exact List.Subset.refl _

/-! ## The busy bit -/

theorem probeBusy_plain (h : s.Plain) (sel : Word16) : probeBusy sel s = .ok () s := by
  rw [probeBusy, bind_ok (get_run s)]
  cases descAddr s sel with
  | none => rfl
  | some a => exact bind_ok (linResolve_off h.pg (a + 4) 4 true false false)

theorem updateDescHi_plain {sel : Word16} (h : s.Plain) (named : descAddr s sel = some a) (f : Word32 → Word32) :
    ∃ t, updateDescHi sel f s = .ok (peek32 s (a + 4)) t ∧ Stores (cellsOf .b32 (a + 4) (f (peek32 s (a + 4)))) s t := by
  obtain ⟨t, run, k⟩ := lockedUpdate_plain h (a + 4) f
  refine ⟨t, ?_, k⟩
  rw [updateDescHi, bind_ok (get_run s), named]
  exact (bind_ok (linResolve_off h.pg (a + 4) 4 true false true)).trans run

theorem clearBusy_plain {sel : Word16} (h : s.Plain) (named : descAddr s sel = some a) :
    ∃ t, clearBusy sel s = .ok () t ∧ peek32 t (a + 4) = peek32 s (a + 4) &&& 0xFFFFFDFF ∧
      MemoryKept s t (.mem (addrs (a + 4) 4)) := by
  obtain ⟨t, run, k⟩ := updateDescHi_plain h named (· &&& 0xFFFFFDFF)
  refine ⟨t, bind_ok run, k.peek32 h (List.Subset.refl _), k.memoryKept ?_⟩
  rw [cellsOf_addrs]
  exact List.Subset.refl _

theorem setBusy_clear {sel : Word16} (h : s.Plain) (x : Exn) (named : descAddr s sel = some a)
    (clear : (peek32 s (a + 4)).getLsbD 9 = false) :
    ∃ t, setBusy sel x s = .ok () t ∧ peek32 t (a + 4) = peek32 s (a + 4) ||| 0x200 ∧
      MemoryKept s t (.mem (addrs (a + 4) 4)) := by
  obtain ⟨t, run, k⟩ := updateDescHi_plain h named (· ||| 0x200)
  refine ⟨t, (bind_ok run).trans ?_, k.peek32 h (List.Subset.refl _), k.memoryKept ?_⟩
  · rw [require_run, clear]
    rfl
  · rw [cellsOf_addrs]
    exact List.Subset.refl _

theorem or_busy_of_set (h : v.getLsbD 9 = true) : v ||| 0x200 = v := by
  refine BitVec.eq_of_getLsbD_eq fun i _ => ?_
  rw [BitVec.getLsbD_or, show (0x200 : Word32) = BitVec.twoPow 32 9 from rfl, BitVec.getLsbD_twoPow]
  by_cases e : 9 = i
  · subst e
    rw [h]
    rfl
  · simp [e]

theorem toBytes_ofBytes {b0 b1 b2 b3 : Byte} : toBytes 4 (ofBytes .b32 [b0, b1, b2, b3]) = [b0, b1, b2, b3] := by
  have h0 := b0.isLt
  have h1 := b1.isLt
  have h2 := b2.isLt
  have h3 := b3.isLt
  simp only [toBytes, ofBytes, leNat, List.range, List.range.loop, List.map, List.cons.injEq, and_true,
    ← BitVec.toNat_inj, BitVec.extractLsb'_toNat, BitVec.toNat_ofNat, Nat.shiftRight_eq_div_pow, Width.bits]
  omega

/-- Each byte of the doubleword memory holds is the byte memory holds there. -/
theorem get_of_mem_cellsOf_peek32 : ∀ c ∈ cellsOf .b32 a (peek32 s a), s.mem.get c.1.toNat = c.2 := by
  have bytes : toBytes 4 (peek32 s a) = (addrs a 4).map fun b => s.mem.get b.toNat := toBytes_ofBytes
  intro c hc
  have hc : c ∈ (addrs a 4).zip (toBytes 4 (peek32 s a)) := hc
  rw [bytes, ← List.map_prod_left_eq_zip] at hc
  obtain ⟨b, -, rfl⟩ := List.mem_map.mp hc
  rfl

/-- A busy bit that is set already raises the exception, and no byte of memory changes. -/
theorem setBusy_set {sel : Word16} (h : s.Plain) (x : Exn) (named : descAddr s sel = some a)
    (set : (peek32 s (a + 4)).getLsbD 9 = true) :
    ∃ t, setBusy sel x s = .error (.exc x) t ∧ MemoryKept s t .nowhere := by
  obtain ⟨t, run, k⟩ := updateDescHi_plain h named (· ||| 0x200)
  rw [or_busy_of_set set] at k
  refine ⟨t, (bind_ok run).trans ?_, k.memoryKept_same h get_of_mem_cellsOf_peek32⟩
  rw [require_run, set]
  rfl

end

end Sys2Proof.Machine

/-! # The task switch (22_multitasking.md R261 to R273) -/

namespace Sys2Proof.Machine

/-! ## What every access keeps -/

section
variable {s t : State}

theorem Access.tr (h : Access s t) : t.tr = s.tr := by rw [h.1]; rfl
theorem Access.cr0 (h : Access s t) : t.cr0 = s.cr0 := by rw [h.1]; rfl
theorem Access.cur (h : Access s t) : t.cur = s.cur := by rw [h.1]; rfl
theorem Access.cpl (h : Access s t) : t.cpl = s.cpl := by rw [h.1]; rfl
theorem Access.flags (h : Access s t) : t.flags = s.flags := by rw [h.1]; rfl

theorem Access.tssImage (h : Access s t) (ret : Word32) (fl : Flags) : t.tssImage ret fl = s.tssImage ret fl := by
  rw [h.1]; rfl

/-- What an action keeps, where it raises an exception. -/
theorem Keeps.error {α : Type} {R : State → State → Prop} {m : M α} (h : Keeps R m) {x : Stop}
    (e : m s = .error x t) : R s t := by
  have kept := h.run s
  rwa [e] at kept

end

/-! ## The check of the incoming TSS -/

section
variable {sel : Word16} {k : TaskKind} {d : Desc} {s t : State} {ret : Word32}

theorem TaskKind.badTss_eq (k : TaskKind) (sel : Word16) :
    k.badTss sel = if k = .iret then tsFault sel else gpFault sel := by cases k <;> rfl

theorem TaskKind.nests_eq (k : TaskKind) : k.nests = decide (k = .call ∨ k = .int) := by cases k <;> rfl

theorem firstFailure_cons {ok : Bool} {x : Exn} {rest : List (Bool × Exn)} :
    firstFailure ((ok, x) :: rest) = none ↔ ok = true ∧ firstFailure rest = none := by
  cases ok <;> simp [firstFailure]

/-- The descriptor that the selector names, if it can be read, is of no TSS of 80286 format. -/
def NoTss286 (sel : Word16) (k : TaskKind) (s : State) : Prop :=
  ∀ d t, selTI sel = false → selNull sel = false → readDesc sel (k.badTss sel) s = .ok d t → d.tss286 = false

theorem checkTss_refuses (gdt : selTI sel = false) (named : selNull sel = false)
    (read : readDesc sel (k.badTss sel) s = .ok d t) (old : d.tss286 = true) :
    checkTss sel k s = .error (.refuse .desc286) t := by
  rw [checkTss, gdt, named]
  exact (bind_ok rfl).trans ((bind_ok read).trans (by rw [old]; rfl))

theorem Desc.tss286_of_isSys (h : d.isSys (if k = .iret then 0xB else 9) = true) : d.tss286 = false := by
  have all : ∀ y : BitVec 4, y = (if k = .iret then 0xB else 9) → (y == 1) = false ∧ (y == 3) = false := by
    cases k <;> decide
  obtain ⟨-, type⟩ := Bool.and_eq_true_iff.mp h
  obtain ⟨one, three⟩ := all d.type (eq_of_beq type)
  simp only [Desc.tss286, Desc.isSys, one, three, Bool.and_false, Bool.or_self]

theorem noTss286_of_passes (h : (tssCheck sel k).Passes s d t) : NoTss286 sel k s := by
  obtain ⟨-, read, tests⟩ := h
  intro e u _ _ read'
  rw [TaskKind.badTss_eq] at read'
  cases read.symm.trans read'
  refine Desc.tss286_of_isSys (k := k) ?_
  obtain ⟨type, -⟩ := firstFailure_cons.mp tests
  exact type

theorem checkTss_ok_iff : checkTss sel k s = .ok d t ↔ (tssCheck sel k).Passes s d t := by
  have table (new : NoTss286 sel k s) : checkTss sel k s = .ok d t ↔ (tssCheck sel k).Passes s d t := by
    rw [checkTss_eq sel k s new, Check.run_passes]
  refine ⟨fun h => (table fun e u gdt named read => ?_).mp h, fun h => (table (noTss286_of_passes h)).mpr h⟩
  cases old : e.tss286 with
  | false => rfl
  | true =>
    rw [checkTss_refuses gdt named read old] at h
    cases h

theorem checkTss_fails (new : NoTss286 sel k s) {x : Exn} (h : (tssCheck sel k).Fails s x t) :
    checkTss sel k s = .error (.exc x) t := by
  rw [checkTss_eq sel k s new, Check.run_fails.mpr h]

/-! ## The outgoing task -/

/-- Made after JMP and IRET, which take the outgoing task out of the chain of busy tasks. -/
def TaskKind.ifLeaves (k : TaskKind) (m : M Unit) : M Unit := if k = .jmp ∨ k = .iret then m else pure ()

theorem TaskKind.ifLeaves_ok {m : M Unit} :
    k.ifLeaves m s = .ok () t ↔ if k = .jmp ∨ k = .iret then m s = .ok () t else t = s := by
  unfold TaskKind.ifLeaves
  split
  · rfl
  · simp [eq_comm]

/-- The flags that are saved: NT is clear for IRET. -/
def State.savedFlags (s : State) (k : TaskKind) : Flags := if k = .iret then { s.flags with nt := false } else s.flags

theorem Access.savedFlags (h : Access s t) (k : TaskKind) : t.savedFlags k = s.savedFlags k := by
  rw [State.savedFlags, h.flags]
  rfl

/-- Saving the outgoing task: the probes and then the writes, the registers being those of before the check of the
incoming TSS. -/
theorem saveTask_run (h : Access s t) : saveTask k ret t = (do
    k.ifLeaves (probeBusy s.tr.sel)
    probeFields s.tr.base savedOffsets
    k.ifLeaves (clearBusy s.tr.sel)
    writeFields s.tr.base (s.tssImage ret (s.savedFlags k)) : M Unit) t := by
  rw [← h.tr, ← h.savedFlags k, ← h.tssImage]
  cases k <;> rfl

theorem saveTask_fails (h : Access s t) {x : Exn} {y : State} (fails : TaskSaveFails k s t x y) :
    saveTask k ret t = .error (.exc x) y := by
  rw [saveTask_run h]
  rcases fails with ⟨leaves, busy⟩ | ⟨s0, leaves, stays, fields⟩
  · exact bind_error (by rw [TaskKind.ifLeaves, if_pos leaves, busy])
  · have probed : k.ifLeaves (probeBusy s.tr.sel) t = .ok () s0 := by
      rw [TaskKind.ifLeaves_ok]
      split
      · exact leaves ‹_›
      · exact stays ‹_›
    exact (bind_ok probed).trans (bind_error fields)

/-- The task register that names the incoming TSS. -/
def incomingTr (sel : Word16) (d : Desc) : Tr := { sel := sel, base := d.base, limit := d.limit, type := 0xB }

/-- The state at the commit point: TR names the incoming TSS. -/
def State.committed (s : State) (sel : Word16) (d : Desc) : State :=
  { s with tr := incomingTr sel d, cur := { s.cur with committed := true, keepRf := true } }

theorem taskSaved_iff (h : Access s t) {on : State} :
    TaskSaved sel k ret s t d on ↔ ∃ s4, saveTask k ret t = .ok () s4 ∧ on = s4.committed sel d := by
  have cur : ∀ {s4}, saveTask k ret t = .ok () s4 → s4.cur = s.cur := fun run =>
    (Access.order.trans h ((saveTask_access k ret).ok run)).cur
  constructor
  · rintro ⟨s0, s2, s3, s4, busy, fields, clear, write, rfl⟩
    have run : saveTask k ret t = .ok () s4 := by
      rw [saveTask_run h, bind_ok (TaskKind.ifLeaves_ok.mpr busy), bind_ok fields,
        bind_ok (TaskKind.ifLeaves_ok.mpr clear)]
      exact write
    exact ⟨s4, run, by rw [State.committed, cur run]; rfl⟩
  · rintro ⟨s4, run, rfl⟩
    rw [State.committed, cur run]
    rw [saveTask_run h] at run
    obtain ⟨_, s0, busy, run⟩ := bind_eq_ok.mp run
    obtain ⟨_, s2, fields, run⟩ := bind_eq_ok.mp run
    obtain ⟨_, s3, clear, write⟩ := bind_eq_ok.mp run
    exact ⟨s0, s2, s3, s4, TaskKind.ifLeaves_ok.mp busy, fields, TaskKind.ifLeaves_ok.mp clear, write, rfl⟩

/-! ## The commit point -/

/-- The busy bit of the incoming task, which is set but for IRET. -/
def TaskKind.markBusy (k : TaskKind) (sel : Word16) : M Unit := if k = .iret then pure () else setBusy sel (k.badTss sel)

theorem TaskKind.markBusy_ok : k.markBusy sel s = .ok () t ↔
    if k = .iret then t = s else setBusy sel (k.badTss sel) s = .ok () t := by
  unfold TaskKind.markBusy
  split
  · simp [eq_comm]
  · rfl

theorem TaskKind.markBusy_access : Keeps Access (k.markBusy sel) :=
  .ite (.pure Access.order _) (setBusy_access _ _)

/-- The state with TS set. -/
def State.withTs (s : State) : State := { s with cr0 := { s.cr0 with ts := true } }

theorem commitTask_run : commitTask sel d k s = (do k.markBusy sel; modify State.withTs : M Unit) (s.committed sel d) := by
  cases k <;> rfl

/-- Past the commit point of a switch to that task. -/
def Past (tr : Tr) (s : State) : Prop := s.cur.committed = true ∧ s.tr = tr

theorem Past.access {tr : Tr} (h : Past tr s) (a : Access s t) : Past tr t := by
  rw [Past, a.cur, a.tr]
  exact h

theorem TaskSaved.past {on : State} (h : TaskSaved sel k ret s t d on) : Past (incomingTr sel d) on := by
  obtain ⟨s0, s2, s3, s4, -, -, -, -, rfl⟩ := h
  exact ⟨rfl, rfl⟩

theorem TaskSaved.cr0 (a : Access s t) {on : State} (h : TaskSaved sel k ret s t d on) : on.cr0 = s.cr0 := by
  obtain ⟨s4, run, rfl⟩ := (taskSaved_iff a).mp h
  exact (Access.order.trans a ((saveTask_access k ret).ok run)).cr0

/-! ## The fields of the incoming TSS -/

/-- The back link, stored by CALL and an interrupt. -/
def TaskKind.storeLink (k : TaskKind) (base : Word32) (link : Word16) : M Unit :=
  if k.nests then linWrite .b16 base link false else pure ()

theorem TaskKind.storeLink_ok {base : Word32} {link : Word16} : k.storeLink base link s = .ok () t ↔
    (k.nests = true → linWrite .b16 base link false s = .ok () t) ∧ (k.nests = false → t = s) := by
  unfold TaskKind.storeLink
  cases k.nests <;> simp [eq_comm]

theorem TaskKind.storeLink_access (base : Word32) (link : Word16) : Keeps Access (k.storeLink base link) :=
  .ite (linWrite_access _ _ _ _) (.pure Access.order _)

/-- Tests 4 to 16 with the loads, and then the T bit. -/
def startTask (d : Desc) (f : Nat → Word32) : M Bool := do
  loadIncoming f
  let word ← linRead .b16 (d.base + 0x64) false
  return word.getLsbD 0

/-- The switch from the point where the fields of the incoming TSS have been read. -/
def takeFields (d : Desc) (link : Word16) (k : TaskKind) (f : Nat → Word32) : M Bool := do
  k.storeLink d.base link
  loadTaskCr3 (f 17)
  if (f 1).getLsbD 17 then refuse .virtual8086
  else do
    modify fun s => s.withTask k f
    startTask d f

/-- The switch from the point where TS has been set, `link` being the selector of the outgoing task. -/
def enterTask (d : Desc) (link : Word16) (k : TaskKind) : M Bool := do
  let img ← readFields d.base tssOffsets
  takeFields d link k fun i => img.getD i 0

theorem refuse_bind {α β : Type} (r : Refusal) (m : α → M β) : (refuse r >>= m) = refuse r := rfl

theorem taskSwitch_eq (sel : Word16) (k : TaskKind) (ret : Word32) : taskSwitch sel k ret = (do
    let d ← checkTss sel k
    let old ← get
    saveTask k ret
    commitTask sel d k
    enterTask d old.tr.sel k) := by
  unfold taskSwitch enterTask takeFields startTask loadIncoming TaskKind.storeLink
  simp only [bind_assoc, refuse_bind]
  cases k <;> rfl

/-- The state with CR3 loaded, its low twelve bits clear: a value that differs flushes the TLB (20_memory.md R141). -/
def State.withCr3 (s : State) (v : Word32) : State :=
  { s with cr3 := v &&& 0xFFFFF000, tlb := if v &&& 0xFFFFF000 != s.cr3 then [] else s.tlb }

theorem loadTaskCr3_run (v : Word32) (s : State) : loadTaskCr3 v s = .ok () (s.withCr3 v) := rfl

theorem withTask_eq_incoming (s : State) (k : TaskKind) (f : Nat → Word32) :
    (s.withCr3 (f 17)).withTask k f = s.incoming k f := by
  simp only [State.withCr3, State.withTask, State.incoming, Seg.pending, TaskKind.nests_eq, bne_iff_ne]

end

section
variable {sel link : Word16} {k : TaskKind} {d : Desc} {s t s7 : State} {ret : Word32} {f : Nat → Word32}

/-- Loading CR3 and the registers of a task that is not of virtual-8086 mode leads to tests 4 to 16; any other is refused. -/
theorem takeFields_run (stored : k.storeLink d.base link s = .ok () s7) : takeFields d link k f s =
    if (f 1).getLsbD 17 then refuse .virtual8086 (s7.withCr3 (f 17)) else startTask d f (s7.incoming k f) := by
  rw [takeFields, bind_ok stored, bind_ok (loadTaskCr3_run _ _)]
  split
  · rfl
  · rw [bind_ok (modify_run _ _), withTask_eq_incoming]

/-! ## What loading the hidden parts keeps -/

/-- `t` is `n` but for memory, what an access changes with it, and the hidden parts of the segment registers. -/
structure InTask (n t : State) : Prop where
  tr : t.tr = n.tr
  cur : t.cur = n.cur
  cr0 : t.cr0 = n.cr0
  cr3 : t.cr3 = n.cr3
  eip : t.eip = n.eip
  flags : t.flags = n.flags
  cpl : t.cpl = n.cpl
  regs : t.regs = n.regs
  sels : ∀ r, (t.seg r).sel = (n.seg r).sel
  ldt : t.ldtr.sel = n.ldtr.sel

/-- What holds in the task of `n` goes on to hold. -/
def StaysIn (n s t : State) : Prop := InTask n s → InTask n t

section
variable {n : State}

theorem InTask.refl (n : State) : InTask n n := ⟨rfl, rfl, rfl, rfl, rfl, rfl, rfl, rfl, fun _ => rfl, rfl⟩

theorem staysIn_order : Order (StaysIn n) := Order.of_invariant (InTask n)

theorem Access.staysIn (h : Access s t) : StaysIn n s t := fun k => by
  rw [h.1]
  have sels (r : SReg) : ((s.rollback t).seg r).sel = (s.seg r).sel := by cases r <;> rfl
  exact ⟨k.tr, k.cur, k.cr0, k.cr3, k.eip, k.flags, k.cpl, k.regs, fun r => (sels r).trans (k.sels r), k.ldt⟩

theorem Keeps.staysIn {α : Type} {m : M α} (h : Keeps Access m) : Keeps (StaysIn n) m := h.mono fun _ _ => Access.staysIn

theorem InTask.setSeg (h : InTask n s) {r : SReg} {g : Seg} (same : g.sel = (n.seg r).sel) : InTask n (s.setSeg r g) where
  tr := by rw [State.setSeg_tr, h.tr]
  cur := by rw [State.setSeg_cur, h.cur]
  cr0 := by rw [State.setSeg_cr0, h.cr0]
  cr3 := by rw [State.setSeg_cr3, h.cr3]
  eip := by rw [State.setSeg_eip, h.eip]
  flags := by rw [State.setSeg_flags, h.flags]
  cpl := by rw [State.setSeg_cpl, h.cpl]
  regs := by rw [State.setSeg_regs, h.regs]
  sels q := by
    by_cases e : q = r
    · rw [e, State.setSeg_seg_self, same]
    · rw [State.setSeg_seg_other _ e, h.sels]
  ldt := by rw [State.setSeg_ldtr, h.ldt]

theorem installSeg_staysIn {r : SReg} (same : sel = (n.seg r).sel) (d : Desc) :
    Keeps (StaysIn n) (installSeg r sel d) :=
  .bind staysIn_order (setAccessed_access _ _).staysIn fun _ => .modify fun _ h => h.setSeg same

theorem installTaskData_staysIn {r : SReg} (same : sel = (n.seg r).sel) : ∀ d : Option Desc,
    Keeps (StaysIn n) (installTaskData r sel d)
  | none => .pure staysIn_order _
  | some d => installSeg_staysIn same d

theorem loadTaskLdt_staysIn (same : sel = n.ldtr.sel) : Keeps (StaysIn n) (loadTaskLdt sel) := by
  rw [loadTaskLdt_eq]
  exact .ite (.pure staysIn_order _)
    (.bind staysIn_order (Check.run_access _).staysIn fun _ => .modify fun _ h => { h with ldt := same })

theorem loadTaskCode_staysIn (same : sel = n.cs.sel) : Keeps (StaysIn n) (loadTaskCode sel) := by
  rw [loadTaskCode_eq]
  exact .bind staysIn_order (Check.run_access _).staysIn fun d => installSeg_staysIn (r := .cs) same d

theorem loadTaskStack_staysIn (same : sel = n.ss.sel) : Keeps (StaysIn n) (loadTaskStack sel) := by
  rw [loadTaskStack_eq]
  exact .bind staysIn_order (.get staysIn_order) fun _ => .bind staysIn_order (Check.run_access _).staysIn fun d =>
    installSeg_staysIn (r := .ss) same d

theorem requireAll_access : ∀ l : List (Bool × Exn), Keeps Access (requireAll l)
  | [] => .pure Access.order _
  | _ :: rest => .bind Access.order (.require Access.order _ _) fun _ => requireAll_access rest

theorem loadTaskData_staysIn {ds es fs gs : Word16} (hds : ds = n.ds.sel) (hes : es = n.es.sel) (hfs : fs = n.fs.sel)
    (hgs : gs = n.gs.sel) : Keeps (StaysIn n) (loadTaskData ds es fs gs) := by
  have read (sel : Word16) : Keeps (StaysIn n) (taskDataDesc sel) := (taskDataDesc_access sel).staysIn
  rw [loadTaskData_eq]
  refine .bind staysIn_order (.get staysIn_order) fun _ => .bind staysIn_order (read _) fun d0 =>
    .bind staysIn_order (read _) fun d1 => .bind staysIn_order (read _) fun d2 => .bind staysIn_order (read _) fun d3 =>
      .bind staysIn_order (requireAll_access _).staysIn fun _ => ?_
  exact .bind staysIn_order (installTaskData_staysIn (r := .ds) hds d0) fun _ =>
    .bind staysIn_order (installTaskData_staysIn (r := .es) hes d1) fun _ =>
      .bind staysIn_order (installTaskData_staysIn (r := .fs) hfs d2) fun _ => installTaskData_staysIn (r := .gs) hgs d3

end

/-- However the loads end, the registers of the incoming task are those its TSS gave. -/
theorem loadIncoming_staysIn (s : State) (k : TaskKind) (f : Nat → Word32) :
    Keeps (StaysIn (s.incoming k f)) (loadIncoming f) :=
  .bind staysIn_order (loadTaskLdt_staysIn rfl) fun _ => .bind staysIn_order (loadTaskCode_staysIn rfl) fun _ =>
    .bind staysIn_order (loadTaskStack_staysIn rfl) fun _ => loadTaskData_staysIn rfl rfl rfl rfl

/-! ## Tests 4 to 16, where one fails -/

/-- The descriptors that data selectors name, read in order. -/
def taskDataDescs : List Word16 → M (List (Option Desc))
  | [] => return []
  | sel :: rest => do
    let d ← taskDataDesc sel
    let ds ← taskDataDescs rest
    return d :: ds

theorem taskDataDescs_ok : ∀ {sels : List Word16} {s t : State} {ds : List (Option Desc)}, DataRead sels s ds t →
    taskDataDescs sels s = .ok ds t
  | [], _, _, _, ⟨rfl, rfl⟩ => rfl
  | _ :: _, _, _, _, ⟨_, _, _, first, others, rfl⟩ =>
    (bind_ok (taskDataDesc_ok.mpr first)).trans (bind_ok (taskDataDescs_ok others))

theorem taskDataDesc_fails {x : Stop} (named : selNull sel = false)
    (fails : readDesc sel (gpFault sel) s = .error x t) : taskDataDesc sel s = .error x t := by
  rw [taskDataDesc, named]
  exact bind_error fails

/-- The first descriptor that cannot be read stops the reading. -/
theorem taskDataDescs_fails {x : Exn} : ∀ (sels : List Word16) {s u : State} {ds : List (Option Desc)} (i : Nat)
    (h : i < sels.length), DataRead (sels.take i) s ds u → selNull sels[i] = false →
    readDesc sels[i] (gpFault sels[i]) u = .error (.exc x) t → taskDataDescs sels s = .error (.exc x) t := by
  intro sels
  induction sels with
  | nil => exact fun i h => absurd h (Nat.not_lt_zero i)
  | cons sel rest ih =>
    intro s u ds i h before named fails
    cases i with
    | zero =>
      obtain ⟨-, rfl⟩ := before
      exact bind_error (taskDataDesc_fails (sel := sel) named fails)
    | succ i =>
      obtain ⟨d, v, more, first, before, -⟩ := before
      have others := ih i (Nat.lt_of_succ_lt_succ h) before named fails
      exact (bind_ok (taskDataDesc_ok.mpr first)).trans (bind_error others)

/-- Segment registers loaded in order. -/
def installAll : List (SReg × Word16 × Option Desc) → M Unit
  | [] => pure ()
  | (r, sel, d) :: rest => do
    installTaskData r sel d
    installAll rest

theorem loadTaskData_run (ds es fs gs : Word16) (s : State) : loadTaskData ds es fs gs s = (do
    let l ← taskDataDescs [ds, es, fs, gs]
    requireAll (taskDataTests s.cpl ([ds, es, fs, gs].zip l))
    installAll ([SReg.ds, .es, .fs, .gs].zip ([ds, es, fs, gs].zip l))) s := by
  rw [loadTaskData_eq, bind_ok (get_run s)]
  simp only [taskDataDescs, bind_assoc, pure_bind, List.zip_cons_cons, List.zip_nil_right, installAll, bind_pure_unit]

theorem loadTaskCode_ok {c : Desc} {u v : State} (passes : (taskCodeCheck sel).Passes s c u)
    (accessed : setAccessed sel c u = .ok () v) : loadTaskCode sel s = .ok () { v with cs := c.seg sel } := by
  rw [loadTaskCode_eq, bind_ok (Check.run_passes.mpr passes)]
  exact bind_ok accessed

/-- One of tests 4 to 16 that fails raises its exception, CPL being the RPL of CS. -/
theorem loadIncoming_fails (cpl : s.cpl = rpl (low16 (f 12))) {x : Exn} (h : TaskTestFails f s x t) :
    loadIncoming f s = .error (.exc x) t := by
  rcases h with ⟨named, fails⟩ | ⟨a, ldt, rest⟩
  · refine bind_error ?_
    rw [loadTaskLdt_eq, if_neg (ne_true_of_eq_false named)]
    exact bind_error (Check.run_fails.mpr fails)
  refine (bind_ok (loadTaskLdt_iff.mpr ldt)).trans ?_
  have cplA : a.cpl = rpl (low16 (f 12)) := ldt.level.trans cpl
  rcases rest with fails | ⟨c, u, v, passes, accessed, fails⟩ | ⟨b, loaded, rest⟩
  · refine bind_error ?_
    rw [loadTaskCode_eq]
    exact bind_error (Check.run_fails.mpr fails)
  · have cplV : v.cpl = rpl (low16 (f 12)) :=
      (Access.order.trans passes.access ((setAccessed_access _ _).ok accessed)).cpl.trans cplA
    refine (bind_ok (loadTaskCode_ok passes accessed)).trans (bind_error ?_)
    have level : taskStackCheck (low16 (f 13)) v.cpl = taskStackCheck (low16 (f 13)) (rpl (low16 (f 12))) := by rw [cplV]
    rw [loadTaskStack_eq, bind_ok (get_run _), level]
    exact bind_error (Check.run_fails.mpr fails)
  · have cplB : b.cpl = rpl (low16 (f 12)) := loaded.level.trans cplA
    obtain ⟨_, m, code, stack⟩ := bind_eq_ok.mp ((loadTaskCodeStack_iff cplA).mpr loaded)
    refine (bind_ok code).trans ((bind_ok stack).trans ?_)
    rw [loadTaskData_run]
    rcases rest with ⟨i, h, ds, u, before, named, fails⟩ | ⟨ds, read, failure⟩
    · exact bind_error (taskDataDescs_fails _ i h before named fails)
    · refine (bind_ok (taskDataDescs_ok read)).trans (bind_error ?_)
      rw [requireAll_run, cplB, failure]

end

/-! ## The switch, step by step -/

section
variable {sel : Word16} {k : TaskKind} {ret : Word32} {d : Desc} {s s1 on busy : State}

theorem taskSwitch_checked (passes : (tssCheck sel k).Passes s d s1) : taskSwitch sel k ret s = (do
    saveTask k ret
    commitTask sel d k
    enterTask d s.tr.sel k) s1 := by
  rw [taskSwitch_eq, bind_ok (checkTss_ok_iff.mpr passes), bind_ok (get_run s1), passes.access.tr]

theorem taskSwitch_saved (passes : (tssCheck sel k).Passes s d s1) (saved : TaskSaved sel k ret s s1 d on) :
    taskSwitch sel k ret s = (do
      k.markBusy sel
      modify State.withTs
      enterTask d s.tr.sel k) on := by
  obtain ⟨s4, run, rfl⟩ := (taskSaved_iff passes.access).mp saved
  rw [taskSwitch_checked passes, bind_ok run, bind_run, commitTask_run, ← bind_run, bind_assoc]

/-- The state with TS set, as the statement names it. -/
theorem withTs_eq (passes : (tssCheck sel k).Passes s d s1) (saved : TaskSaved sel k ret s s1 d on)
    (marked : k.markBusy sel on = .ok () busy) : busy.withTs = { busy with cr0 := { s.cr0 with ts := true } } := by
  rw [State.withTs, (TaskKind.markBusy_access.ok marked).cr0, saved.cr0 passes.access]

theorem taskSwitch_marked (passes : (tssCheck sel k).Passes s d s1) (saved : TaskSaved sel k ret s s1 d on)
    (marked : k.markBusy sel on = .ok () busy) :
    taskSwitch sel k ret s = enterTask d s.tr.sel k { busy with cr0 := { s.cr0 with ts := true } } := by
  rw [taskSwitch_saved passes saved, bind_ok marked, bind_ok (modify_run _ _), withTs_eq passes saved marked]

theorem TaskSaved.past_ready (saved : TaskSaved sel k ret s s1 d on) (marked : k.markBusy sel on = .ok () busy)
    (cr0 : Cr0) : Past (incomingTr sel d) { busy with cr0 := cr0 } := by
  have past : Past (incomingTr sel d) busy := saved.past.access (TaskKind.markBusy_access.ok marked)
  exact past

theorem State.incoming_flags (s : State) (k : TaskKind) (f : Nat → Word32) :
    (s.incoming k f).flags = { Flags.ofImage (f 1) with nt := k.nests || (f 1).getLsbD 14 } := by
  rw [k.nests_eq]
  rfl

theorem InTask.past {t : State} {f : Nat → Word32} {tr : Tr} (h : InTask (s.incoming k f) t) (p : Past tr s) :
    Past tr t := by
  rw [Past, h.cur, h.tr]
  exact p

/-! ## The incoming task from tests 4 to 16 on -/

section
variable {t u : State} {f : Nat → Word32} {x : Exn}

theorem startTask_fails (fails : TaskTestFails f (s.incoming k f) x u) :
    startTask d f (s.incoming k f) = .error (.exc x) u ∧ InTask (s.incoming k f) u := by
  have raises := loadIncoming_fails (s := s.incoming k f) rfl fails
  exact ⟨bind_error raises, (loadIncoming_staysIn s k f).error raises (.refl _)⟩

theorem loadIncoming_inTask (pass : TaskTestsPass f (s.incoming k f) t) :
    loadIncoming f (s.incoming k f) = .ok () t ∧ InTask (s.incoming k f) t := by
  have loaded := (loadIncoming_iff (s := s.incoming k f) rfl).mpr pass
  exact ⟨loaded, (loadIncoming_staysIn s k f).ok loaded (.refl _)⟩

theorem startTask_trapFails (pass : TaskTestsPass f (s.incoming k f) t)
    (fails : linRead .b16 (d.base + 0x64) false t = .error (.exc x) u) :
    startTask d f (s.incoming k f) = .error (.exc x) u ∧ InTask (s.incoming k f) u := by
  obtain ⟨loaded, task⟩ := loadIncoming_inTask pass
  exact ⟨(bind_ok loaded).trans (bind_error fails), ((linRead_access _ _ _).error fails).staysIn task⟩

theorem startTask_ok (pass : TaskTestsPass f (s.incoming k f) t) {word : Word16}
    (read : linRead .b16 (d.base + 0x64) false t = .ok word u) :
    startTask d f (s.incoming k f) = .ok (word.getLsbD 0) u ∧ InTask (s.incoming k f) u := by
  obtain ⟨loaded, task⟩ := loadIncoming_inTask pass
  exact ⟨(bind_ok loaded).trans (bind_ok read), ((linRead_access _ _ _).ok read).staysIn task⟩

end

end

/-! ## What the switch does -/

section
variable (sel : Word16) (k : TaskKind) (ret : Word32) (s : State)

/-- A switch that answers has made each step, in order, and left the registers of the incoming task. -/
theorem taskSwitch_completes {trap : Bool} {u : State} (h : taskSwitch sel k ret s = .ok trap u) :
    ∃ (d : Desc) (img : List Word32) (s1 on busy s6 s7 t : State) (word : Word16),
      let f (i : Nat) : Word32 := img.getD i 0
      (tssCheck sel k).Passes s d s1 ∧ TaskSaved sel k ret s s1 d on ∧ k.markBusy sel on = .ok () busy ∧
      readFields d.base tssOffsets { busy with cr0 := { s.cr0 with ts := true } } = .ok img s6 ∧
      k.storeLink d.base s.tr.sel s6 = .ok () s7 ∧
      (f 1).getLsbD 17 = false ∧ TaskTestsPass f (s7.incoming k f) t ∧
      linRead .b16 (d.base + 0x64) false t = .ok word u ∧ trap = word.getLsbD 0 ∧
      s7.tr = incomingTr sel d ∧ s7.cr0 = { s.cr0 with ts := true } ∧ InTask (s7.incoming k f) u := by
  rw [taskSwitch_eq] at h
  obtain ⟨d, s1, checked, -⟩ := bind_eq_ok.mp h
  have passes := checkTss_ok_iff.mp checked
  rw [← taskSwitch_eq, taskSwitch_checked passes] at h
  obtain ⟨_, s4, saves, -⟩ := bind_eq_ok.mp h
  have saved : TaskSaved sel k ret s s1 d (s4.committed sel d) := (taskSaved_iff passes.access).mpr ⟨s4, saves, rfl⟩
  rw [← taskSwitch_checked passes, taskSwitch_saved passes saved] at h
  obtain ⟨_, busy, marked, -⟩ := bind_eq_ok.mp h
  rw [← taskSwitch_saved passes saved, taskSwitch_marked passes saved marked] at h
  obtain ⟨img, s6, read, h⟩ := bind_eq_ok.mp h
  obtain ⟨_, s7, stored, -⟩ := bind_eq_ok.mp h
  rw [takeFields_run stored] at h
  have access := Access.order.trans ((readFields_access _ _).ok read) ((TaskKind.storeLink_access _ _).ok stored)
  cases vm : (img.getD 1 0).getLsbD 17 with
  | true =>
    rw [vm] at h
    cases h
  | false =>
    rw [vm] at h
    obtain ⟨_, t, loaded, h⟩ := bind_eq_ok.mp h
    obtain ⟨word, _, trapRead, h⟩ := bind_eq_ok.mp h
    cases h
    have pass := (loadIncoming_iff (s := s7.incoming k _) rfl).mp loaded
    exact ⟨d, img, s1, _, busy, s6, s7, t, word, passes, saved, marked, read, stored, vm, pass, trapRead, rfl,
      access.tr.trans (saved.past_ready marked _).2, access.cr0, (startTask_ok (d := d) pass trapRead).2⟩

end

/-- Settles O35: the steps of the switch in order, each with what it raises; past the commit point `Past` is kept, and
loading the hidden parts keeps the registers of the incoming task (`InTask`). In memory that is RAM alone the fields and
the busy bit hold what was stored (`Stores`). -/
theorem taskSwitch_spec : Obligations.TaskSwitch := by
  refine ⟨fun sel k ret s => ?_, fun sel base s pg map quiet wf => ?_⟩
  · rw [← k.badTss_eq, ← k.nests_eq]
    intro bad chained
    refine ⟨fun d u gdt named read old => ?_, fun new x u fails => ?_, fun d s1 passes x y fails => ?_,
      fun d s1 on passes saved => ?_, fun trap u done => ?_⟩
    · rw [taskSwitch_eq]
      exact bind_error (checkTss_refuses gdt named read old)
    · have raises := checkTss_fails new fails
      refine ⟨?_, by rw [((checkTss_access sel k).error raises).cur]⟩
      rw [taskSwitch_eq]
      exact bind_error raises
    · have raises := saveTask_fails (ret := ret) passes.access fails
      refine ⟨?_, by rw [(Access.order.trans passes.access ((saveTask_access k ret).error raises)).cur]⟩
      rw [taskSwitch_checked passes]
      exact bind_error raises
    · intro raised
      have raised_of {x : Exn} {y : State} (run : taskSwitch sel k ret s = .error (.exc x) y)
          (past : Past (incomingTr sel d) y) : raised x y := ⟨run, past.1, past.2⟩
      refine ⟨fun x y notIret fails => ?_, fun busy marks => ?_⟩
      · have busyFails : k.markBusy sel on = .error (.exc x) y := by rw [TaskKind.markBusy, if_neg notIret, fails]
        exact raised_of ((taskSwitch_saved passes saved).trans (bind_error busyFails))
          (saved.past.access (TaskKind.markBusy_access.error busyFails))
      have marked : k.markBusy sel on = .ok () busy := TaskKind.markBusy_ok.mpr marks
      have run := taskSwitch_marked passes saved marked
      have past := saved.past_ready marked { s.cr0 with ts := true }
      refine ⟨fun x y fails => raised_of (run.trans (bind_error fails)) (past.access ((readFields_access _ _).error fails)),
        fun img s6 read => ?_⟩
      intro f
      have run : taskSwitch sel k ret s = takeFields d s.tr.sel k f s6 := run.trans (bind_ok read)
      have past := past.access ((readFields_access _ _).ok read)
      refine ⟨fun x y chains fails => ?_, fun s7 links stays => ?_⟩
      · have linkFails : k.storeLink d.base s.tr.sel s6 = .error (.exc x) y := by
          rw [TaskKind.storeLink, if_pos chains, fails]
        exact raised_of (run.trans (bind_error linkFails))
          (past.access ((TaskKind.storeLink_access _ _).error linkFails))
      have stored : k.storeLink d.base s.tr.sel s6 = .ok () s7 := TaskKind.storeLink_ok.mpr ⟨links, stays⟩
      have run := run.trans (takeFields_run stored)
      have past : Past (incomingTr sel d) s7 := past.access ((TaskKind.storeLink_access _ _).ok stored)
      refine ⟨fun vm => ⟨_, run.trans (by rw [if_pos vm]; rfl)⟩, fun vm => ?_⟩
      have run : taskSwitch sel k ret s = startTask d f (s7.incoming k f) := run.trans (if_neg (ne_true_of_eq_false vm))
      refine ⟨fun x y fails => ?_, fun t pass => ⟨fun x y fails => ?_, fun word u read => ?_⟩⟩
      · obtain ⟨raises, task⟩ := startTask_fails fails
        exact ⟨raised_of (run.trans raises) (task.past past), task.eip, task.cpl, task.flags, task.regs⟩
      · obtain ⟨raises, task⟩ := startTask_trapFails pass fails
        exact raised_of (run.trans raises) (task.past past)
      · exact run.trans (startTask_ok pass read).1
    · obtain ⟨d, img, s1, on, busy, s6, s7, t, word, passes, saved, marked, read, stored, vm, pass, trapRead, isTrap, tr, cr0,
        task⟩ := taskSwitch_completes sel k ret s done
      obtain ⟨links, stays⟩ := TaskKind.storeLink_ok.mp stored
      exact ⟨d, img, s1, on, busy, s6, s7, t, word, passes, saved, TaskKind.markBusy_ok.mp marked, read, links, stays, vm, pass,
        trapRead, isTrap, task.tr.trans tr, task.cr0.trans cr0, task.cr3, task.eip,
        task.flags.trans (s7.incoming_flags k _), by rw [task.flags]; exact vm,
        task.cpl.trans (congrArg rpl (task.sels .cs)).symm, task.regs, task.sels .es, task.sels .cs, task.sels .ss,
        task.sels .ds, task.sels .fs, task.sels .gs, task.ldt⟩
  · have plain : s.Plain := ⟨pg, map, quiet, wf⟩
    exact ⟨fun fields apart => writeFields_plain plain base apart, probeBusy_plain plain sel, probeFields_plain plain base,
      readFields_plain plain base, fun x a named => ⟨clearBusy_plain plain named, setBusy_set plain x named,
        setBusy_clear plain x named⟩⟩

end Sys2Proof.Machine

/-! # Loading a segment register (47_segment_misc.md R621 to R628; 23_real_address_mode.md R291; 21_translation_protection.md
R153, R155, R166) -/

namespace Sys2Proof.Machine

/-! ## A descriptor in its table -/

/-- Where the table that a selector names begins (21_translation_protection.md R153). -/
def State.tableBase (s : State) (sel : Word16) : Word32 := if sel.getLsbD 2 then s.ldtr.base else s.gdtr.base

/-- The offset of the last byte of the table that a selector names (R155). -/
def State.tableLimit (s : State) (sel : Word16) : Nat :=
  if sel.getLsbD 2 then s.ldtr.limit.toNat else s.gdtr.limit.toNat

section
variable {sel : Word16} {s u v : State} {e : Exn} {d : Desc}

theorem readDesc_noLdt (ldt : sel.getLsbD 2 = true) (empty : s.ldtr.valid = false) :
    readDesc sel e s = .error (.exc (gpFault sel)) s := by
  simp only [readDesc, selTI, bind_run, get_run, require_run, ldt, empty, Bool.not_true, Bool.or_false,
    Bool.false_eq_true, if_false]

section
variable (loaded : sel.getLsbD 2 = true → s.ldtr.valid = true)
include loaded

theorem descAddr_eq : descAddr s sel = if 8 * (sel.toNat / 8) + 7 ≤ s.tableLimit sel then
    some (s.tableBase sel + BitVec.ofNat 32 (8 * (sel.toNat / 8))) else none := by
  unfold descAddr selIndex selTI State.tableLimit State.tableBase
  rw [Nat.mul_comm 8]
  cases ldt : sel.getLsbD 2
  · rfl
  · rw [loaded ldt, Bool.true_and]
    simp only [if_true, decide_eq_true_eq]

theorem descAddr_inside (inside : 8 * (sel.toNat / 8) + 7 ≤ s.tableLimit sel) :
    descAddr s sel = some (s.tableBase sel + BitVec.ofNat 32 (8 * (sel.toNat / 8))) :=
  (descAddr_eq loaded).trans (if_pos inside)

theorem readDesc_loaded : readDesc sel e s = (findDesc sel >>= fun d => match d with
    | some d => pure d
    | none => raise e) s := by
  have table : (!selTI sel || s.ldtr.valid) = true := by
    unfold selTI
    cases ldt : sel.getLsbD 2
    · rfl
    · exact loaded ldt
  exact (bind_ok (get_run s)).trans (bind_ok (require_eq_ok.mpr ⟨table, rfl⟩))

theorem readDesc_beyond (beyond : s.tableLimit sel < 8 * (sel.toNat / 8) + 7) :
    readDesc sel e s = .error (.exc e) s := by
  have nowhere := (descAddr_eq loaded).trans (if_neg (Nat.not_le.mpr beyond))
  have missing : findDesc sel s = .ok none s := by rw [findDesc, bind_ok (get_run s), nowhere]; rfl
  exact (readDesc_loaded loaded).trans (bind_ok missing)

theorem readDesc_inside {lo hi : Word32} (inside : 8 * (sel.toNat / 8) + 7 ≤ s.tableLimit sel)
    (readLo : linRead .b32 (s.tableBase sel + BitVec.ofNat 32 (8 * (sel.toNat / 8))) false s = .ok lo u)
    (readHi : linRead .b32 (s.tableBase sel + BitVec.ofNat 32 (8 * (sel.toNat / 8)) + 4) false u = .ok hi v) :
    readDesc sel e s = .ok { lo := lo, hi := hi } v := by
  have found : findDesc sel s = .ok (some { lo := lo, hi := hi }) v := by
    rw [findDesc, bind_ok (get_run s), descAddr_inside loaded inside]
    exact bind_ok ((bind_ok readLo).trans (bind_ok readHi))
  exact (readDesc_loaded loaded).trans (bind_ok found)

end

/-! ## The accessed bit -/

theorem setAccessed_set (set : d.hi.getLsbD 8 = true) : setAccessed sel d s = .ok () s := by
  have accessed : d.accessed = true := set
  rw [setAccessed, accessed]
  rfl

/-- A store to RAM changes memory and the prefetch record only. -/
theorem Stores.memory_only {p : List (Word32 × Byte)} (k : Stores p s u) (h : s.Plain) :
    u = { s with mem := u.mem, prefetch := u.prefetch } := by
  obtain ⟨events, free⟩ := k.unobserved fun c _ => by rw [h.ram]; nofun
  have rest := k.rest
  rwa [events, free] at rest

theorem setAccessed_clear {a : Word32} (clear : d.hi.getLsbD 8 = false) (h : s.Plain) (named : descAddr s sel = some a) :
    ∃ t, setAccessed sel d s = .ok () t ∧ peek32 t (a + 4) = peek32 s (a + 4) ||| 0x100 ∧
      MemoryKept s t (.mem (addrs (a + 4) 4)) ∧ t = { s with mem := t.mem, prefetch := t.prefetch } := by
  have accessed : d.accessed = false := clear
  obtain ⟨t, run, k⟩ := updateDescHi_plain h named (· ||| 0x100)
  refine ⟨t, ?_, k.peek32 h (List.Subset.refl _), k.memoryKept ?_, k.memory_only h⟩
  · rw [setAccessed, accessed]
    exact bind_ok run
  · rw [cellsOf_addrs]
    exact List.Subset.refl _

/-! ## The load -/

variable {r : SReg}

theorem loadSeg_real (pe : s.cr0.pe = false) :
    loadSeg r sel s = .ok () (s.setSeg r { s.seg r with sel := sel, base := realBase sel }) := by
  simp only [loadSeg, bind_run, get_run, pe, Bool.not_false, if_true, loadRealSeg, modify_run]

section
variable (pe : s.cr0.pe = true)
include pe

theorem loadSeg_ss : loadSeg .ss sel s = loadSS sel s := by
  simp only [loadSeg, bind_run, get_run, pe, Bool.not_true, Bool.false_eq_true, if_false, if_true]

theorem loadSeg_data (data : r ≠ .ss) : loadSeg r sel s = loadData r sel s := by
  simp only [loadSeg, bind_run, get_run, pe, Bool.not_true, Bool.false_eq_true, if_false, data]

theorem loadSeg_ss_null (null : selNull sel = true) : loadSeg .ss sel s = .error (.exc gp0) s := by
  simp only [loadSeg_ss pe, loadSS, bind_run, get_run, require_run, null, Bool.not_true, Bool.false_eq_true, if_false]

theorem loadSeg_data_null (data : r ≠ .ss) (null : selNull sel = true) :
    loadSeg r sel s = .ok () (s.setSeg r { s.seg r with sel := sel, valid := false }) := by
  simp only [loadSeg_data pe data, loadData, bind_run, get_run, null, if_true, modify_run]

end

/-- The type and the privilege of a descriptor fit the segment register (47_segment_misc.md R622). -/
def Desc.fits (d : Desc) (r : SReg) (cpl : BitVec 2) (sel : Word16) : Bool :=
  if r = .ss then rpl sel == cpl && d.writableData && d.dpl == cpl else d.attr.readable && d.dataPrivilege cpl sel

theorem Desc.fits_iff (d : Desc) (r : SReg) (cpl : BitVec 2) (sel : Word16) : d.fits r cpl sel = true ↔
    if r = .ss then rpl sel = cpl ∧ d.attr.writable = true ∧ d.dpl = cpl
    else d.attr.readable = true ∧ (d.attr.conforming = true ∨ cpl ≤ d.dpl ∧ rpl sel ≤ d.dpl) := by
  unfold Desc.fits
  split <;> simp [Desc.writableData, Desc.dataPrivilege, and_assoc]

/-- The exception of a segment that is not present (R622). -/
def absentFault (r : SReg) (sel : Word16) : Exn := if r = .ss then ssFault sel else npFault sel

/-- A load in protected mode, once its descriptor has been read: type and privilege first, presence last. -/
theorem loadSeg_read (pe : s.cr0.pe = true) (notNull : selNull sel = false)
    (read : readDesc sel (gpFault sel) s = .ok d u) : loadSeg r sel s = (do
      require (d.fits r s.cpl sel) (gpFault sel)
      require d.present (absentFault r sel)
      installSeg r sel d) u := by
  by_cases ss : r = .ss
  · subst ss
    rw [loadSeg_ss pe, Desc.fits, absentFault, if_pos rfl, if_pos rfl, require_and, require_and]
    simp only [loadSS, bind_run, get_run, require_run, notNull, Bool.not_false, if_true, read]
    cases rpl sel == s.cpl <;> cases d.writableData <;> rfl
  · rw [loadSeg_data pe ss, Desc.fits, absentFault, if_neg ss, if_neg ss, require_and, bind_assoc]
    simp only [loadData, bind_run (get : M State), get_run, notNull, Bool.false_eq_true, if_false]
    exact bind_ok read

section
variable (pe : s.cr0.pe = true) (notNull : selNull sel = false) (read : readDesc sel (gpFault sel) s = .ok d u)
include pe notNull read

theorem loadSeg_unfit (unfit : d.fits r s.cpl sel = false) : loadSeg r sel s = .error (.exc (gpFault sel)) u :=
  (loadSeg_read pe notNull read).trans (bind_error (require_eq_error.mpr ⟨unfit, rfl, rfl⟩))

variable (fits : d.fits r s.cpl sel = true)
include fits

theorem loadSeg_absent (absent : d.present = false) : loadSeg r sel s = .error (.exc (absentFault r sel)) u :=
  (loadSeg_read pe notNull read).trans ((bind_ok (require_eq_ok.mpr ⟨fits, rfl⟩)).trans
    (bind_error (require_eq_error.mpr ⟨absent, rfl, rfl⟩)))

theorem loadSeg_present (present : d.present = true) (accessed : setAccessed sel d u = .ok () v) :
    loadSeg r sel s = .ok () (v.setSeg r (d.seg sel)) :=
  (loadSeg_read pe notNull read).trans ((bind_ok (require_eq_ok.mpr ⟨fits, rfl⟩)).trans
    ((bind_ok (require_eq_ok.mpr ⟨present, rfl⟩)).trans (bind_ok accessed)))

end

end

/-! ## The instructions that load one -/

section
variable {s u v t : State} {sel : Word16} {r : SReg}

/-- An instruction without LOCK whose action ends well. -/
theorem run_unlocked {m : M Unit} (lock : s.cur.lock = false) (h : m s.entered = .ok () t) : run false m s = .next t :=
  (run_settle lock).trans (congrArg (settle s) h)

/-- The numbers of CS and the reserved ones name no register that MOV loads. -/
theorem sregOf_notLoadable : ∀ n : BitVec 3, n.toNat = 1 ∨ 6 ≤ n.toNat → sregOf n = some .cs ∨ sregOf n = none := by
  decide

theorem movToSeg_undefined {n : BitVec 3} {rm : RM} (h : n.toNat = 1 ∨ 6 ≤ n.toNat) :
    movToSeg n rm s = .error (.exc ud) s := by
  rcases sregOf_notLoadable n h with e | e <;> rw [movToSeg, e] <;> rfl

/-- Events are inhibited at the next boundary after a load of SS (60_exceptions.md R784). -/
def State.inhibitedAfter (s : State) (r : SReg) : State := if r = .ss then { s with inhibit := true } else s

theorem inhibitAfter_run : inhibitAfter r s = .ok () (s.inhibitedAfter r) := by
  unfold inhibitAfter State.inhibitedAfter
  split <;> rfl

theorem movToSeg_ok {n : BitVec 3} {rm : RM} {x : Word16} (named : sregOf n = some r) (notCs : r ≠ .cs)
    (read : readRM .b16 rm s = .ok x u) (load : loadSeg r x u = .ok () t) :
    movToSeg n rm s = .ok () (t.inhibitedAfter r) := by
  simp only [movToSeg, named, notCs, if_false]
  exact (bind_ok read).trans ((bind_ok load).trans inhibitAfter_run)

theorem popSeg_ok {w : Width} {x : Val w} (read : stackRead w 0 s = .ok x u)
    (load : loadSeg r (x.setWidth 16) u = .ok () t) : popSeg w r s = .ok ()
      ({ t with regs := t.regs.setSP s.stackSize (t.regs.esp + distOf w) }.inhibitedAfter r) :=
  (bind_ok (get_run s)).trans ((bind_ok read).trans ((bind_ok load).trans
    ((bind_ok (modify_run _ t)).trans inhibitAfter_run)))

theorem loadFar_ok {w : Width} {q : Reg} {m : Mem} {off : Val w}
    (readOff : segRead w (s.segOr (defaultSeg m)) (effAddr s.regs m) s = .ok off u)
    (readSel : segRead .b16 (s.segOr (defaultSeg m)) (effAddr s.regs m + distOf w) u = .ok sel v)
    (load : loadSeg r sel v = .ok () t) : loadFar w r q m s = .ok () (t.withReg w q off) :=
  (bind_ok (get_run s)).trans ((bind_ok readOff).trans ((bind_ok readSel).trans ((bind_ok load).trans
    (setReg_run w q off t))))

/-- The instructions that pop a segment register, each with the register (47_segment_misc.md R623). -/
theorem exec_popSeg (s : State) :
    ∀ p ∈ [(SReg.es, Instr.popEs), (.ss, .popSs), (.ds, .popDs), (.fs, .popFs), (.gs, .popGs)],
      exec p.2 s = run false (popSeg s.opw p.1) s := by
  simp only [List.forall_mem_cons, List.not_mem_nil, false_imp_iff, implies_true, and_true]
  exact ⟨rfl, rfl, rfl, rfl, rfl⟩

/-- The instructions that load a far pointer, each with the segment register (R624 to R628). -/
theorem exec_loadFar (q : Reg) (m : Mem) (s : State) :
    ∀ p ∈ [(SReg.ds, Instr.ldsGvMp q m), (.es, .lesGvMp q m), (.fs, .lfsGvMp q m), (.gs, .lgsGvMp q m),
        (.ss, .lssGvMp q m)], exec p.2 s = run false (loadFar s.opw p.1 q m) s := by
  simp only [List.forall_mem_cons, List.not_mem_nil, false_imp_iff, implies_true, and_true]
  exact ⟨rfl, rfl, rfl, rfl, rfl⟩

end

/-- Settles O42: a load follows `loadSeg_read` once its descriptor has been read, a descriptor lies where `descAddr_eq` says,
and each instruction is its operand read and the load. -/
theorem segmentLoad : Obligations.SegmentLoad := by
  refine ⟨⟨fun r sel s => ⟨loadSeg_real, fun pe null => ⟨?_, fun data => loadSeg_data_null pe data null⟩, ?_⟩,
    fun sel e s => ⟨readDesc_noLdt, readDesc_beyond, ?_, fun d => setAccessed_set, ?_⟩⟩, fun s lock => ⟨?_, ?_, ?_, ?_⟩⟩
  · rintro rfl
    exact loadSeg_ss_null pe null
  · intro d u pe notNull read good
    have fits_iff : d.fits r s.cpl sel = true ↔ good := d.fits_iff r s.cpl sel
    exact ⟨fun bad => loadSeg_unfit pe notNull read (Bool.eq_false_iff.mpr fun h => bad (fits_iff.mp h)),
      fun ok absent => loadSeg_absent pe notNull read (fits_iff.mpr ok) absent,
      fun v ok present => loadSeg_present pe notNull read (fits_iff.mpr ok) present⟩
  · exact fun loaded inside lo hi u v => readDesc_inside loaded inside
  · exact fun d clear loaded inside pg map quiet wf =>
      setAccessed_clear clear ⟨pg, map, quiet, wf⟩ (descAddr_inside loaded inside)
  · exact fun n rm h => (run_settle lock).trans (congrArg (settle s) (movToSeg_undefined h))
  · exact fun n r rm x u t named notCs read load => run_unlocked lock (movToSeg_ok named notCs read load)
  · intro x u t read p listed load
    rw [exec_popSeg s p listed]
    exact run_unlocked lock (popSeg_ok read load)
  · intro q m off sel u v t readOff readSel p listed load
    rw [exec_loadFar q m s p listed]
    exact run_unlocked lock (loadFar_ok readOff readSel load)

end Sys2Proof.Machine

/-! # Interrupts in real-address mode, and IRET from them (23_real_address_mode.md R297, R298; 44_control_transfer.md R545;
60_exceptions.md R758) -/

namespace Sys2Proof.Machine

/-! ## Pushes that shut the processor down -/

/-- An action whose exceptions shut the processor down (60_exceptions.md R758). -/
def orShutdown {α : Type} (m : M α) : M α := fun s =>
  match m s with
  | .error (.exc _) t => .error .shutdown t
  | other => other

section
variable {α β : Type} {m : M α} {s t : State}

theorem orShutdown_ok {a : α} (h : m s = .ok a t) : orShutdown m s = .ok a t := by
  unfold orShutdown
  rw [h]

theorem orShutdown_exc {x : Exn} (h : m s = .error (.exc x) t) : orShutdown m s = .error .shutdown t := by
  unfold orShutdown
  rw [h]

theorem orShutdown_pure (a : α) : orShutdown (pure a : M α) = pure a := rfl

theorem orShutdown_bind (m : M α) (f : α → M β) : orShutdown (m >>= f) = orShutdown m >>= fun a => orShutdown (f a) := by
  funext s
  simp only [orShutdown, bind_run]
  cases m s with
  | ok a t => rfl
  | error x t => cases x <;> rfl

end

theorem pushOrShutdown_eq (v : Word16) : pushOrShutdown v = orShutdown (pushAs false .b16 v) := by
  funext s
  unfold pushOrShutdown pushSystem orShutdown
  cases pushAs false .b16 v s with
  | ok a t => rfl
  | error x t => cases x <;> rfl

/-! ## The delivery -/

/-- What a delivery in real-address mode pushes, in order (23_real_address_mode.md R297). -/
def realFrame (e : Event) (s : State) : List Word16 := [low16 s.flags.image, s.cs.sel, low16 e.ret]

/-- The flags on entry to a handler in real-address mode (R297; 60_exceptions.md R785). -/
def Flags.enterReal (f : Flags) : Flags := { f with ie := false, tf := false, rf := false }

section
variable {e : Event} {s t c x y : State}

theorem deliverReal_beyond (beyond : s.idtr.limit.toNat < e.vec.toNat * 4 + 3) :
    deliverReal e s = .error (.exc ⟨8, .none⟩) s :=
  (bind_ok (get_run s)).trans
    (bind_error (require_eq_error.mpr ⟨decide_eq_false (Nat.not_le.mpr beyond), rfl, rfl⟩))

section
variable (within : e.vec.toNat * 4 + 3 ≤ s.idtr.limit.toNat)
include within

/-- Inside the limit of the table the frame is pushed, and then the handler entered. -/
theorem deliverReal_within : deliverReal e s = (do
    orShutdown (pushAllAs false .b16 (realFrame e s))
    setFlags Flags.enterReal
    let ip ← linRead .b16 (s.idtr.base + 4 * e.vec.setWidth 32) false
    let sel ← linRead .b16 (s.idtr.base + 4 * e.vec.setWidth 32 + 2) false
    enterRealCode sel (ip.setWidth 32)) s := by
  have checked : require (decide (e.vec.toNat * 4 + 3 ≤ s.idtr.limit.toNat)) ⟨8, .none⟩ s = .ok () s :=
    require_eq_ok.mpr ⟨decide_eq_true within, rfl⟩
  refine (bind_ok (get_run s)).trans ((bind_ok checked).trans ?_)
  simp only [realFrame, pushAllAs, orShutdown_bind, orShutdown_pure, bind_assoc, pure_bind, ← pushOrShutdown_eq,
    shiftLeft_two]
  rfl

theorem deliverReal_pushFails {z : Exn} (fails : PushFails false .b16 (realFrame e s) s z t) :
    deliverReal e s = .error .shutdown t :=
  (deliverReal_within within).trans (bind_error (orShutdown_exc fails.run))

theorem deliverReal_pushed {pas : List Word32} {ip sel : Word16} (pushed : Pushed false .b16 (realFrame e s) s c pas)
    (readIp : linRead .b16 (s.idtr.base + 4 * e.vec.setWidth 32) false { c with flags := c.flags.enterReal } = .ok ip x)
    (readSel : linRead .b16 (s.idtr.base + 4 * e.vec.setWidth 32 + 2) false x = .ok sel y) :
    deliverReal e s = .ok () (y.realFar sel (ip.setWidth 32)) :=
  (deliverReal_within within).trans ((bind_ok (orShutdown_ok pushed.run)).trans ((bind_ok (setFlags_run _ c)).trans
    ((bind_ok readIp).trans (bind_ok readSel))))

end

theorem deliverOnce_real (pe : s.cr0.pe = false) : deliverOnce e s = deliverReal e s := by
  simp only [deliverOnce, bind_run, get_run, pe, Bool.false_eq_true, if_false]

theorem Cur.fresh_eq {k : Cur} (committed : k.committed = false) (partway : k.partway = false) :
    { k with committed := false, partway := false } = k := by
  cases k
  cases committed
  cases partway
  rfl

section
variable (committed : s.cur.committed = false) (partway : s.cur.partway = false)
include committed partway

/-- An attempt begins in the state itself where no attempt before it has left a mark. -/
theorem State.fresh_eq : { s with cur := { s.cur with committed := false, partway := false } } = s :=
  congrArg (fun k => { s with cur := k }) (Cur.fresh_eq committed partway)

/-- The first attempt at delivering an event succeeds. -/
theorem deliver_ok (once : deliverOnce e s = .ok () t) : deliver e s = .ok () t := by
  rw [deliver, deliverChain, State.fresh_eq committed partway]
  dsimp only
  rw [once]

/-- The first attempt at delivering an event shuts the processor down (60_exceptions.md R758). -/
theorem deliver_shutdown (once : deliverOnce e s = .error .shutdown t) : deliver e s =
    .ok () { s.rollback t with activity := .shutdown, cur := { s.cur with incomplete := true } } := by
  rw [deliver, deliverChain, State.fresh_eq committed partway]
  dsimp only
  rw [once]

end

theorem Pushed.flags {user : Bool} {w : Width} {vs : List (Val w)} {pas : List Word32} (h : Pushed user w vs s t pas) :
    t.flags = s.flags := by
  rw [h.state.1]
  rfl

end

/-! ## The return -/

section
variable {s t u a b c : State} {w : Width}

theorem pop_access {v : Val w} (h : pop w s = .ok v t) : Access (s.moveSP (distOf w)) t := by
  obtain ⟨v, u, read, moved⟩ := bind_eq_ok.mp h
  cases moved
  exact ((stackRead_access w 0).ok read).moveSP _

theorem pop_keeps {v : Val w} (h : pop w s = .ok v t) : t.flags = s.flags ∧ t.cs = s.cs := by
  rw [(pop_access h).1]
  exact ⟨rfl, rfl⟩

/-- At level 0 every flag of the image is loaded but VM, and RF by IRETD only (44_control_transfer.md R545). -/
theorem Flags.load_level0 (f : Flags) (v : Word32) (sz : Size) : f.load v sz 0 =
    { Flags.ofImage v with vm := f.vm, rf := if sz = .s32 then (Flags.ofImage v).rf else f.rf } := by
  have level : (0 : BitVec 2) ≤ f.iopl := BitVec.le_def.mpr (Nat.zero_le _)
  simp only [Flags.load, level, if_true]

theorem iretReal_ok {sz : Size} {ip sel fl : Val w} (popIp : pop w s = .ok ip a) (popSel : pop w a = .ok sel b)
    (popFlags : pop w b = .ok fl c) (inside : (ip.setWidth 32 : Word32).toNat ≤ s.cs.limit.toNat) :
    iretReal w sz s = .ok () { c.realFar (sel.setWidth 16) (ip.setWidth 32) with
      flags := s.flags.load (fl.setWidth 32) sz 0 } := by
  obtain ⟨flagsA, csA⟩ := pop_keeps popIp
  obtain ⟨flagsB, csB⟩ := pop_keeps popSel
  obtain ⟨flagsC, csC⟩ := pop_keeps popFlags
  rw [← csA, ← csB, ← csC] at inside
  rw [← flagsA, ← flagsB, ← flagsC]
  exact (bind_ok popIp).trans ((bind_ok popSel).trans ((bind_ok popFlags).trans ((bind_ok (get_run c)).trans
    (bind_ok (require_eq_ok.mpr ⟨decide_eq_true inside, rfl⟩)))))

theorem interruptReturn_real {sz : Size} (pe : s.cr0.pe = false) (h : iretReal sz.width sz s = .ok () t) :
    interruptReturn sz s = .ok () { t with nmiLatch := false, cur := { t.cur with keepRf := true } } := by
  simp only [interruptReturn, bind_run, get_run, pe, Bool.not_false, if_true, h, modify_run]

theorem exec_interruptReturn (wide : Bool) (s : State) : exec (if wide then .iretd else .iret) s =
    run false (interruptReturn (if wide then .s32 else .s16)) s := by
  cases wide <;> rfl

end

/-- Settles O24: a delivery pushes its frame and reads its entry as `deliverReal_within` says, and IRET is three pops and the
load of what they gave. -/
theorem realModeInterrupts : Obligations.RealModeInterrupts := by
  refine ⟨⟨fun e s pe committed partway within => ⟨fun x t fails => ?_, fun c x y pas ip sel pushed => ?_⟩,
    fun e s pe beyond => (deliverOnce_real pe).trans (deliverReal_beyond beyond)⟩, ?_⟩
  · exact deliver_shutdown committed partway ((deliverOnce_real pe).trans (deliverReal_pushFails within fails))
  · intro masked entry readIp readSel
    have masked_eq : masked = { c with flags := c.flags.enterReal } := by rw [pushed.flags]; rfl
    rw [masked_eq] at readIp
    have once := (deliverOnce_real pe).trans (deliverReal_pushed within pushed readIp readSel)
    exact ⟨deliver_ok committed partway once, pushed.kept⟩
  · intro wide s a b c pe lock sz ip sel fl popIp popSel popFlags inside
    have returned := interruptReturn_real (s := s.entered) pe (iretReal_ok (sz := sz) popIp popSel popFlags inside)
    rw [exec_interruptReturn, run_unlocked lock returned, Flags.load_level0]
    cases wide <;> rfl

end Sys2Proof.Machine

/-! # Encodings and prefixes

The round trip of every instruction, collected from those of the constructors, and what follows from it for words of the
opcode tables; then the attributes that the prefixes set (30_encoding.md R312, R313, R316, R350 to R352). -/

namespace Sys2Proof.Laws.RoundTrip

/-- Every constructor's encoding is read back: the lemmas of the constructors, in the order of the table of `Instr`. -/
theorem statement_of_instr (i : Instr) : Statement i :=
  Instr.casesOn (motive := Statement) i
    addEbGb addEvGv addGbEb addGvEv addAlIb addEaxIv addEbIb addEvIv addEvIb
    orEbGb orEvGv orGbEb orGvEv orAlIb orEaxIv orEbIb orEvIv orEvIb
    adcEbGb adcEvGv adcGbEb adcGvEv adcAlIb adcEaxIv adcEbIb adcEvIv adcEvIb
    sbbEbGb sbbEvGv sbbGbEb sbbGvEv sbbAlIb sbbEaxIv sbbEbIb sbbEvIv sbbEvIb
    andEbGb andEvGv andGbEb andGvEv andAlIb andEaxIv andEbIb andEvIv andEvIb
    subEbGb subEvGv subGbEb subGvEv subAlIb subEaxIv subEbIb subEvIv subEvIb
    xorEbGb xorEvGv xorGbEb xorGvEv xorAlIb xorEaxIv xorEbIb xorEvIv xorEvIb
    cmpEbGb cmpEvGv cmpGbEb cmpGvEv cmpAlIb cmpEaxIv cmpEbIb cmpEvIv cmpEvIb
    incRv decRv pushRv popRv boundGvMa arplEwGw pushIv imulGvEvIv pushIb imulGvEvIb
    jo jno jb jae je jne jbe ja js jns jp jnp jl jge jle jg
    setoEb setnoEb setbEb setaeEb seteEb setneEb setbeEb setaEb setsEb setnsEb setpEb setnpEb setlEb setgeEb setleEb
    setgEb
    testEbGb testEvGv xchgEbGb xchgEvGv movEbGb movEvGv movGbEb movGvEv movEwSreg leaGvM movSregEw popEv
    callApFar movAlOb movEaxOv movObAl movOvEax testAlIb testEaxIv movR8Ib movRvIv
    rolEb rolEv rorEb rorEv rclEb rclEv rcrEb rcrEv shlEb shlEv shrEb shrEv sarEb sarEv
    retIwNear lesGvMp ldsGvMp movEbIb movEvIv enterIwIb retIwFar intIb aamIb aadIb esc
    loopneJb loopeJb loopJb jcxzJb jecxzJb inAlIb inEaxIb outIbAl outIbEax callJvNear jmpJvNear jmpApFar jmpJbShort
    testEbIb testEvIv notEb notEv negEb negEv mulEb mulEv imulEb imulEv divEb divEv idivEb idivEv incEb decEb incEv
    decEv callEvNear callMpFar jmpEvNear jmpMpFar pushEv
    sldtEw strEw lldtEw ltrEw verrEw verwEw sgdtM sidtM lgdtM lidtM smswEw lmswEw larGvEw lslGvEw
    movR32Crn movR32Drn movCrnR32 movDrnR32 movR32Trn movTrnR32
    btEvGv shldEvGvIb shldEvGvCl btsEvGv shrdEvGvIb shrdEvGvCl imulGvEv lssGvMp btrEvGv lfsGvMp lgsGvMp movzxGvEb
    movzxGvEw btEvIb btsEvIb btrEvIb btcEvIb btcEvGv bsfGvEv bsrGvEv movsxGvEb movsxGvEw
    pushEs pushCs pushSs pushDs pushFs pushGs popEs popSs popDs popFs popGs
    daa das aaa aas pusha pushad popa popad
    insb insw insd outsb outsw outsd
    nop xchgEaxEcx xchgEaxEdx xchgEaxEbx xchgEaxEsp xchgEaxEbp xchgEaxEsi xchgEaxEdi
    cbw cwde cwd cdq wait pushf pushfd popf popfd sahf lahf
    movsb movsw movsd cmpsb cmpsw cmpsd stosb stosw stosd lodsb lodsw lodsd scasb scasw scasd
    retNear leave retFar int3 into iret iretd xlat
    inAlDx inEaxDx outDxAl outDxEax hlt cmc
    clc stc cli sti cld std clts
    pfxEs pfxCs pfxSs pfxDs pfxFs pfxGs pfxOpSize pfxAddrSize pfxLock pfxRepne pfxRep
    undef82 undefD6 undefF1

end Sys2Proof.Laws.RoundTrip

namespace Sys2Proof

/-- A word that begins with the encoding of an instruction is read as it under the size attributes after reset, whatever the
bits after it are. -/
theorem decodeTableWord_of_encode_prefix {nbits w : Nat} {i : Instr} (wf : i.wf .s16 .s16 = true)
    (begins : encode .s16 .s16 i <+: wordBytes nbits w) : decodeTableWord nbits w = some i := by
  obtain ⟨rest, split⟩ := begins
  unfold decodeTableWord
  rw [← split, Laws.RoundTrip.statement_of_instr i .s16 .s16 rest wf]

end Sys2Proof

namespace Sys2Proof.Machine

/-- Each segment override selects the segment it is named after (30_encoding.md R312). -/
theorem exec_segmentOverride (s : State) : ∀ p ∈ [(SReg.es, Instr.pfxEs), (.cs, .pfxCs), (.ss, .pfxSs), (.ds, .pfxDs),
    (.fs, .pfxFs), (.gs, .pfxGs)], exec p.2 s = overrideSeg p.1 s := by
  simp only [List.forall_mem_cons, List.not_mem_nil, false_imp_iff, implies_true, and_true]
  exact ⟨rfl, rfl, rfl, rfl, rfl, rfl⟩

/-- The size overrides select what the code segment does not (30_encoding.md R316). -/
theorem exec_sizeOverride (s : State) :
    exec .pfxOpSize s = setAttribute (fun c => { c with opSize := s.cur.code.other }) s ∧
    exec .pfxAddrSize s = setAttribute (fun c => { c with addrSize := s.cur.code.other }) s := ⟨rfl, rfl⟩

/-- LOCK and the repeat prefixes (30_encoding.md R312, R313). -/
theorem exec_lockRepeat (s : State) :
    exec .pfxLock s = setAttribute (fun c => { c with lock := true }) s ∧
    exec .pfxRepne s = repeatWith .repne s ∧ exec .pfxRep s = repeatWith .repe s := ⟨rfl, rfl, rfl⟩

/-- Settles O59: the case of each constructor is its lemma in Laws/PerInstr.lean. -/
theorem decodeEncode : Obligations.DecodeEncode := Laws.RoundTrip.statement_of_instr

/-- Settles O49: each of the bytes is one `setAttribute`, which changes what it names and nothing else. -/
theorem prefixes : Obligations.Prefixes := by
  intro s
  obtain ⟨opSize, addrSize⟩ := exec_sizeOverride s
  obtain ⟨lock, repne, rep⟩ := exec_lockRepeat s
  exact ⟨exec_segmentOverride s, opSize, addrSize, lock, repne, rep⟩

/-- Settles O60: each word is the encoding of a well-formed instruction with the zeros that fill it up. -/
theorem decodeWords : Obligations.DecodeWords := by
  unfold Obligations.DecodeWords
  and_intros
  all_goals exact decodeTableWord_of_encode_prefix (by decide) (by decide)

end Sys2Proof.Machine

/-! # MOV and XLAT, XCHG, conversions and LEA (40_data_movement.md R401, R402, R409 to R414; 47_segment_misc.md R630 to
R632) -/

namespace Sys2Proof.Machine

/-! ## Places found and written -/

section
variable {s u : State} {w : Width} {rm : RM} {l : Loc}

theorem writeRM_ok (found : locate w rm true true s = .ok l u) (v : Val w) :
    writeRM w rm v s = .ok () (u.stored w l v) := (bind_ok found).trans (writeLoc_ok w l v u)

theorem segWrite_ok {r : SReg} {off : Word32} (found : memLoc w r off true true s = .ok l u) (v : Val w) :
    segWrite w r off v s = .ok () (u.stored w l v) := by
  obtain ⟨pas, x, resolved, located⟩ := bind_eq_ok.mp found
  cases located
  exact (bind_ok resolved).trans (writeLoc_ok w (.mem pas) v _)

/-- A store from the state in which its place has been found keeps every other byte, also since the instruction began. -/
theorem Reading.stored_kept (h : Reading s.entered u) (wf : s.mem.wf = true) (v : Val w) :
    MemoryKept u (u.stored w l v) l ∧ (s.cr0.pg = false → MemoryKept s (u.stored w l v) l) :=
  have kept := Machine.stored_kept (h.wf wf) w l v
  ⟨kept, fun pg => kept.since h pg wf⟩

end

/-! ## MOV and XLAT -/

section
variable {s u : State}

/-- MOV to an r/m operand writes the value of its form there. -/
theorem exec_store (lock : s.cur.lock = false) (f : StoreForm) (rm : RM) :
    exec (f.instr rm) s = settle s (writeRM (f.width s) rm (f.value s (f.width s)) s.entered) := by
  cases f with
  | ebIb imm =>
    rw [show StoreForm.value s (StoreForm.width s (.ebIb imm)) (.ebIb imm) = imm from BitVec.setWidth_eq imm]
    exact run_settle lock
  | ebGb r | evGv r | evIv imm => exact run_settle lock

theorem exec_store_ok (lock : s.cur.lock = false) {f : StoreForm} {rm : RM} {l : Loc}
    (found : locate (f.width s) rm true true s.entered = .ok l u) :
    exec (f.instr rm) s = .next (u.stored (f.width s) l (f.value s (f.width s))) :=
  (exec_store lock f rm).trans (congrArg (settle s) (writeRM_ok found _))

theorem exec_storeOffset (byte : Bool) (off : Word32) (s : State) :
    exec (if byte then .movObAl off else .movOvEax off) s =
      run false (movToOffset (if byte then .b8 else s.opw) off) s := by cases byte <;> rfl

theorem exec_loadOffset (byte : Bool) (off : Word32) (s : State) :
    exec (if byte then .movAlOb off else .movEaxOv off) s =
      run false (movFromOffset (if byte then .b8 else s.opw) off) s := by cases byte <;> rfl

theorem movToOffset_ok {w : Width} {off : Word32} {l : Loc} (found : memLoc w (s.segOr .ds) off true true s = .ok l u) :
    movToOffset w off s = .ok () (u.stored w l (s.regs.read w .eax)) :=
  (bind_ok (get_run s)).trans ((bind_ok (getReg_run w .eax s)).trans (segWrite_ok found _))

theorem movFromOffset_ok {w : Width} {off : Word32} {v : Val w} (read : segRead w (s.segOr .ds) off s = .ok v u) :
    movFromOffset w off s = .ok () (u.withReg w .eax v) :=
  (bind_ok (get_run s)).trans (bind_ok read)

theorem movLoad_ok {w : Width} {r : Reg} {rm : RM} {v : Val w} (read : readRM w rm s = .ok v u) :
    movLoad w r rm s = .ok () (u.withReg w r (v.setWidth w.bits)) := by
  rw [BitVec.setWidth_eq]
  exact bind_ok read

/-- MOV, MOVZX and MOVSX to a register load the operand widened as their form says. -/
theorem exec_load_ok (lock : s.cur.lock = false) {f : LoadForm} {r : Reg} {rm : RM} {v : Val (f.widths s).2}
    (read : readRM (f.widths s).2 rm s.entered = .ok v u) :
    exec (f.instr r rm) s = .next (u.withReg (f.widths s).1 r (f.widen _ v)) := by
  cases f with
  | gbEb | gvEv => exact run_unlocked lock (movLoad_ok read)
  | movzxB | movzxW | movsxB | movsxW => exact run_unlocked lock (bind_ok read)

/-- The offset of the byte that XLAT reads: (E)BX and AL added, cut to the address size (47_segment_misc.md R632). -/
def State.xlatOffset (s : State) : Word32 :=
  let sum := s.regs.ebx + (s.regs.read .b8 .eax).setWidth 32
  if s.cur.addrSize = .s16 then sum &&& 0xFFFF else sum

theorem translateByte_ok {v : Byte} (read : segRead .b8 (s.segOr .ds) s.xlatOffset s = .ok v u) :
    translateByte s = .ok () (u.withReg .b8 .eax v) := by
  refine (bind_ok (get_run s)).trans ?_
  unfold State.xlatOffset at read
  cases size : s.cur.addrSize <;> rw [size] at read <;> exact bind_ok read

end

/-- Settles O11: a store writes its place from the state in which that was found, and a load reads and writes its register. -/
theorem move : Obligations.Move := by
  refine ⟨⟨?_, ?_⟩, ?_, ?_, ?_, ?_⟩
  · intro f rm s u l wf lock found t
    have readUp := (locate_reading _ _ _ _).ok found
    obtain ⟨x, rfl⟩ := readUp.1.exists_through
    exact ⟨exec_store_ok lock found, readUp.stored_kept wf _⟩
  · intro off byte s u l wf lock w found t
    have readUp := (memLoc_reading _ _ _ _ _).ok found
    obtain ⟨x, rfl⟩ := readUp.1.exists_through
    exact ⟨(exec_storeOffset byte off s).trans (run_unlocked lock (movToOffset_ok found)), readUp.stored_kept wf _⟩
  · intro f r rm s u v lock read
    have readUp := (readRM_reading _ _).ok read
    obtain ⟨x, rfl⟩ := readUp.1.exists_through
    exact ⟨exec_load_ok lock read, readUp.keptSince⟩
  · exact fun r s lock => ⟨fun imm => run_unlocked lock (setReg_run .b8 r imm _),
      fun imm => run_unlocked lock (setReg_run s.opw r (imm.setWidth _) _)⟩
  · intro off byte s u lock w v read
    have readUp := (segRead_reading _ _ _).ok read
    obtain ⟨x, rfl⟩ := readUp.1.exists_through
    exact ⟨(exec_loadOffset byte off s).trans (run_unlocked lock (movFromOffset_ok read)), readUp.keptSince⟩
  · intro s u v lock sum read
    have readUp := (segRead_reading _ _ _).ok read
    obtain ⟨x, rfl⟩ := readUp.1.exists_through
    exact ⟨run_unlocked lock (translateByte_ok read), readUp.keptSince⟩

/-! ## XCHG -/

section
variable {s t u : State} {w : Width} {l : Loc}

/-- Storing at a place leaves LOCK# as it was. -/
theorem stored_busLock (s : State) (w : Width) (l : Loc) (v : Val w) : (s.stored w l v).busLock = s.busLock := by
  cases l with
  | reg r => rfl
  | mem pas => rw [(stored_access s w pas v).1]; rfl

/-- While LOCK# is asserted, storing lets no other bus master write. -/
theorem stored_masters_locked (lock : s.busLock = true) (l : Loc) (v : Val w) :
    (s.stored w l v).masters = s.masters := by
  cases l with
  | reg r => rfl
  | mem pas => exact (stored_access s w pas v).2.2.2 lock

/-- What is read from the state with LOCK# asserted on, by what it leaves of the instruction's state. -/
theorem Access.through_lockedIf {c : Bool} (begun : Access s.entered t) (read : Access (t.lockedIf c) u) :
    u = { s.through u with busLock := s.busLock || c } := by
  obtain ⟨x, rfl⟩ := begun.exists_through
  cases c with
  | false => exact read.1.trans (by rw [Bool.or_false]; rfl)
  | true =>
    refine read.1.trans ?_
    rw [State.lockedIf_true, State.lockBus, State.cycle_rest, Bool.or_true]
    rfl

/-- Writing back is storing from the state the read under LOCK# ended in, LOCK# then as before. -/
theorem writtenBack_eq {c : Bool} {v : Val w} (reached : u = { s.through u with busLock := s.busLock || c }) :
    (s.through u).writtenBack c w l v = { u.stored w l v with busLock := s.busLock } :=
  congrArg (fun y : State => { y.stored w l v with busLock := s.busLock }) reached.symm

/-- Memory kept after what has changed no byte but those of other bus masters. -/
theorem MemoryKept.after (before : MemoryKept s t .nowhere) (fewer : ∀ x, t.outside x → s.outside x)
    (h : MemoryKept t u l) : MemoryKept s u l := fun x hx ho =>
  (h x hx fun o => ho (fewer x o)).trans (before x (fun ⟨_, listed, _⟩ => nomatch listed) ho)

/-- Asserting LOCK# lets other bus masters write once, and changes no other byte. -/
theorem State.lockedIf_kept (s : State) (c : Bool) (wf : s.mem.wf = true) : (s.lockedIf c).mem.wf = true ∧
    MemoryKept s (s.lockedIf c) .nowhere ∧ ∀ x, (s.lockedIf c).outside x → s.outside x := by
  cases c with
  | false => exact ⟨wf, fun _ _ _ => rfl, fun _ o => o⟩
  | true =>
    obtain ⟨wfCycle, kept⟩ := State.cycle_mem wf
    exact ⟨wfCycle, fun x _ ho => kept x ho, fun x o => (Access.cycle s).outside o⟩

theorem State.lockedIf_cr0 (s : State) (c : Bool) : (s.lockedIf c).cr0 = s.cr0 := by
  cases c with
  | false => rfl
  | true => rw [State.lockedIf_true, State.lockBus, State.cycle_rest]

/-- With paging off, finding an operand and reading it under LOCK# changes no byte of memory. -/
theorem MemoryKept.of_lockedRead {c : Bool} (begun : Reading s.entered t) (read : Reading (t.lockedIf c) u)
    (pg : s.cr0.pg = false) (wf : s.mem.wf = true) :
    MemoryKept s u .nowhere ∧ ∀ x, u.outside x → s.outside x := by
  obtain ⟨wfLocked, kept, fewer⟩ := t.lockedIf_kept c (begun.wf wf)
  have pgLocked : (t.lockedIf c).cr0.pg = false := by rw [State.lockedIf_cr0, begun.1.1]; exact pg
  exact ⟨((begun.keptSince pg wf).after (fun _ o => begun.1.outside o)
      (kept.after fewer (read.kept pgLocked wfLocked))),
    fun x o => begun.1.outside (fewer x (read.1.outside o))⟩

/-- A place read and written, under LOCK# where the condition holds. -/
theorem lockedIf_swap {c : Bool} {a v : Val w} (read : readLoc w l (t.lockedIf c) = .ok a u) :
    lockedIf c (do let a ← readLoc w l; writeLoc w l v; return a) t =
      .ok a { u.stored w l v with busLock := t.busLock } := by
  have swapped : (do let a ← readLoc w l; writeLoc w l v; return a : M (Val w)) (t.lockedIf c) =
      .ok a (u.stored w l v) := (bind_ok read).trans (bind_ok (writeLoc_ok w l v u))
  cases c with
  | true => exact locked_ok swapped
  | false =>
    refine swapped.trans (congrArg (EStateM.Result.ok a) ?_)
    have same : (u.stored w l v).busLock = t.busLock := by
      rw [stored_busLock, ((readLoc_access w l).ok read).1]
      rfl
    rw [← same]

theorem exchange_ok {rm : RM} {r : Reg} {v : Val w} (found : locate w rm true true s.entered = .ok l t)
    (read : readLoc w l (t.lockedIf (isMem rm)) = .ok v u) : exchange w rm r s.entered =
      .ok () (((s.through u).writtenBack (isMem rm) w l (s.regs.read w r)).withReg w r v) := by
  have begun := (locate_access _ _ _ _).ok found
  rw [writtenBack_eq (begun.through_lockedIf ((readLoc_access _ _).ok read))]
  obtain ⟨x, rfl⟩ := begun.exists_through
  exact (bind_ok found).trans ((bind_ok (getReg_run w r _)).trans (bind_ok (lockedIf_swap read)))

theorem exec_xchg (byte : Bool) (rm : RM) (r : Reg) (s : State) :
    exec (if byte then .xchgEbGb rm r else .xchgEvGv rm r) s =
      run (isMem rm) (exchange (if byte then .b8 else s.opw) rm r) s := by cases byte <;> rfl

/-- The one-byte forms of XCHG, each with its register. -/
theorem exec_xchgEax (s : State) : ∀ p ∈ [(Reg.ecx, Instr.xchgEaxEcx), (.edx, .xchgEaxEdx), (.ebx, .xchgEaxEbx),
      (.esp, .xchgEaxEsp), (.ebp, .xchgEaxEbp), (.esi, .xchgEaxEsi), (.edi, .xchgEaxEdi)],
    exec p.2 s = run false (exchange s.opw (.reg p.1) .eax) s := by
  simp only [List.forall_mem_cons, List.not_mem_nil, false_imp_iff, implies_true, and_true]
  exact ⟨rfl, rfl, rfl, rfl, rfl, rfl, rfl⟩

end

/-- Settles O12: the operand is read and written in one locked sequence, which `lockedIf_swap` follows. -/
theorem exchange_spec : Obligations.Exchange := by
  constructor
  · intro byte rm r s s1 s2 l wf lock w v found read t
    have begun := (locate_reading _ _ _ _).ok found
    have readLocked := (readLoc_reading _ _).ok read
    have wf2 := readLocked.wf (s1.lockedIf_kept _ (begun.wf wf)).1
    have kept : MemoryKept s2 t l := writtenBack_kept (s := s.through s2) wf2 (isMem rm) w l (s.regs.read w r)
    refine ⟨(exec_xchg byte rm r s).trans (run_ok lock (exchange_ok found read)), kept, fun pg => ?_,
      fun mem free => ?_⟩
    · obtain ⟨unchanged, fewer⟩ := MemoryKept.of_lockedRead begun readLocked pg wf
      exact unchanged.after fewer kept
    · have locked : (s.busLock || isMem rm) = true := by rw [mem, Bool.or_true]
      rw [mem] at readLocked
      have free1 : s1.busLock = false := by rw [begun.1.1]; exact free
      calc t.masters = s2.masters := stored_masters_locked (s := { s.through s2 with busLock := _ }) locked l _
        _ = s1.cycle.masters := readLocked.1.2.2.2 rfl
        _ = s1.masters.tail := by
          rw [State.cycle_masters, free1, List.drop_one]
          rfl
  · intro s lock p listed
    rw [exec_xchgEax s p listed]
    exact run_unlocked lock rfl

/-! ## Conversions, LEA and NOP -/

theorem spreadSign_run (w : Width) (s : State) : spreadSign w s =
    .ok () (s.withReg w .edx (if (s.regs.read w .eax).msb then BitVec.allOnes w.bits else 0)) := rfl

/-- The sign of a value throughout a word above it extends it. -/
theorem toInt_sign_append {n : Nat} (hn : 0 < n) (v : BitVec n) :
    ((if v.msb then BitVec.allOnes n else 0) ++ v).toInt = v.toInt := by
  have wide : ¬ (n == 0) = true := fun h => Nat.ne_of_gt hn (eq_of_beq h)
  rw [BitVec.toInt_append, if_neg wide, BitVec.toInt_eq_msb_cond v]
  cases v.msb with
  | false =>
    have zero : (0 : BitVec n).toInt = 0 := BitVec.toInt_zero
    rw [if_neg Bool.false_ne_true, if_neg Bool.false_ne_true, zero, Int.mul_zero, Int.zero_add]
  | true =>
    rw [if_pos rfl, if_pos rfl, BitVec.toInt_allOnes, if_pos hn, Int.mul_neg, Int.mul_one, Int.natCast_pow, Int.add_comm]
    rfl

/-- Settles O13: each conversion extends the sign in place or into (E)DX. -/
theorem convertAndAddress : Obligations.ConvertAndAddress := fun s lock =>
  ⟨⟨_, BitVec.toInt_signExtend_of_le (by decide), run_unlocked lock rfl⟩,
    ⟨_, BitVec.toInt_signExtend_of_le (by decide), run_unlocked lock rfl⟩,
    ⟨_, toInt_sign_append (by decide) _, run_unlocked lock (spreadSign_run .b16 _)⟩,
    ⟨_, toInt_sign_append (by decide) _, run_unlocked lock (spreadSign_run .b32 _)⟩,
    fun _ _ => run_unlocked lock rfl, run_unlocked lock rfl⟩

end Sys2Proof.Machine

/-! # PUSH and POP, PUSHF and POPF (40_data_movement.md R403, R404, R406; 46_block_flag.md R607, R608) -/

namespace Sys2Proof.Machine

/-! ## PUSH and PUSHF -/

section
variable {s u : State} {w : Width}

theorem push_run_ok {pas : List Word32} (v : Val w)
    (slot : segResolve .ss (s.stackAt (-distOf w)) w.bytes true true s = .ok pas u) :
    push w v s = .ok () ((u.stored w (.mem pas) v).moveSP (-distOf w)) := by
  have slotAs : segResolveAs s.user .ss (s.stackAt (-distOf w)) w.bytes true true s = .ok pas u := slot
  refine (bind_ok (get_run s)).trans ?_
  rw [pushAs_run, slotAs]

theorem PushForm.source_reading (f : PushForm) (s : State) (w : Width) : Keeps Reading (f.source s w) := by
  cases f with
  | ev rm => exact readRM_reading w rm
  | rv | iv | ib | seg | flags16 | flags32 => exact Keeps.pure Reading.order _

theorem pushFlags_run (w : Width) (s : State) :
    pushFlags w s = push w ((s.flags.image &&& 0xFFFCFFFF).setWidth w.bits) s := bind_ok (get_run s)

theorem pushSeg_run (w : Width) (r : SReg) (s : State) :
    pushSeg w r s = push w ((s.seg r).sel.setWidth w.bits) s := bind_ok (get_run s)

/-- An instruction that pushes a value it does not read from memory. -/
theorem run_push (lock : s.cur.lock = false) {m : M Unit} {v : Val w} (h : m s.entered = push w v s.entered) :
    run false m s = settle s ((pure v >>= push w) s.entered) := by
  rw [run_settle lock, h, pure_bind]

/-- A PUSH pushes the value of its form. -/
theorem exec_push (lock : s.cur.lock = false) (f : PushForm) :
    exec f.instr s = settle s ((f.source s (f.width s) >>= push (f.width s)) s.entered) := by
  cases f with
  | ev rm => exact run_settle lock
  | rv r => exact run_push lock (bind_ok (getReg_run s.opw r s.entered))
  | iv | ib => exact run_push lock rfl
  | seg r => cases r <;> exact run_push lock (pushSeg_run s.opw _ s.entered)
  | flags16 => exact run_push lock (pushFlags_run .b16 s.entered)
  | flags32 => exact run_push lock (pushFlags_run .b32 s.entered)

end

/-- Settles O14: the value is read, its slot resolved, and the value stored there. -/
theorem pushInstructions : Obligations.PushInstructions := by
  intro f s s1 s2 pas v wf lock source slot t
  have begun := (f.source_reading s _).ok source
  have resolved := Reading.order.trans begun ((segResolve_reading _ _ _ _ _).ok slot)
  obtain ⟨x, rfl⟩ := begun.1.exists_through
  obtain ⟨y, rfl⟩ := resolved.1.exists_through
  exact ⟨(exec_push lock f).trans (congrArg (settle s) ((bind_ok source).trans (push_run_ok v slot))),
    resolved.stored_kept wf v⟩

/-! ## POP and POPF -/

section
variable {s u x : State} {w : Width} {v : Val w}

theorem pop_ok (read : stackRead w 0 s = .ok v u) : pop w s = .ok v (u.moveSP (distOf w)) := bind_ok read

theorem popReg_ok (read : stackRead w 0 s = .ok v u) (r : Reg) :
    popReg w r s = .ok () ((u.moveSP (distOf w)).withReg w r v) := bind_ok (pop_ok read)

theorem popRM_ok {rm : RM} {l : Loc} (read : stackRead w 0 s = .ok v u)
    (found : locate w rm true true (u.moveSP (distOf w)) = .ok l x) : popRM w rm s = .ok () (x.stored w l v) :=
  (bind_ok (pop_ok read)).trans (writeRM_ok found v)

/-- With a word size RF and VM stay (46_block_flag.md R608). -/
theorem Flags.load_word (f : Flags) (v : Word32) (cpl : BitVec 2) : f.load v .s16 cpl =
    { Flags.ofImage v with
      rf := f.rf, vm := f.vm, ie := if cpl ≤ f.iopl then (Flags.ofImage v).ie else f.ie,
      iopl := if cpl = 0 then (Flags.ofImage v).iopl else f.iopl } := rfl

theorem popFlags_ok (read : stackRead w 0 s = .ok v u) : popFlags w s = .ok ()
    { u.moveSP (distOf w) with
      flags := u.flags.load (v.setWidth 32) .s16 u.cpl, cur := { u.cur with keepRf := true } } := bind_ok (pop_ok read)

theorem exec_popFlags (wide : Bool) (s : State) : exec (if wide then .popfd else .popf) s =
    run false (popFlags (if wide then .b32 else .b16)) s := by cases wide <;> rfl

/-- Memory kept by a POP to an r/m operand: the top of the stack is read, and then the operand found with (E)SP up. -/
theorem Reading.popped_kept {k : Word32} {l : Loc} (read : Reading s.entered u) (found : Reading (u.moveSP k) x)
    (wf : s.mem.wf = true) (v : Val w) : MemoryKept x (x.stored w l v) l ∧
      (s.cr0.pg = false → MemoryKept s (x.stored w l v) l) := by
  have wfU : (u.moveSP k).mem.wf = true := read.wf wf
  have kept : MemoryKept x (x.stored w l v) l := Machine.stored_kept (found.wf wfU) w l v
  refine ⟨kept, fun pg => ?_⟩
  have pgU : (u.moveSP k).cr0.pg = false := by
    show u.cr0.pg = false
    rw [read.1.1]
    exact pg
  have unchanged : MemoryKept u x .nowhere := found.kept pgU wfU
  exact (read.keptSince pg wf).after (fun _ o => read.1.outside o) (unchanged.after (fun _ o => found.1.outside o) kept)

end

/-- Settles O15: the top of the stack is read, (E)SP goes up, and then the destination is found and written. -/
theorem popInstructions : Obligations.PopInstructions := by
  intro s u wf lock
  refine ⟨fun v read => ?_, fun wide v read => ?_, fun v read => ?_⟩
  · have begun := (stackRead_reading _ _).ok read
    obtain ⟨y, rfl⟩ := begun.1.exists_through
    refine ⟨fun r => run_unlocked lock (popReg_ok read r), fun rm l x found => ?_⟩
    have located := (locate_reading _ _ _ _).ok found
    have reached : x = ((s.through y).moveSP (distOf s.opw)).rollback x := located.1.1
    intro t
    have written : t = x.stored s.opw l v := congrArg (fun z : State => z.stored s.opw l v) reached.symm
    rw [written]
    exact ⟨run_unlocked lock (popRM_ok read found), begun.popped_kept located wf v⟩
  · obtain ⟨y, rfl⟩ := ((stackRead_access _ _).ok read).exists_through
    exact (exec_popFlags wide s).trans (run_unlocked lock (popFlags_ok read))
  · exact fun pg => ((stackRead_reading _ _).ok read).keptSince pg wf

end Sys2Proof.Machine

/-! # PUSHA and POPA, ENTER and LEAVE (40_data_movement.md R405, R408; 46_block_flag.md R590, R591) -/

namespace Sys2Proof.Machine

/-! ## Operations part-way through which a fault keeps the registers -/

section
variable {m : M Unit} {s t : State}

theorem partway_ok (h : m (s.partway true) = .ok () t) : partway m s = .ok () (t.partway false) :=
  (bind_ok (modify_run _ s)).trans (bind_ok h)

theorem partway_error {x : Stop} (h : m (s.partway true) = .error x t) : partway m s = .error x t :=
  (bind_ok (modify_run _ s)).trans (bind_error h)

/-- An action that raised an exception is settled by taking it. -/
theorem settle_exc {r : EStateM.Result Stop State Unit} {x : Exn} (h : r = .error (.exc x) t) :
    settle s r = takeFault s t x := by
  rw [h]
  rfl

end

/-! ## Slots of the stack -/

section
variable {s t u : State} {w : Width}

/-- Distances down the stack add up. -/
theorem neg_slots_add (w : Width) (i j : Nat) : -BitVec.ofNat 32 (i * w.bytes) + -BitVec.ofNat 32 (j * w.bytes) =
    -BitVec.ofNat 32 ((i + j) * w.bytes) := by
  rw [Nat.add_mul, BitVec.ofNat_add, BitVec.neg_add, BitVec.sub_eq_add_neg]

/-- The slots of `i + j` pushes are those of the first `i` and, from where these leave (E)SP, those of `j` more. -/
theorem State.slots_add (s : State) (w : Width) (i j : Nat) :
    s.slots w (i + j) = s.slots w i ++ (s.moveSP (-BitVec.ofNat 32 (i * w.bytes))).slots w j := by
  unfold State.slots
  rw [List.range_add, List.flatMap_append, List.flatMap_map]
  congr 2
  funext k
  rw [State.stackAt_moveSP, neg_slots_add, Nat.add_assoc]
  rfl

/-- The pops before the next one have moved (E)SP up by their bytes, and so has it. -/
theorem Access.pop_next {k : Nat} {v : Val w} (before : Access (s.moveSP (BitVec.ofNat 32 (k * w.bytes))) t)
    (h : pop w t = .ok v u) : Access (s.moveSP (BitVec.ofNat 32 ((k + 1) * w.bytes))) u := by
  have moved := before.moveSP (distOf w)
  rw [State.moveSP_moveSP, distOf, ← BitVec.ofNat_add, ← Nat.succ_mul] at moved
  exact Access.order.trans moved (pop_access h)

end

/-! ## PUSHA and POPA -/

section
variable {s t u : State} {w : Width} {x : Exn}

/-- The registers in the order in which PUSHA pushes them. -/
def Regs.pushOrder (g : Regs) (w : Width) : List (Val w) :=
  ([.eax, .ecx, .edx, .ebx, .esp, .ebp, .esi, .edi] : List Reg).map (g.read w)

theorem exec_pusha (wide : Bool) (s : State) : exec (if wide then .pushad else .pusha) s =
    run false (pushAllRegs (if wide then .b32 else .b16)) s := by cases wide <;> rfl

theorem exec_popa (wide : Bool) (s : State) : exec (if wide then .popad else .popa) s =
    run false (popAllRegs (if wide then .b32 else .b16)) s := by cases wide <;> rfl

theorem Probed.probePushes {k : Nat} (h : Probed s.user w k s u) : probePushes w k s = .ok () u :=
  (bind_ok (get_run s)).trans h.run

theorem ProbeFails.probePushes {k : Nat} (h : ProbeFails s.user w k s x u) : probePushes w k s = .error (.exc x) u :=
  (bind_ok (get_run s)).trans h.run

theorem pushAllRegs_ok {pas : List Word32} (probed : Probed s.user w 8 s u)
    (pushed : Pushed s.user w (s.regs.pushOrder w) (u.partway true) t pas) :
    pushAllRegs w s = .ok () (t.partway false) := by
  have user : (u.partway true).user = s.user := by
    show u.user = s.user
    rw [probed.reading.1.1]
    rfl
  rw [← user] at pushed
  exact (bind_ok (get_run s)).trans ((bind_ok probed.probePushes).trans (partway_ok pushed.pushAll))

theorem pushAllRegs_probeFails (fails : ProbeFails s.user w 8 s x u) : pushAllRegs w s = .error (.exc x) u :=
  (bind_ok (get_run s)).trans (bind_error fails.probePushes)

/-- What pushes that begin after reading leave: (E)SP down by their bytes, and what accesses change. -/
theorem Pushed.from_entered {vs : List (Val w)} {pas : List Word32} {n : Nat} (begun : Reading s.entered u)
    (pushed : Pushed s.user w vs (u.partway true) t pas) (count : vs.length = n) :
    t.regs = s.regs.setSP s.stackSize (s.regs.esp - BitVec.ofNat 32 (n * w.bytes)) ∧ t.flags = s.flags ∧
      t.eip = s.cur.next ∧
      (s.cr0.pg = false → s.mem.wf = true → pas = s.slots w n ∧ MemoryKept s t (.mem pas)) := by
  subst count
  have left := pushed.state.1
  obtain ⟨y, rfl⟩ := begun.1.exists_through
  refine ⟨?_, pushed.flags, ?_, fun pg wf => ?_⟩
  · rw [left, BitVec.sub_eq_add_neg]
    rfl
  · rw [left]
    rfl
  · obtain ⟨slots, kept⟩ := pushed.kept pg (begun.wf wf)
    exact ⟨slots, MemoryKept.since begun kept pg wf⟩

section
variable {s1 s2 s3 s4 s5 s6 s7 s8 : State} {di si bp skip bx dx cx ax : Val w}
  (p1 : pop w s = .ok di s1) (p2 : pop w s1 = .ok si s2) (p3 : pop w s2 = .ok bp s3) (p4 : pop w s3 = .ok skip s4)
  (p5 : pop w s4 = .ok bx s5) (p6 : pop w s5 = .ok dx s6) (p7 : pop w s6 = .ok cx s7) (p8 : pop w s7 = .ok ax s8)
include p1 p2 p3 p4 p5 p6 p7 p8

/-- After the eight pops seven registers are written. -/
theorem popAllRegs_ok : popAllRegs w s = .ok () (((((((s8.withReg w .edi di).withReg w .esi si).withReg w .ebp
    bp).withReg w .ebx bx).withReg w .edx dx).withReg w .ecx cx).withReg w .eax ax) :=
  (bind_ok p1).trans ((bind_ok p2).trans ((bind_ok p3).trans ((bind_ok p4).trans ((bind_ok p5).trans ((bind_ok p6).trans
    ((bind_ok p7).trans (bind_ok p8)))))))

/-- The eight pops move (E)SP up by their bytes. -/
theorem pops_access : Access (s.moveSP (BitVec.ofNat 32 (8 * w.bytes))) s8 := by
  have start : Access (s.moveSP (BitVec.ofNat 32 (0 * w.bytes))) s := by
    rw [Nat.zero_mul]
    exact (State.moveSP_zero s).symm ▸ Access.order.refl s
  have four := (((start.pop_next p1).pop_next p2).pop_next p3).pop_next p4
  exact (((four.pop_next p5).pop_next p6).pop_next p7).pop_next p8

end

end

/-! ## ENTER -/

/-- What a level other than 0 adds to ENTER: the pointers of the enclosing frames and the frame's own are pushed
(46_block_flag.md R590). -/
def linkFrame (w : Width) (k : Nat) (frame : Val w) : M Unit :=
  if k = 0 then pure ()
  else do
    copyDisplay w (k - 1)
    push w frame

theorem enterFrame_eq (w : Width) (size : Word16) (level : Byte) : enterFrame w size level = partway (do
    let bp ← getReg w .ebp
    push w bp
    let s ← get
    linkFrame w (level.toNat % 32) ((s.stackAt 0).setWidth w.bits)
    setReg w .ebp ((s.stackAt 0).setWidth w.bits)
    modify fun t => t.moveSP (-size.setWidth 32)) := by
  unfold enterFrame linkFrame
  refine congrArg partway (bind_congr fun bp => bind_congr fun _ => bind_congr fun a => ?_)
  dsimp only
  split
  · rfl
  · rw [bind_assoc]

/-- The pointers that ENTER pushes after (E)BP, as the statement says it: none at level 0, else those of the enclosing
frames, up to `b`, and the frame's own. -/
def Linked (pageLevel : Bool) (w : Width) (k : Nat) (frame : Val w) (a b c : State) (q r : List Word32) : Prop :=
  if k = 0 then c = a ∧ q = [] ∧ r = [] else Displayed w (k - 1) a b q ∧ Pushed pageLevel w [frame] b c r

section
variable {pageLevel : Bool} {w : Width} {k j : Nat} {frame : Val w} {s a b c : State} {p q r : List Word32} {x : Exn}

theorem linked_zero : Linked pageLevel w 0 frame a b c q r ↔ c = a ∧ q = [] ∧ r = [] := by
  rw [Linked, if_pos rfl]

theorem linked_succ :
    Linked pageLevel w (j + 1) frame a b c q r ↔ Displayed w j a b q ∧ Pushed pageLevel w [frame] b c r := by
  rw [Linked, if_neg j.succ_ne_zero, Nat.add_sub_cancel]

theorem Displayed.user (h : Displayed w j a b q) : b.user = a.user := by
  obtain ⟨e, left⟩ := h.state
  rw [left.1]
  rfl

theorem Linked.run (h : Linked a.user w k frame a b c q r) : linkFrame w k frame a = .ok () c := by
  cases k with
  | zero =>
    obtain ⟨rfl, -, -⟩ := linked_zero.mp h
    rfl
  | succ j =>
    obtain ⟨shown, pushed⟩ := linked_succ.mp h
    rw [← shown.user] at pushed
    exact (bind_ok shown.run).trans (push_ok.mpr ⟨r, pushed⟩)

/-- What the pointers leave: (E)SP down by their bytes, (E)BP moved, and what accesses change. -/
theorem Linked.state (h : Linked pageLevel w k frame a b c q r) :
    ∃ e, Access ((a.moveSP (-BitVec.ofNat 32 (k * w.bytes))).withBP e) c := by
  cases k with
  | zero =>
    obtain ⟨rfl, -, -⟩ := linked_zero.mp h
    refine ⟨c.regs.ebp, ?_⟩
    rw [Nat.zero_mul]
    exact (State.moveSP_zero c).symm ▸ Access.order.refl c
  | succ j =>
    obtain ⟨shown, pushed⟩ := linked_succ.mp h
    obtain ⟨e, left⟩ := shown.state
    have left := left.moveSP (-BitVec.ofNat 32 (1 * w.bytes))
    rw [moveSP_withBP, State.moveSP_moveSP, neg_slots_add] at left
    exact ⟨e, Access.order.trans left pushed.state⟩

/-- With paging off the pointers are stored in their slots, and nothing else in memory changes. -/
theorem Linked.kept (h : Linked pageLevel w k frame a b c q r) (pg : a.cr0.pg = false) (wf : a.mem.wf = true) :
    q ++ r = a.slots w k ∧ MemoryKept a c (.mem (q ++ r)) := by
  cases k with
  | zero =>
    obtain ⟨rfl, rfl, rfl⟩ := linked_zero.mp h
    exact ⟨rfl, fun _ _ _ => rfl⟩
  | succ j =>
    obtain ⟨shown, pushed⟩ := linked_succ.mp h
    obtain ⟨e, left⟩ := shown.state
    have pgB : b.cr0.pg = false := by rw [left.1]; exact pg
    obtain ⟨slotsQ, keptQ⟩ := shown.kept pg wf
    obtain ⟨slotsR, keptR⟩ := pushed.kept pgB (left.2.1 wf)
    rw [slots_access left] at slotsR
    refine ⟨?_, MemoryKept.trans (fun y o => left.outside o) keptQ keptR⟩
    rw [slotsQ, slotsR, State.slots_add]
    rfl

/-- Where a pointer cannot be read or not be pushed, the exception is raised there. -/
theorem linkFrame_displayFails (level : k ≠ 0) (fails : DisplayFails w (k - 1) a x b) :
    linkFrame w k frame a = .error (.exc x) b := by
  rw [linkFrame, if_neg level]
  exact bind_error fails.run

theorem linkFrame_pushFails (level : k ≠ 0) (shown : Displayed w (k - 1) a b q)
    (fails : PushFails a.user w [frame] b x c) : linkFrame w k frame a = .error (.exc x) c := by
  rw [linkFrame, if_neg level]
  rw [← shown.user] at fails
  exact (bind_ok shown.run).trans (push_exc.mpr fails)

/-! ## What ENTER leaves of the instruction in progress -/

/-- The instruction in progress is as it was. -/
def SameCur (s t : State) : Prop := t.cur = s.cur

theorem SameCur.order : Order SameCur := ⟨fun _ => rfl, fun h k => Eq.trans k h⟩

theorem Keeps.sameCur {α : Type} {m : M α} (h : Keeps Access m) : Keeps SameCur m :=
  h.mono fun s t a => by rw [SameCur, a.1]; rfl

theorem push_sameCur (v : Val w) : Keeps SameCur (push w v) :=
  .bind SameCur.order (.get SameCur.order) fun _ => .bind SameCur.order (.get SameCur.order) fun _ =>
    .bind SameCur.order (segResolveAs_access _ _ _ _ _ _).sameCur fun _ =>
      .bind SameCur.order (physWrite_access _).sameCur fun _ => .modify fun _ => rfl

theorem copyDisplay_sameCur : ∀ j, Keeps SameCur (copyDisplay w j)
  | 0 => .pure SameCur.order _
  | j + 1 => .bind SameCur.order (.modify fun _ => rfl) fun _ => .bind SameCur.order (.get SameCur.order) fun _ =>
      .bind SameCur.order (segRead_access _ _ _).sameCur fun _ =>
        .bind SameCur.order (push_sameCur _) fun _ => copyDisplay_sameCur j

theorem linkFrame_sameCur : Keeps SameCur (linkFrame w k frame) :=
  .ite (.pure SameCur.order _) (.bind SameCur.order (copyDisplay_sameCur _) fun _ => push_sameCur _)

/-! ## ENTER, from the push of (E)BP on -/

section
variable {size : Word16} {level : Byte}

theorem enterFrame_pushFails (fails : PushFails s.user w [s.regs.read w .ebp] (s.partway true) x b) :
    enterFrame w size level s = .error (.exc x) b := by
  rw [enterFrame_eq]
  exact partway_error ((bind_ok (getReg_run w .ebp _)).trans (bind_error (push_exc.mpr fails)))

variable (first : Pushed s.user w [s.regs.read w .ebp] (s.partway true) a p)
include first

theorem Pushed.push_ebp : push w (s.regs.read w .ebp) (s.partway true) = .ok () a := push_ok.mpr ⟨p, first⟩

theorem enterFrame_linked (linked : linkFrame w (level.toNat % 32) ((a.stackAt 0).setWidth w.bits) a = .ok () c) :
    enterFrame w size level s = .ok ()
      (((c.withReg w .ebp ((a.stackAt 0).setWidth w.bits)).moveSP (-size.setWidth 32)).partway false) := by
  rw [enterFrame_eq]
  exact partway_ok ((bind_ok (getReg_run w .ebp _)).trans ((bind_ok first.push_ebp).trans ((bind_ok (get_run a)).trans
    (bind_ok linked))))

theorem enterFrame_linkFails
    (fails : linkFrame w (level.toNat % 32) ((a.stackAt 0).setWidth w.bits) a = .error (.exc x) b) :
    enterFrame w size level s = .error (.exc x) b ∧ b.cur.partway = true := by
  have kept : SameCur a (after (linkFrame w (level.toNat % 32) ((a.stackAt 0).setWidth w.bits) a)) :=
    linkFrame_sameCur.run a
  rw [fails] at kept
  constructor
  · rw [enterFrame_eq]
    exact partway_error ((bind_ok (getReg_run w .ebp _)).trans ((bind_ok first.push_ebp).trans ((bind_ok (get_run a)).trans
      (bind_error fails))))
  · exact (congrArg Cur.partway kept).trans (by rw [first.state.1]; rfl)

end

/-- What the pushes of ENTER leave: (E)SP down by their bytes, (E)BP moved, and their slots stored. -/
theorem Linked.from_entered {bp : Val w} (first : Pushed s.user w [bp] (s.entered.partway true) a p)
    (linked : Linked pageLevel w k frame a b c q r) : c.flags = s.flags ∧ c.eip = s.cur.next ∧
      c.regs = { s.regs.setSP s.stackSize (s.regs.esp - BitVec.ofNat 32 ((k + 1) * w.bytes)) with ebp := c.regs.ebp } ∧
      (s.cr0.pg = false → s.mem.wf = true →
        p ++ (q ++ r) = s.slots w (k + 1) ∧ MemoryKept s c (.mem (p ++ (q ++ r)))) := by
  obtain ⟨e, left⟩ := linked.state
  have pushed : Access ((s.entered.partway true).moveSP (-BitVec.ofNat 32 (1 * w.bytes))) a := first.state
  have all := Access.order.trans ((pushed.moveSP (-BitVec.ofNat 32 (k * w.bytes))).withBP e) left
  rw [State.moveSP_moveSP, neg_slots_add, Nat.add_comm 1 k] at all
  refine ⟨?_, ?_, ?_, fun pg wf => ?_⟩
  · rw [all.1]
    rfl
  · rw [all.1]
    rfl
  · rw [all.1, BitVec.sub_eq_add_neg]
    rfl
  · have pgA : a.cr0.pg = false := by rw [pushed.1]; exact pg
    obtain ⟨slotsP, keptP⟩ := first.kept pg wf
    obtain ⟨slotsQ, keptQ⟩ := linked.kept pgA (pushed.2.1 wf)
    refine ⟨?_, MemoryKept.trans (fun y o => pushed.outside o) keptP keptQ⟩
    rw [slotsP, slotsQ, slots_access pushed, Nat.add_comm k 1, State.slots_add]
    rfl

end

/-! ## LEAVE -/

theorem leaveFrame_ok {s u : State} {w : Width} {v : Val w}
    (read : stackRead w 0 { s with regs := s.regs.setSP s.stackSize s.regs.ebp } = .ok v u) :
    leaveFrame w s = .ok () ((u.moveSP (distOf w)).withReg w .ebp v) :=
  (bind_ok (modify_run _ s)).trans (bind_ok (pop_ok read))

/-- Settles O16: PUSHA, POPA and LEAVE are followed push by push and pop by pop; ENTER is the push of (E)BP, the pointers
that `linkFrame` pushes, and the frame set up. -/
theorem stackFrames : Obligations.StackFrames := by
  refine ⟨fun wide s lock => ?_, fun s lock => ⟨fun size level => ?_, ?_⟩⟩
  · intro w i values
    have outcome : exec i s = settle s (pushAllRegs w s.entered) := (exec_pusha wide s).trans (run_settle lock)
    have outcomePop : exec (if wide then .popad else .popa) s = settle s (popAllRegs w s.entered) :=
      (exec_popa wide s).trans (run_settle lock)
    clear_value w i
    refine ⟨fun u t pas probed pushed => ?_, fun x u fails => ?_, ?_⟩
    · exact ⟨outcome.trans (congrArg (settle s) (pushAllRegs_ok probed pushed)),
        pushed.from_entered probed.reading rfl⟩
    · exact outcome.trans (settle_exc (pushAllRegs_probeFails fails))
    · intro s1 s2 s3 s4 s5 s6 s7 s8 di si bp skip bx dx cx ax p1 p2 p3 p4 p5 p6 p7 p8 up
      have reached : s8 = up := (pops_access p1 p2 p3 p4 p5 p6 p7 p8).1
      rw [← reached]
      exact outcomePop.trans (congrArg (settle s) (popAllRegs_ok p1 p2 p3 p4 p5 p6 p7 p8))
  · intro i k bp
    have outcome : exec i s = settle s (enterFrame s.opw size level s.entered) := run_settle lock
    refine ⟨fun x b fails => ?_, fun a p first => ?_⟩
    · exact outcome.trans (settle_exc (enterFrame_pushFails fails))
    · intro frame
      have user : a.user = s.user := by rw [first.state.1]; rfl
      refine ⟨fun b c q r linked => ?_, fun x b deep fails => ?_, fun x b c q deep shown fails => ?_⟩
      · have pushes : Linked a.user s.opw k frame a b c q r := user.symm ▸ linked
        exact ⟨outcome.trans (congrArg (settle s) (enterFrame_linked first pushes.run)), pushes.from_entered first⟩
      · obtain ⟨stops, kept⟩ := enterFrame_linkFails (size := size) first (linkFrame_displayFails deep fails)
        exact ⟨outcome.trans (settle_exc stops), kept⟩
      · rw [← user] at fails
        obtain ⟨stops, kept⟩ := enterFrame_linkFails (size := size) first (linkFrame_pushFails deep shown fails)
        exact ⟨outcome.trans (settle_exc stops), kept⟩
  · intro v u down read
    have popped := (stackRead_reading _ _).ok read
    have reached : u = down.rollback u := popped.1.1
    rw [← reached]
    exact ⟨run_unlocked lock (leaveFrame_ok read), popped.kept⟩

end Sys2Proof.Machine

/-! # The ALU block, INC, DEC, NEG and NOT (41_binary_arithmetic.md R431 to R438, R444; 43_logical.md R471 to R474) -/

namespace Sys2Proof.Machine

/-! ## An operand read, the flags set and the operand written -/

section
variable {s t u x : State} {w : Width} {l : Loc}

/-- A place read, an action of the instruction's own, and the place written, under LOCK# where the condition holds. -/
theorem lockedIf_update {c : Bool} {a v : Val w} {m : M Unit}
    (read : readLoc w l (t.lockedIf c) = .ok a u) (acted : m u = .ok () x) (same : x.busLock = u.busLock)
    {f : Val w → M Unit} (body : f a = do m; writeLoc w l v) :
    lockedIf c (do let a ← readLoc w l; f a) t = .ok () { x.stored w l v with busLock := t.busLock } := by
  have updated : (do let a ← readLoc w l; f a : M Unit) (t.lockedIf c) = .ok () (x.stored w l v) := by
    rw [bind_ok read, body, bind_ok acted, writeLoc_ok]
  cases c with
  | true => exact locked_ok updated
  | false =>
    refine updated.trans (congrArg (EStateM.Result.ok ()) ?_)
    have kept : (x.stored w l v).busLock = t.busLock := by
      rw [stored_busLock, same, ((readLoc_access w l).ok read).1]
      rfl
    rw [← kept]

/-- Writing back after an effect on the flags is storing from the state the read under LOCK# ended in, LOCK# then as
before. -/
theorem writtenBack_effect_eq {c : Bool} {e : FlagEffect} {v : Val w}
    (reached : u = { s.through u with busLock := s.busLock || c }) :
    ((s.through u).effect e).writtenBack c w l v = { (u.effect e).stored w l v with busLock := s.busLock } :=
  congrArg (fun y : State => { (y.effect e).stored w l v with busLock := s.busLock }) reached.symm

/-- An operand read and written back is all of memory that changes: since it was read, and, with paging off, since the
instruction began. -/
theorem MemoryKept.of_update {c : Bool} (begun : Reading s.entered t) (read : Reading (t.lockedIf c) u)
    (wf : s.mem.wf = true) (kept : u.mem.wf = true → MemoryKept u x l) :
    MemoryKept u x l ∧ (s.cr0.pg = false → MemoryKept s x l) := by
  have keptSince := kept (read.wf (t.lockedIf_kept c (begun.wf wf)).1)
  refine ⟨keptSince, fun pg => ?_⟩
  obtain ⟨unchanged, fewer⟩ := MemoryKept.of_lockedRead begun read pg wf
  exact unchanged.after fewer keptSince

end

/-! ## The ALU block -/

theorem AluForm.source_reading (f : AluForm) (w : Width) : Keeps Reading (f.source w) := by
  cases f with
  | ebGb | evGv => exact getReg_reading _ _
  | gbEb | gvEv => exact readRM_reading _ _
  | alIb | eaxIv | ebIb | evIv | evIb => exact Keeps.pure Reading.order _

/-- An instruction of the ALU block is its operation on its form's destination and source. -/
theorem exec_alu (op : AluOp) (f : AluForm) (s : State) : exec (op.instr f) s =
    run (op.lockable f) (aluTo op (f.width s) f.dest (f.source (f.width s))) s := by
  cases f with
  | alIb imm =>
    rw [show AluForm.source _ (.alIb imm) = pure imm from congrArg pure (BitVec.setWidth_eq imm)]
    cases op <;> rfl
  | ebIb rm imm =>
    rw [show AluForm.source _ (.ebIb rm imm) = pure imm from congrArg pure (BitVec.setWidth_eq imm)]
    cases op <;> rfl
  | ebGb | evGv | gbEb | gvEv | eaxIv | evIv | evIb => cases op <;> rfl

/-- Without a write back no form takes LOCK. -/
theorem AluOp.lockable_eq_false {op : AluOp} (reads : op.writes = false) (f : AluForm) : op.lockable f = false := by
  cases f with
  | ebGb | evGv | ebIb | evIv | evIb => exact congrArg (· && _) reads
  | gbEb | gvEv | alIb | eaxIv => rfl

section
variable {s s1 s2 s3 : State} {w : Width} {rm : RM} {l : Loc} {src : M (Val w)} {a b : Val w} {op : AluOp}

/-- After its place has been found and its source read, an operation goes on with the flags and the LOCK that the
instruction began with. -/
theorem aluTo_begun (found : locate w rm op.writes true s.entered = .ok l s1) (source : src s1 = .ok b s2)
    (begun : Access s.entered s2) : aluTo op w rm src s.entered = lockedIf s.cur.lock (do
      let a ← readLoc w l
      setEffect (op.flags a b s.flags.cf)
      if op.writes then writeLoc w l (op.result a b s.flags.cf) else pure ()) s2 := by
  obtain ⟨x, rfl⟩ := begun.exists_through
  exact (bind_ok found).trans ((bind_ok source).trans rfl)

theorem aluTo_writes (writes : op.writes = true) (found : locate w rm op.writes true s.entered = .ok l s1)
    (source : src s1 = .ok b s2) (begun : Access s.entered s2)
    (read : readLoc w l (s2.lockedIf s.cur.lock) = .ok a s3) :
    aluTo op w rm src s.entered = .ok ()
      (((s.through s3).effect (op.flags a b s.flags.cf)).writtenBack s.cur.lock w l (op.result a b s.flags.cf)) := by
  have busLock : s2.busLock = s.busLock := by rw [begun.1]; rfl
  rw [aluTo_begun found source begun,
    writtenBack_effect_eq (begun.through_lockedIf ((readLoc_access _ _).ok read)), ← busLock]
  exact lockedIf_update read (setEffect_run _ _) rfl (by rw [if_pos writes])

theorem aluTo_reads (reads : op.writes = false) (lock : s.cur.lock = false)
    (found : locate w rm op.writes true s.entered = .ok l s1) (source : src s1 = .ok b s2)
    (begun : Access s.entered s2) (read : readLoc w l s2 = .ok a s3) :
    aluTo op w rm src s.entered = .ok () ((s.through s3).effect (op.flags a b s.flags.cf)) := by
  have reached : s3 = s.through s3 := (Access.order.trans begun ((readLoc_access _ _).ok read)).1
  rw [aluTo_begun found source begun, lock, lockedIf_false, bind_ok read, ← reached]
  refine (bind_ok (setEffect_run _ _)).trans ?_
  rw [if_neg (by rw [reads]; exact Bool.false_ne_true)]
  rfl

end

/-- Settles O1: from the state its source was read in the operation reads its place, and writes it back but for CMP. -/
theorem aluBlock : Obligations.AluBlock := by
  refine ⟨fun op f s s1 s2 s3 l a b wf lock found source read => ?_,
    fun w a b c => ⟨⟨rfl, rfl⟩, ⟨rfl, rfl⟩, ⟨rfl, rfl⟩, ⟨rfl, rfl⟩, ⟨rfl, rfl⟩, ⟨rfl, rfl⟩, ⟨rfl, rfl⟩, rfl, rfl⟩⟩
  have begun := Reading.order.trans ((locate_reading _ _ _ _).ok found) ((f.source_reading _).ok source)
  have readUp := (readLoc_reading _ _).ok read
  cases writes : op.writes with
  | true =>
    exact ⟨_, (exec_alu op f s).trans (run_ok lock (aluTo_writes writes found source begun.1 read)), rfl,
      MemoryKept.of_update begun readUp wf fun wf3 => writtenBack_kept (s := (s.through s3).effect _) wf3 _ _ l _⟩
  | false =>
    have unlocked : s.cur.lock = false := Bool.eq_false_iff.mpr fun h =>
      Bool.false_ne_true ((AluOp.lockable_eq_false writes f).symm.trans (lock h))
    refine ⟨_, (exec_alu op f s).trans (run_ok lock (aluTo_reads writes unlocked found source begun.1 ?_)), rfl,
      MemoryKept.of_update begun readUp wf fun _ _ _ _ => rfl⟩
    rw [unlocked] at read
    exact read

/-! ## One operand -/

section
variable {s s1 s2 : State} {w : Width} {rm : RM} {l : Loc} {a : Val w} {result : Val w → Val w} {flags : Val w → M Unit}

/-- The operand found and read, the flags set from it, and the operand written, in one sequence. -/
theorem modifyRM_ok {x : State} {v : Val w} (found : locate w rm true true s.entered = .ok l s1)
    (read : readLoc w l (s1.lockedIf s.cur.lock) = .ok a s2) (acted : flags a s2 = .ok () x)
    (same : x.busLock = s2.busLock) (value : result a = v) :
    modifyRM w rm result flags s.entered = .ok () { x.stored w l v with busLock := s.busLock } := by
  obtain ⟨y, rfl⟩ := ((locate_access _ _ _ _).ok found).exists_through
  exact (bind_ok found).trans (lockedIf_update read acted same (by rw [value]))

variable (found : locate w rm true true s.entered = .ok l s1) (read : readLoc w l (s1.lockedIf s.cur.lock) = .ok a s2)
include found read

theorem modifyRM_effect {e : FlagEffect} {v : Val w} (effect : flags a = setEffect e) (value : result a = v) :
    modifyRM w rm result flags s.entered = .ok () (((s.through s2).effect e).writtenBack s.cur.lock w l v) := by
  rw [writtenBack_effect_eq (((locate_access _ _ _ _).ok found).through_lockedIf ((readLoc_access _ _).ok read))]
  exact modifyRM_ok found read (by rw [effect, setEffect_run]) rfl value

theorem modifyRM_noEffect (kept : flags a = pure ()) :
    modifyRM w rm result flags s.entered = .ok () ((s.through s2).writtenBack s.cur.lock w l (result a)) := by
  rw [writtenBack_eq (((locate_access _ _ _ _).ok found).through_lockedIf ((readLoc_access _ _).ok read))]
  exact modifyRM_ok found read (by rw [kept, pure_run]) rfl rfl

end

/-- The action of INC, DEC and NEG. -/
def UnaryOp.action : UnaryOp → (w : Width) → RM → M Unit
  | .inc => increment
  | .dec => decrement
  | .neg => negate

theorem exec_unary (op : UnaryOp) (f : UnaryForm) (s : State) :
    exec (op.instr f) s = run (isMem f.operand) (op.action (f.width s) f.operand) s := by
  cases f <;> cases op <;> rfl

theorem exec_not (f : UnaryForm) (s : State) :
    exec (match f with | .eb rm => .notEb rm | .ev rm => .notEv rm) s =
      run (isMem f.operand) (invert (f.width s) f.operand) s := by
  cases f <;> rfl

theorem addResult_noCarry {n : Nat} (a b : BitVec n) : addResult a b false = a + b := BitVec.add_zero _

theorem subResult_noBorrow {n : Nat} (a b : BitVec n) : subResult a b false = a - b := BitVec.sub_zero _

theorem UnaryOp.action_ok (op : UnaryOp) {s s1 s2 : State} {w : Width} {rm : RM} {l : Loc} {a : Val w}
    (found : locate w rm true true s.entered = .ok l s1) (read : readLoc w l (s1.lockedIf s.cur.lock) = .ok a s2) :
    op.action w rm s.entered =
      .ok () (((s.through s2).effect (op.flags a)).writtenBack s.cur.lock w l (op.result a)) := by
  cases op with
  | inc => exact modifyRM_effect found read rfl (addResult_noCarry a 1)
  | dec => exact modifyRM_effect found read rfl (subResult_noBorrow a 1)
  | neg => exact modifyRM_effect found read rfl ((subResult_noBorrow 0 a).trans (BitVec.zero_sub a))

/-- Settles O3: each of the four reads its operand, sets its flags and writes the operand back in one sequence. -/
theorem unaryOperations : Obligations.UnaryOperations := by
  refine ⟨⟨fun op f s s1 s2 l a wf lock found read => ?_, fun r s => ⟨?_, ?_⟩⟩,
    fun f s s1 s2 l a wf lock found read => ?_⟩
  · exact ⟨_, (exec_unary op f s).trans (run_ok lock (op.action_ok found read)), rfl,
      MemoryKept.of_update ((locate_reading _ _ _ _).ok found) ((readLoc_reading _ _).ok read) wf fun wf2 =>
        writtenBack_kept (s := (s.through s2).effect _) wf2 _ _ l _⟩
  · rfl
  · rfl
  · exact ⟨_, (exec_not f s).trans (run_ok lock (modifyRM_noEffect found read rfl)), rfl,
      MemoryKept.of_update ((locate_reading _ _ _ _).ok found) ((readLoc_reading _ _).ok read) wf fun wf2 =>
        writtenBack_kept (s := s.through s2) wf2 _ _ l _⟩

end Sys2Proof.Machine

/-! # Multiplication and division (41_binary_arithmetic.md R439 to R443) -/

namespace Sys2Proof.Machine

/-! ## Exact integers in one width and in two -/

section
variable {n : Nat}

/-- A double-width value by its halves. -/
theorem toNat_halves (p : BitVec (n + n)) :
    (p.extractLsb' n n).toNat * 2 ^ n + (p.extractLsb' 0 n).toNat = p.toNat := by
  rw [← Nat.shiftLeft_eq, Nat.shiftLeft_add_eq_or_of_lt (p.extractLsb' 0 n).isLt, ← BitVec.toNat_append,
    BitVec.extractLsb'_append_extractLsb']

/-- A signed double-width value by its halves, of which the high one has the sign. -/
theorem toInt_halves (hn : 0 < n) (p : BitVec (n + n)) :
    (p.extractLsb' n n).toInt * 2 ^ n + (p.extractLsb' 0 n).toNat = p.toInt := by
  have wide : ¬ (n == 0) = true := fun h => Nat.ne_of_gt hn (eq_of_beq h)
  have joined : (p.extractLsb' n n ++ p.extractLsb' 0 n).toInt = p.toInt :=
    congrArg BitVec.toInt BitVec.extractLsb'_append_extractLsb'
  rw [← joined, BitVec.toInt_append, if_neg wide, Int.mul_comm]

/-- An integer fits in `n` bits exactly if it is the signed value of its low `n` bits. -/
theorem toInt_ofInt_eq_iff (hn : 0 < n) (x : Int) :
    (BitVec.ofInt n x).toInt = x ↔ -2 ^ (n - 1) ≤ x ∧ x < 2 ^ (n - 1) :=
  ⟨fun h => h ▸ ⟨BitVec.le_toInt _, BitVec.toInt_lt⟩, fun ⟨low, high⟩ => BitVec.toInt_ofInt_eq_self hn low high⟩

theorem toInt_ofInt_ne_iff (hn : 0 < n) (x : Int) :
    x ≠ (BitVec.ofInt n x).toInt ↔ x < -2 ^ (n - 1) ∨ 2 ^ (n - 1) ≤ x := by
  rw [ne_comm, ne_eq, toInt_ofInt_eq_iff hn, Decidable.not_and_iff_not_or_not, Int.not_le, Int.not_lt]

theorem toNat_wide_mul (a b : BitVec n) :
    (a.setWidth (n + n) * b.setWidth (n + n)).toNat = a.toNat * b.toNat := by
  have fits : a.toNat * b.toNat < 2 ^ (n + n) := by
    rw [Nat.pow_add]
    exact Nat.mul_lt_mul'' a.isLt b.isLt
  rw [BitVec.toNat_mul, BitVec.toNat_setWidth_of_le (Nat.le_add_left n n),
    BitVec.toNat_setWidth_of_le (Nat.le_add_left n n), Nat.mod_eq_of_lt fits]

/-- The product of two signed numbers of `n` bits fits in twice as many. -/
theorem toInt_wide_mul (hn : 0 < n) (a b : BitVec n) :
    (a.signExtend (n + n) * b.signExtend (n + n)).toInt = a.toInt * b.toInt := by
  have above := BitVec.toInt_mul_toInt_le (x := a) (y := b)
  have below := BitVec.le_toInt_mul_toInt (x := a) (y := b)
  have half : (2 : Int) ^ (n + n - 1) = 2 * 2 ^ (n * 2 - 2) := by
    rw [← Int.pow_succ', show n * 2 - 2 + 1 = n + n - 1 by omega]
  have room : (0 : Int) < 2 ^ (n * 2 - 2) := Int.pow_pos (by decide)
  rw [BitVec.toInt_mul, BitVec.toInt_signExtend_of_le (Nat.le_add_left n n),
    BitVec.toInt_signExtend_of_le (Nat.le_add_left n n), ← BitVec.toInt_ofInt, toInt_ofInt_eq_iff (by omega), half]
  omega

/-- A double-width value is not the extension of its low half exactly if the low half has another signed value. -/
theorem bne_signExtend_eq_toInt (p : BitVec (n + n)) (lo : BitVec n) :
    (p != lo.signExtend (n + n)) = decide (lo.toInt ≠ p.toInt) := by
  rw [Bool.eq_iff_iff, bne_iff_ne, decide_eq_true_eq, ne_eq, ← BitVec.toInt_inj,
    BitVec.toInt_signExtend_of_le (Nat.le_add_left n n), ne_comm]

end

/-- Every operand has a byte at least. -/
theorem byte_le_bits : ∀ w : Width, 8 ≤ w.bits
  | .b8 | .b16 | .b32 => by decide

theorem bits_pos (w : Width) : 0 < w.bits := Nat.lt_of_lt_of_le (by decide) (byte_le_bits w)

/-! ## The instructions with one operand -/

/-- The action of MUL, IMUL, DIV and IDIV. -/
def PairOp.action : PairOp → (w : Width) → RM → M Unit
  | .mul => multiply
  | .imul => multiplySigned
  | .div => divide
  | .idiv => divideSigned

theorem exec_pair (op : PairOp) (f : UnaryForm) (s : State) :
    exec (op.instr f) s = run false (op.action (f.width s) f.operand) s := by
  cases f <;> cases op <;> rfl

/-! ## Multiplication -/

section
variable {s u : State} {w : Width} {rm : RM} {b : Val w}

theorem multiply_ok (read : readRM w rm s.entered = .ok b u) : ∃ lo hi : Val w,
    hi.toNat * 2 ^ w.bits + lo.toNat = (s.regs.read w .eax).toNat * b.toNat ∧ multiply w rm s.entered =
      .ok () ((((s.through u).withReg w .eax lo).withReg w (highReg w) hi).effect (mulFlags (hi != 0))) := by
  obtain ⟨x, rfl⟩ := ((readRM_access _ _).ok read).exists_through
  exact ⟨_, _, (toNat_halves _).trans (toNat_wide_mul _ _), bind_ok read⟩

theorem multiplySigned_ok (read : readRM w rm s.entered = .ok b u) : ∃ lo hi : Val w,
    hi.toInt * 2 ^ w.bits + lo.toNat = (s.regs.read w .eax).toInt * b.toInt ∧ multiplySigned w rm s.entered =
      .ok () ((((s.through u).withReg w .eax lo).withReg w (highReg w) hi).effect
        (mulFlags (decide (lo.toInt ≠ (s.regs.read w .eax).toInt * b.toInt)))) := by
  obtain ⟨x, rfl⟩ := ((readRM_access _ _).ok read).exists_through
  refine ⟨_, _, (toInt_halves (bits_pos w) _).trans (toInt_wide_mul (bits_pos w) _ _), ?_⟩
  rw [← toInt_wide_mul (bits_pos w), ← bne_signExtend_eq_toInt]
  exact bind_ok read

/-- The state with a signed product cut to a register, CF and OF saying whether it fits there. -/
def State.withProduct (s : State) (w : Width) (r : Reg) (p : Int) : State :=
  (s.withReg w r (BitVec.ofInt w.bits p)).effect
    (mulFlags (decide (p < -2 ^ (w.bits - 1) ∨ 2 ^ (w.bits - 1) ≤ p)))

theorem signedProduct_eq {n : Nat} (hn : 0 < n) (a b : BitVec n) : signedProduct a b =
    (BitVec.ofInt n (a.toInt * b.toInt),
      decide (a.toInt * b.toInt < -2 ^ (n - 1) ∨ 2 ^ (n - 1) ≤ a.toInt * b.toInt)) := by
  refine Prod.ext rfl ?_
  rw [Bool.eq_iff_iff, decide_eq_true_eq, ← toInt_ofInt_ne_iff hn]
  exact bne_iff_ne

theorem setProduct_run (r : Reg) (a b : Val w) (s : State) :
    (do setReg w r (signedProduct a b).1; setEffect (mulFlags (signedProduct a b).2) : M Unit) s =
      .ok () (s.withProduct w r (a.toInt * b.toInt)) := by
  rw [signedProduct_eq (bits_pos w)]
  rfl

theorem multiplyReg_ok (r : Reg) (read : readRM w rm s.entered = .ok b u) : multiplyReg w r rm s.entered =
    .ok () ((s.through u).withProduct w r ((s.regs.read w r).toInt * b.toInt)) := by
  obtain ⟨x, rfl⟩ := ((readRM_access _ _).ok read).exists_through
  exact (bind_ok (getReg_run w r _)).trans ((bind_ok read).trans (setProduct_run r _ b _))

theorem multiplyImm_ok (r : Reg) (v : Val w) (read : readRM w rm s.entered = .ok b u) : multiplyImm w r rm v s.entered =
    .ok () ((s.through u).withProduct w r (b.toInt * v.toInt)) := by
  obtain ⟨x, rfl⟩ := ((readRM_access _ _).ok read).exists_through
  exact (bind_ok read).trans (setProduct_run r b v _)

end

/-- Settles O4: the product of the extended operands is the exact one, and with two and three operands the exact product
is cut. -/
theorem multiplication : Obligations.Multiplication := by
  refine ⟨fun f s u b lock read => ⟨?_, ?_, ((readRM_reading _ _).ok read).keptSince⟩,
    fun r rm s u b lock read => ⟨?_, fun imm => ?_, fun imm => ?_, ((readRM_reading _ _).ok read).keptSince⟩⟩
  · obtain ⟨lo, hi, product, multiplied⟩ := multiply_ok read
    exact ⟨lo, hi, product, (exec_pair .mul f s).trans (run_unlocked lock multiplied)⟩
  · obtain ⟨lo, hi, product, multiplied⟩ := multiplySigned_ok read
    exact ⟨lo, hi, product, (exec_pair .imul f s).trans (run_unlocked lock multiplied)⟩
  · exact run_unlocked lock (multiplyReg_ok r read)
  · exact run_unlocked lock (multiplyImm_ok r _ read)
  · rw [← BitVec.toInt_signExtend_of_le (byte_le_bits s.opw)]
    exact run_unlocked lock (multiplyImm_ok r _ read)

/-! ## Division -/

section
variable {n : Nat}

theorem toNat_bne_zero_iff (d : BitVec n) : (d.toNat != 0) = true ↔ d ≠ 0 := by
  rw [bne_iff_ne, ne_eq, ne_eq, ← BitVec.toNat_inj]
  rfl

/-- An integer that is the value of some number of `n` bits is that of its low `n` bits. -/
theorem exists_toInt_eq_iff (x : Int) : (∃ q : BitVec n, q.toInt = x) ↔ (BitVec.ofInt n x).toInt = x :=
  ⟨fun ⟨q, h⟩ => by rw [← h, BitVec.ofInt_toInt], fun h => ⟨_, h⟩⟩

/-- The check of IDIV on its quotient: some number of `n` bits has its value. -/
theorem signed_bounds_iff (hn : 0 < n) (x : Int) :
    (decide (-(2 ^ (n - 1) : Int) ≤ x) && decide (x ≤ 2 ^ (n - 1) - 1)) = true ↔ ∃ q : BitVec n, q.toInt = x := by
  rw [Bool.and_eq_true, decide_eq_true_eq, decide_eq_true_eq, Int.le_sub_one_iff, exists_toInt_eq_iff,
    toInt_ofInt_eq_iff hn]

/-- A quotient that fits and its remainder, as numbers of `n` bits. -/
theorem unsigned_division {d : BitVec n} (nonzero : d ≠ 0) {x : Nat} (fits : x / d.toNat < 2 ^ n) :
    x = (BitVec.ofNat n (x / d.toNat)).toNat * d.toNat + (BitVec.ofNat n (x % d.toNat)).toNat ∧
      (BitVec.ofNat n (x % d.toNat)).toNat < d.toNat := by
  have pos : 0 < d.toNat := Nat.pos_of_ne_zero (bne_iff_ne.mp ((toNat_bne_zero_iff d).mpr nonzero))
  have smaller := Nat.mod_lt x pos
  rw [BitVec.toNat_ofNat, BitVec.toNat_ofNat, Nat.mod_eq_of_lt fits, Nat.mod_eq_of_lt (Nat.lt_trans smaller d.isLt),
    Nat.div_add_mod']
  exact ⟨rfl, smaller⟩

theorem natAbs_tmod_lt (x : Int) {d : Int} (nonzero : d ≠ 0) : (x.tmod d).natAbs < d.natAbs := by
  rw [Int.natAbs_tmod]
  exact Nat.mod_lt _ (Int.natAbs_pos.mpr nonzero)

/-- The remainder of a division cut toward zero is zero or has the dividend's sign. -/
theorem tmod_sign (x d : Int) : x.tmod d = 0 ∨ (x.tmod d < 0 ↔ x < 0) := by
  rcases Int.lt_or_le x 0 with neg | nonneg
  · have := Int.tmod_nonneg d (a := -x) (by omega)
    rw [Int.neg_tmod] at this
    omega
  · have := Int.tmod_nonneg d nonneg
    omega

/-- A quotient cut toward zero that fits and its remainder, as signed numbers of `n` bits. -/
theorem signed_division (hn : 0 < n) {d : BitVec n} (nonzero : d ≠ 0) {x : Int}
    (fits : ∃ q : BitVec n, q.toInt = x.tdiv d.toInt) :
    let q := BitVec.ofInt n (x.tdiv d.toInt)
    let r := BitVec.ofInt n (x.tmod d.toInt)
    x = q.toInt * d.toInt + r.toInt ∧ r.toInt.natAbs < d.toInt.natAbs ∧ (r.toInt = 0 ∨ (r.toInt < 0 ↔ x < 0)) := by
  intro q r
  have divisor : d.toInt ≠ 0 := fun h => nonzero (BitVec.toInt_inj.mp (h.trans BitVec.toInt_zero.symm))
  have smaller := natAbs_tmod_lt x divisor
  have quotient : q.toInt = x.tdiv d.toInt := (exists_toInt_eq_iff _).mp fits
  have remainder : r.toInt = x.tmod d.toInt := by
    have low := d.le_toInt
    have high := d.toInt_lt
    rw [toInt_ofInt_eq_iff hn]
    omega
  rw [quotient, remainder, Int.tdiv_mul_add_tmod]
  exact ⟨rfl, smaller, tmod_sign x d.toInt⟩

end

/-- The state with a quotient and a remainder in their registers, all status flags UNDEF. -/
def State.divided (s : State) (w : Width) (q r : Val w) : State :=
  ((s.withReg w .eax q).withReg w (highReg w) r).effect allUndef

/-- The double-width dividend. -/
def State.dividend (s : State) (w : Width) : BitVec (w.bits + w.bits) := s.regs.read w (highReg w) ++ s.regs.read w .eax

section
variable {s u : State} {w : Width} {rm : RM} {d : Val w}

/-- A quotient and a remainder written, where the divisor and the quotient pass their checks. -/
theorem setQuotient_checked {c e : Bool} (q r : Val w) (nonzero : c = true) (fits : e = true) (s : State) :
    (do require c de; require e de; setQuotient w q r : M Unit) s = .ok () (s.divided w q r) := by
  rw [nonzero, fits]
  rfl

/-- One of the checks fails. -/
theorem setQuotient_fails {c e : Bool} (q r : Val w) (fails : ¬ c = true ∨ ¬ e = true) (s : State) :
    (do require c de; require e de; setQuotient w q r : M Unit) s = .error (.exc de) s := by
  cases c with
  | false => rfl
  | true =>
    cases e with
    | false => rfl
    | true => exact absurd fails (by decide)

theorem divide_read (read : readRM w rm s.entered = .ok d u) : divide w rm s.entered = (do
    require (d.toNat != 0) de
    require (decide ((s.dividend w).toNat / d.toNat < 2 ^ w.bits)) de
    setQuotient w (BitVec.ofNat w.bits ((s.dividend w).toNat / d.toNat))
      (BitVec.ofNat w.bits ((s.dividend w).toNat % d.toNat)) : M Unit) (s.through u) := by
  obtain ⟨x, rfl⟩ := ((readRM_access _ _).ok read).exists_through
  exact bind_ok read

theorem divideSigned_read (read : readRM w rm s.entered = .ok d u) : divideSigned w rm s.entered = (do
    require (d.toNat != 0) de
    require (decide (-(2 ^ (w.bits - 1) : Int) ≤ (s.dividend w).toInt.tdiv d.toInt) &&
      decide ((s.dividend w).toInt.tdiv d.toInt ≤ 2 ^ (w.bits - 1) - 1)) de
    setQuotient w (BitVec.ofInt w.bits ((s.dividend w).toInt.tdiv d.toInt))
      (BitVec.ofInt w.bits ((s.dividend w).toInt.tmod d.toInt)) : M Unit) (s.through u) := by
  obtain ⟨x, rfl⟩ := ((readRM_access _ _).ok read).exists_through
  exact bind_ok read

theorem divide_ok (read : readRM w rm s.entered = .ok d u) (nonzero : d ≠ 0)
    (fits : (s.dividend w).toNat / d.toNat < 2 ^ w.bits) : divide w rm s.entered =
      .ok () ((s.through u).divided w (BitVec.ofNat w.bits ((s.dividend w).toNat / d.toNat))
        (BitVec.ofNat w.bits ((s.dividend w).toNat % d.toNat))) :=
  (divide_read read).trans (setQuotient_checked _ _ ((toNat_bne_zero_iff d).mpr nonzero) (decide_eq_true fits) _)

theorem divideSigned_ok (read : readRM w rm s.entered = .ok d u) (nonzero : d ≠ 0)
    (fits : ∃ q : Val w, q.toInt = (s.dividend w).toInt.tdiv d.toInt) : divideSigned w rm s.entered =
      .ok () ((s.through u).divided w (BitVec.ofInt w.bits ((s.dividend w).toInt.tdiv d.toInt))
        (BitVec.ofInt w.bits ((s.dividend w).toInt.tmod d.toInt))) :=
  (divideSigned_read read).trans (setQuotient_checked _ _ ((toNat_bne_zero_iff d).mpr nonzero)
    ((signed_bounds_iff (bits_pos w) _).mpr fits) _)

theorem divide_fails (read : readRM w rm s.entered = .ok d u)
    (fails : d = 0 ∨ 2 ^ w.bits ≤ (s.dividend w).toNat / d.toNat) :
    divide w rm s.entered = .error (.exc de) (s.through u) := by
  refine (divide_read read).trans (setQuotient_fails _ _ (fails.imp ?_ ?_) _)
  · rw [toNat_bne_zero_iff, Decidable.not_not]
    exact id
  · rw [decide_eq_true_eq, Nat.not_lt]
    exact id

theorem divideSigned_fails (read : readRM w rm s.entered = .ok d u)
    (fails : d = 0 ∨ ¬ ∃ q : Val w, q.toInt = (s.dividend w).toInt.tdiv d.toInt) :
    divideSigned w rm s.entered = .error (.exc de) (s.through u) := by
  refine (divideSigned_read read).trans (setQuotient_fails _ _ (fails.imp ?_ ?_) _)
  · rw [toNat_bne_zero_iff, Decidable.not_not]
    exact id
  · rw [signed_bounds_iff (bits_pos w)]
    exact id

end

/-- Settles O5: the checks of the divisor and of the quotient pass exactly where a number holds the exact quotient; else
they raise #DE. -/
theorem division : Obligations.Division := by
  constructor
  · intro f s u d lock read n done
    refine ⟨fun nonzero fits => ?_, fun nonzero fits => ?_, ((readRM_reading _ _).ok read).keptSince⟩
    · obtain ⟨quotient, smaller⟩ := unsigned_division nonzero fits
      exact ⟨_, _, quotient, smaller, (exec_pair .div f s).trans (run_unlocked lock (divide_ok read nonzero fits))⟩
    · obtain ⟨quotient, smaller, sign⟩ := signed_division (bits_pos _) nonzero fits
      exact ⟨_, _, quotient, smaller, sign,
        (exec_pair .idiv f s).trans (run_unlocked lock (divideSigned_ok read nonzero fits))⟩
  · intro f s u d lock read n
    have unlocked : s.cur.lock = true → false = true := fun h => lock.symm.trans h
    exact ⟨fun fails => (exec_pair .div f s).trans (run_exc unlocked (divide_fails read fails)),
      fun fails => (exec_pair .idiv f s).trans (run_exc unlocked (divideSigned_fails read fails))⟩

end Sys2Proof.Machine

/-! # Decimal adjustment (42_decimal_arithmetic.md R461 to R466) -/

namespace Sys2Proof.Machine

/-! ## AL and AH -/

theorem Regs.eq_of_get {g h : Regs} (same : ∀ q, g.get q = h.get q) : g = h :=
  Regs.mk.injEq .. ▸ ⟨same .eax, same .ecx, same .edx, same .ebx, same .esp, same .ebp, same .esi, same .edi⟩

/-- Writing back what was read changes nothing. -/
theorem Regs.write_read_self (g : Regs) (w : Width) (r : Reg) : g.write w r (g.read w r) = g := by
  refine Regs.eq_of_get fun q => ?_
  by_cases part : q = partReg w r
  · subst part
    refine BitVec.eq_of_getLsbD_eq fun i _ => ?_
    rw [Regs.write_bit]
    split
    · rw [Regs.read_bit _ _ (by omega), Nat.add_sub_of_le (by omega)]
    · rfl
  · exact Regs.get_write_other g part _

theorem setLow8_setHigh8_comm (a : Word32) (x y : Byte) : setLow8 (setHigh8 a y) x = setHigh8 (setLow8 a x) y := by
  refine BitVec.eq_of_getLsbD_eq fun i _ => ?_
  rw [setLow8_bit, setHigh8_bit, setHigh8_bit, setLow8_bit]
  split
  · rw [if_neg (by omega)]
  · rfl

theorem Regs.write_ah_al_comm (g : Regs) (x y : Byte) :
    (g.write .b8 .esp y).write .b8 .eax x = (g.write .b8 .eax x).write .b8 .esp y :=
  congrArg (g.set .eax) (setLow8_setHigh8_comm g.eax x y)

theorem State.withReg_ah_al_comm (s : State) (x y : Byte) :
    (s.withReg .b8 .esp y).withReg .b8 .eax x = (s.withReg .b8 .eax x).withReg .b8 .esp y :=
  congrArg (fun g => { s with regs := g }) (s.regs.write_ah_al_comm x y)

/-- AL alone written: AH written back as it was. -/
theorem State.withReg_al_eq (s : State) (x : Byte) :
    s.withReg .b8 .eax x = (s.withReg .b8 .eax x).withReg .b8 .esp (s.regs.read .b8 .esp) := by
  rw [← State.withReg_ah_al_comm]
  exact congrArg (fun g => { s with regs := g.write .b8 .eax x }) (s.regs.write_read_self .b8 .esp).symm

/-! ## The instructions -/

/-- The state with AL and AH written and an effect on the flags. -/
def State.adjusted (s : State) (al ah : Byte) (e : FlagEffect) : State :=
  ((s.withReg .b8 .eax al).withReg .b8 .esp ah).effect e

/-- A value adjusted where a condition holds, by an amount that is 0 where it does not. -/
theorem ite_add_eq {n : Nat} (c : Prop) [Decidable c] (a k : BitVec n) :
    (if c then a + k else a) = a + if c then k else 0 := by
  split
  · rfl
  · exact (BitVec.add_zero a).symm

theorem ite_sub_eq {n : Nat} (c : Prop) [Decidable c] (a k : BitVec n) :
    (if c then a - k else a) = a - if c then k else 0 := by
  split
  · rfl
  · exact (BitVec.sub_zero a).symm

theorem daaResult_eq (al : Byte) (cf af : Bool) : daaResult al cf af =
    al + (if nibbleAdjust al af then 6 else 0) + (if highAdjust al cf then 0x60 else 0) := by
  rw [← ite_add_eq, ← ite_add_eq]
  rfl

theorem dasResult_eq (al : Byte) (cf af : Bool) : dasResult al cf af =
    al - (if nibbleAdjust al af then 6 else 0) - (if highAdjust al cf then 0x60 else 0) := by
  rw [← ite_sub_eq, ← ite_sub_eq]
  rfl

section
variable (s : State)

theorem adjustPacked_run (result : Byte → Bool → Bool → Byte) :
    let al : Byte := s.regs.read .b8 .eax
    let r := result al s.flags.cf s.flags.af
    adjustPacked result s =
      .ok () (s.adjusted r (s.regs.read .b8 .esp) (packedFlags r al s.flags.cf s.flags.af)) := by
  intro al r
  rw [State.adjusted, ← State.withReg_al_eq]
  rfl

theorem adjustAsciiAdd_run :
    let al : Byte := s.regs.read .b8 .eax
    let low := nibbleAdjust al s.flags.af
    adjustAsciiAdd s = .ok () (s.adjusted ((al + if low then 6 else 0) &&& 0x0F)
      (s.regs.read .b8 .esp + if low then 1 else 0) (unpackedFlags low)) := by
  intro al low
  rw [← ite_add_eq, ← ite_add_eq]
  rfl

theorem adjustAsciiSub_run :
    let al : Byte := s.regs.read .b8 .eax
    let low := nibbleAdjust al s.flags.af
    adjustAsciiSub s = .ok () (s.adjusted ((al - if low then 6 else 0) &&& 0x0F)
      (s.regs.read .b8 .esp - if low then 1 else 0) (unpackedFlags low)) := by
  intro al low
  rw [← ite_sub_eq, ← ite_sub_eq]
  rfl

theorem adjustAfterMul_run {imm : Byte} (nonzero : imm ≠ 0) :
    let al : Byte := s.regs.read .b8 .eax
    adjustAfterMul imm s = .ok () (s.adjusted (al % imm) (al / imm) (aamFlags (al % imm))) := by
  intro al
  rw [State.adjusted, ← State.withReg_ah_al_comm]
  exact bind_ok (require_eq_ok.mpr ⟨bne_iff_ne.mpr nonzero, rfl⟩)

theorem adjustAfterMul_zero : adjustAfterMul 0 s = .error (.exc de) s := rfl

theorem adjustBeforeDiv_run (imm : Byte) :
    let r : Byte := s.regs.read .b8 .esp * imm + s.regs.read .b8 .eax
    adjustBeforeDiv imm s = .ok () (s.adjusted r 0 (aamFlags r)) := rfl

end

/-! ## Packed decimal sums -/

/-- The packed decimal byte of the two low digits of a number: one digit in each nibble. -/
def packedDecimal (k : Nat) : Byte := BitVec.ofNat 8 (k / 10 % 10 * 16 + k % 10)

theorem packedDecimal_toNat (k : Nat) : (packedDecimal k).toNat = k / 10 % 10 * 16 + k % 10 :=
  Nat.mod_eq_of_lt (by omega)

theorem daaResult_toNat (al : Byte) (cf af : Bool) : (daaResult al cf af).toNat =
    (al.toNat + ((if nibbleAdjust al af then 6 else 0) + (if highAdjust al cf then 0x60 else 0))) % 2 ^ 8 := by
  rw [daaResult_eq, BitVec.toNat_add, BitVec.toNat_add, Nat.mod_add_mod, Nat.add_assoc, apply_ite BitVec.toNat,
    apply_ite BitVec.toNat]
  rfl

section
variable {tens units : Nat}

/-- Counting each ten of a sum as sixteen: the value is above 99H exactly if the sum makes a hundred. -/
theorem above_99H_iff (small : units ≤ 19) : 0x99 < 16 * tens + units ↔ 100 ≤ 10 * tens + units := by omega

/-- The two corrections of DAA: 6 carries ten units into the tens, 60H a hundred out of the byte. -/
theorem packed_corrections (bounded : tens ≤ 18) (small : units ≤ 19) :
    (16 * tens + units + ((if 10 ≤ units then 6 else 0) + (if 100 ≤ 10 * tens + units then 0x60 else 0))) % 2 ^ 8 =
      (10 * tens + units) / 10 % 10 * 16 + (10 * tens + units) % 10 := by
  by_cases carries : 10 ≤ units
  · have high : (10 * tens + units) / 10 = tens + 1 := by omega
    have low : (10 * tens + units) % 10 = units - 10 := by omega
    rw [if_pos carries, high, low]
    split <;> omega
  · have high : (10 * tens + units) / 10 = tens := by omega
    have low : (10 * tens + units) % 10 = units := by omega
    rw [if_neg carries, high, low]
    split <;> omega

end

/-- The sum by its tens and units. -/
theorem sum_eq_digits (x y : Nat) (c : Bool) :
    x + y + carryNat c = 10 * (x / 10 + y / 10) + (x % 10 + y % 10 + carryNat c) := by omega

theorem units_le (x y : Nat) (c : Bool) : x % 10 + y % 10 + carryNat c ≤ 19 := by
  have carry := carryNat_le c
  omega

section
variable {x y : Nat} (hx : x < 100) (hy : y < 100) (c : Bool)

/-- After the sum DAA adjusts the low nibble exactly if the low digits and the carry make ten. -/
theorem nibbleAdjust_packedSum {af : Bool} (aux : (addFlags (packedDecimal x) (packedDecimal y) c).af = .set af) :
    nibbleAdjust (addResult (packedDecimal x) (packedDecimal y) c) af =
      decide (10 ≤ x % 10 + y % 10 + carryNat c) := by
  obtain rfl := FlagVal.set.inj aux
  have carry := carryNat_le c
  rw [nibbleAdjust, addResult_toNat, packedDecimal_toNat, packedDecimal_toNat, ← Bool.decide_or, decide_eq_decide]
  omega

include hx hy

/-- The exact sum of two packed decimal bytes: each ten counts sixteen. -/
theorem packedSum_eq_digits : (packedDecimal x).toNat + (packedDecimal y).toNat + carryNat c =
    16 * (x / 10 + y / 10) + (x % 10 + y % 10 + carryNat c) := by
  rw [packedDecimal_toNat, packedDecimal_toNat]
  omega

/-- After the sum DAA adjusts the high nibble exactly if the sum makes a hundred. -/
theorem highAdjust_packedSum {cf : Bool} (carried : (addFlags (packedDecimal x) (packedDecimal y) c).cf = .set cf) :
    highAdjust (addResult (packedDecimal x) (packedDecimal y) c) cf = decide (100 ≤ x + y + carryNat c) := by
  obtain rfl := FlagVal.set.inj carried
  rw [highAdjust, addResult_toNat, packedSum_eq_digits hx hy, ← Bool.decide_or, decide_eq_decide, sum_eq_digits x y,
    ← above_99H_iff (units_le x y c)]
  omega

theorem daaResult_packedSum {cf af : Bool} (carried : (addFlags (packedDecimal x) (packedDecimal y) c).cf = .set cf)
    (aux : (addFlags (packedDecimal x) (packedDecimal y) c).af = .set af) :
    daaResult (addResult (packedDecimal x) (packedDecimal y) c) cf af = packedDecimal (x + y + carryNat c) := by
  rw [← BitVec.toNat_inj, daaResult_toNat, nibbleAdjust_packedSum c aux, highAdjust_packedSum hx hy c carried,
    addResult_toNat, packedSum_eq_digits hx hy, Nat.mod_add_mod, packedDecimal_toNat, sum_eq_digits x y]
  simp only [decide_eq_true_eq]
  exact packed_corrections (by omega) (units_le x y c)

end

/-- Settles O6: each adjustment writes AL and AH and its flags from the AL, AH, CF and AF it began with; after a packed
decimal sum the two adjustments of DAA are those its digits call for. -/
theorem decimalAdjustments : Obligations.DecimalAdjustments := by
  constructor
  · intro s lock al ah low high done packed unpacked scaled
    have unlocked : s.cur.lock = true → false = true := fun h => lock.symm.trans h
    refine ⟨fun r value => ?_, fun r value => ?_, run_unlocked lock (adjustAsciiAdd_run _),
      run_unlocked lock (adjustAsciiSub_run _), fun imm nonzero => run_unlocked lock (adjustAfterMul_run _ nonzero),
      run_exc unlocked (adjustAfterMul_zero _), fun imm => run_unlocked lock (adjustBeforeDiv_run _ imm)⟩
    · obtain rfl := value.trans (daaResult_eq al s.flags.cf s.flags.af).symm
      exact run_unlocked lock (adjustPacked_run _ daaResult)
    · obtain rfl := value.trans (dasResult_eq al s.flags.cf s.flags.af).symm
      exact run_unlocked lock (adjustPacked_run _ dasResult)
  · intro x y c bcd al e cf af carried aux
    exact ⟨daaResult_packedSum x.isLt y.isLt c carried aux, highAdjust_packedSum x.isLt y.isLt c carried⟩

end Sys2Proof.Machine

/-! # TEST, the conditions and SETcc (43_logical.md R492, R505, R506) -/

namespace Sys2Proof.Machine

section
variable {s u : State}

theorem testWith_ok {w : Width} {rm : RM} {src : M (Val w)} {a b : Val w} (read : readRM w rm s = .ok a u)
    (source : src u = .ok b u) : testWith w rm src s = .ok () (u.effect (logicFlags (a &&& b))) :=
  (bind_ok read).trans (bind_ok source)

/-- TEST of each form sets the flags of AND of its two operands. -/
theorem exec_test_ok (lock : s.cur.lock = false) {f : TestForm} {a : Val (f.width s)}
    (read : readRM (f.width s) f.first s.entered = .ok a u) :
    exec f.instr s = .next ((s.through u).effect (logicFlags (a &&& f.second s (f.width s)))) := by
  obtain ⟨x, rfl⟩ := ((readRM_access _ _).ok read).exists_through
  cases f with
  | ebGb | evGv | eaxIv | evIv => exact run_unlocked lock (testWith_ok read rfl)
  | alIb imm =>
    rw [show TestForm.second s (TestForm.width s (.alIb imm)) (.alIb imm) = imm from BitVec.setWidth_eq imm]
    exact run_unlocked lock (testWith_ok read rfl)
  | ebIb rm imm =>
    rw [show TestForm.second s (TestForm.width s (.ebIb rm imm)) (.ebIb rm imm) = imm from BitVec.setWidth_eq imm]
    exact run_unlocked lock (testWith_ok read rfl)

theorem exec_set (c : Cond) (rm : RM) (s : State) : exec (c.set rm) s = run false (setOn c rm) s := by
  cases c <;> rfl

theorem setOn_ok {c : Cond} {rm : RM} {l : Loc} (found : locate .b8 rm true true s = .ok l u) :
    setOn c rm s = .ok () (u.stored .b8 l (if c.holds s.flags then 1 else 0)) :=
  (bind_ok (get_run s)).trans (writeRM_ok found _)

end

/-- Settles O7: TEST is its operands read and the flags of AND set; a condition and its negation have opposite values;
SETcc stores from the state in which its operand has been found. -/
theorem testAndSet : Obligations.TestAndSet := by
  refine ⟨fun f s u a lock read => ⟨exec_test_ok lock read, ((readRM_reading _ _).ok read).keptSince⟩,
    fun f => ?_, ?_⟩
  · exact ⟨Iff.rfl, Iff.rfl, Iff.rfl, Bool.or_eq_true_iff, Iff.rfl, Iff.rfl, bne_iff_ne,
      Bool.or_eq_true_iff.trans (or_congr_right bne_iff_ne), rfl, rfl, rfl, (Bool.not_or _ _).symm, rfl, rfl,
      (Bool.not_not _).symm, by rw [Cond.holds, Cond.holds, Bool.not_or, bne, Bool.not_not]⟩
  · intro c rm s u l wf lock found t
    have readUp := (locate_reading _ _ _ _).ok found
    obtain ⟨x, rfl⟩ := readUp.1.exists_through
    exact ⟨(exec_set c rm s).trans (run_unlocked lock (setOn_ok found)), readUp.stored_kept wf _⟩

end Sys2Proof.Machine

/-! # Bit tests and bit scans (43_logical.md R475 to R481) -/

namespace Sys2Proof.Machine

/-! ## The bit of a unit -/

/-- What a bit test makes of the bit it selects (R475 to R478). -/
def BitOp.bit (op : BitOp) (b : Bool) : Bool :=
  match op with
  | .bt => b
  | .bts => true
  | .btr => false
  | .btc => !b

section
variable {n : Nat} {a v : BitVec n} {i k : Nat}

theorem BitOp.result_bit (op : BitOp) (a : BitVec n) (k : Nat) (hi : i < n) :
    (op.result a k).getLsbD i = if i = k then op.bit (a.getLsbD i) else a.getLsbD i := by
  by_cases selected : i = k
  · subst selected
    rw [if_pos rfl]
    cases op <;> simp [BitOp.result, BitOp.bit, hi]
  · rw [if_neg selected]
    cases op <;> simp [BitOp.result, hi, selected]

/-- The unit after the operation is the only one with these bits. -/
theorem BitOp.eq_result {op : BitOp}
    (bits : ∀ i < n, v.getLsbD i = if i = k then op.bit (a.getLsbD i) else a.getLsbD i) : v = op.result a k :=
  BitVec.eq_of_getLsbD_eq fun i hi => (bits i hi).trans (op.result_bit a k hi).symm

/-! ## The bit a scan finds -/

/-- Downwards the first index with a property is the one above which no other has it. -/
theorem find?_reverse_range_eq_some {p : Nat → Bool} (found : p i = true) (above : ∀ j, i < j → p j = false) :
    ∀ {n : Nat}, i < n → (List.range n).reverse.find? p = some i
  | n + 1, inside => by
    rw [List.range_succ, List.reverse_concat]
    rcases Nat.lt_or_eq_of_le (Nat.le_of_lt_succ inside) with below | rfl
    · rw [List.find?_cons_of_neg (Bool.eq_false_iff.mp (above n below))]
      exact find?_reverse_range_eq_some found above below
    · exact List.find?_cons_of_pos found

variable (isSet : a.getLsbD i = true)
include isSet

theorem scanBit_forward (below : ∀ j < i, a.getLsbD j = false) : scanBit true a = some i :=
  List.find?_range_eq_some.mpr
    ⟨isSet, List.mem_range.mpr (BitVec.lt_of_getLsbD isSet), fun j hj => congrArg (!·) (below j hj)⟩

theorem scanBit_backward (above : ∀ j, i < j → a.getLsbD j = false) : scanBit false a = some i :=
  find?_reverse_range_eq_some isSet above (BitVec.lt_of_getLsbD isSet)

end

theorem scanBit_zero {n : Nat} (forward : Bool) : scanBit forward (0 : BitVec n) = none :=
  List.find?_eq_none.mpr fun _ _ => by
    rw [BitVec.ofNat_eq_ofNat, BitVec.getLsbD_zero]
    exact Bool.false_ne_true

/-! ## Bit tests -/

section
variable {s t u : State} {w : Width} {l : Loc} {a : Val w} {op : BitOp}

/-- The state after a bit test on a unit that held `a` and becomes `v`; `u` is the state in which it was read. -/
def State.bitTested (s u : State) (op : BitOp) (w : Width) (l : Loc) (a v : Val w) (k : Nat) : State :=
  let tested := (s.through u).effect (bitFlags (a.getLsbD k))
  if op.writes then tested.writtenBack s.cur.lock w l v else tested

/-- A bit test on a place goes on from the state in which that was found, with the LOCK that the instruction began
with. -/
theorem bitTestAt_ok {k : Nat} (allowed : s.cur.lock = true → op.writes = true) (begun : Access s.entered t)
    (read : readLoc w l (t.lockedIf s.cur.lock) = .ok a u) :
    bitTestAt op w l k t = .ok () (s.bitTested u op w l a (op.result a k) k) := by
  have reached := begun.through_lockedIf ((readLoc_access _ _).ok read)
  obtain ⟨x, rfl⟩ := begun.exists_through
  refine (bind_ok (get_run _)).trans ?_
  rw [State.bitTested]
  by_cases writes : op.writes = true
  · rw [if_pos writes, writtenBack_effect_eq reached]
    exact lockedIf_update read (setEffect_run _ _) rfl (by rw [if_pos writes])
  · have unlocked : s.cur.lock = false := Bool.eq_false_iff.mpr fun h => writes (allowed h)
    rw [unlocked] at read
    have same : u = s.through u := (Access.order.trans begun ((readLoc_access _ _).ok read)).1
    rw [if_neg writes, show (s.through x).cur.lock = false from unlocked, lockedIf_false, ← same]
    refine (bind_ok read).trans ((bind_ok (setEffect_run _ _)).trans ?_)
    rw [if_neg writes]
    rfl

theorem exec_bitTestImm (op : BitOp) (rm : RM) (imm : Byte) (s : State) : exec (op.byImm rm imm) s =
    run (op.writes && isMem rm) (bitTestImm op s.opw rm imm) s := by
  cases op <;> rfl

theorem exec_bitTestReg (op : BitOp) (rm : RM) (r : Reg) (s : State) : exec (op.byReg rm r) s =
    run (op.writes && isMem rm) (bitTestReg op s.opw rm r) s := by
  cases op <;> rfl

theorem bitTestImm_found {rm : RM} {imm : Byte} (found : locate w rm op.writes true s = .ok l t) :
    bitTestImm op w rm imm s = bitTestAt op w l (imm.toNat % w.bits) t := bind_ok found

theorem bitTestReg_reg (d r : Reg) :
    bitTestReg op w (.reg d) r s = bitTestAt op w (.reg d) ((s.regs.read w r).toNat % w.bits) s := rfl

theorem bitTestReg_mem {m : Mem} {r : Reg} (found : memLoc w (s.segOr (defaultSeg m))
      (bitUnit s.cur.addrSize w (effAddr s.regs m) (s.regs.read w r).toInt) op.writes true s = .ok l t) :
    bitTestReg op w (.mem m) r s = bitTestAt op w l ((s.regs.read w r).toInt % (w.bits : Int)).toNat t :=
  (bind_ok (getReg_run w r s)).trans ((bind_ok (get_run s)).trans (bind_ok found))

/-- A bit test changes no byte of memory but those of a unit it writes. -/
theorem State.bitTested_kept (wf : u.mem.wf = true) (v : Val w) (k : Nat) :
    MemoryKept u (s.bitTested u op w l a v k) (if op.writes then l else .nowhere) := by
  rw [State.bitTested]
  cases op.writes with
  | true => exact writtenBack_kept (s := (s.through u).effect _) wf _ _ l v
  | false => exact fun _ _ _ => rfl

/-- With paging off, reading a place under LOCK# changes no byte of memory. -/
theorem MemoryKept.of_readLoc {c : Bool} (read : Reading (s.lockedIf c) u) (wf : s.mem.wf = true)
    (pg : s.cr0.pg = false) : MemoryKept s u .nowhere := by
  obtain ⟨wfLocked, kept, fewer⟩ := s.lockedIf_kept c wf
  exact kept.after fewer (read.kept (by rw [State.lockedIf_cr0, pg]) wfLocked)

/-! ## Bit scans -/

variable {rm : RM} {r : Reg} {forward : Bool} (read : readRM w rm s.entered = .ok a u)
include read

theorem bitScan_some {i : Nat} (found : scanBit forward a = some i) : bitScan forward w r rm s.entered =
    .ok () (((s.through u).effect (scanFlags false)).withReg w r (BitVec.ofNat w.bits i)) := by
  obtain ⟨x, rfl⟩ := ((readRM_access _ _).ok read).exists_through
  refine (bind_ok read).trans ?_
  rw [found]
  rfl

theorem bitScan_none (empty : scanBit forward a = none) :
    let zero := (s.through u).effect (scanFlags true)
    bitScan forward w r rm s.entered = .ok ()
      ({ zero with free := zero.free + 1 }.withReg w r ((Config.freeValue zero.free).setWidth w.bits)) := by
  obtain ⟨x, rfl⟩ := ((readRM_access _ _).ok read).exists_through
  refine (bind_ok read).trans ?_
  rw [empty]
  rfl

end

/-- Settles O8: every form of a bit test is `bitTestAt` on the unit it finds, and the unit's bits determine what is
written; a scan finds the first index set in its direction. -/
theorem bitInstructions : Obligations.BitInstructions := by
  constructor
  · intro op rm s s1 s2 l a v k wf lock read bits tested t
    obtain rfl : v = op.result a k := BitOp.eq_result fun i hi => (bits i hi).trans (by cases op <;> rfl)
    have lockable : s.cur.lock = true → (op.writes && isMem rm) = true := fun h => Bool.and_eq_true_iff.mpr (lock h)
    have outcome : Access s.entered s1 → bitTestAt op s.opw l k s1 = .ok () t := fun begun =>
      bitTestAt_ok (fun h => (lock h).1) begun read
    have readUp := (readLoc_reading _ _).ok read
    refine ⟨fun imm offset found => ?_, fun r d register place start offset => ?_, fun r m memory offset found => ?_,
      State.bitTested_kept (readUp.wf (s1.lockedIf_kept _ wf).1) _ k, MemoryKept.of_readLoc readUp wf⟩
    · subst offset
      exact (exec_bitTestImm op rm imm s).trans
        (run_ok lockable ((bitTestImm_found found).trans (outcome ((locate_access _ _ _ _).ok found))))
    · subst register place start offset
      exact (exec_bitTestReg op _ r s).trans
        (run_ok lockable ((bitTestReg_reg d r).trans (outcome (Access.order.refl _))))
    · subst memory offset
      exact (exec_bitTestReg op _ r s).trans
        (run_ok lockable ((bitTestReg_mem found).trans (outcome ((memLoc_access _ _ _ _ _).ok found))))
  · intro r rm s u a lock read
    refine ⟨fun i isSet below => ?_, fun i isSet above => ?_, ?_, ((readRM_reading _ _).ok read).keptSince⟩
    · exact run_unlocked lock (bitScan_some read (scanBit_forward isSet below))
    · exact run_unlocked lock (bitScan_some read (scanBit_backward isSet above))
    · rintro rfl zero t
      exact ⟨run_unlocked lock (bitScan_none read (scanBit_zero true)),
        run_unlocked lock (bitScan_none read (scanBit_zero false))⟩

end Sys2Proof.Machine

/-! # Shifts and rotates: what they compute (43_logical.md R482 to R491) -/

namespace Sys2Proof.Machine

/-! ## Bits moved around -/

section
variable {n : Nat}

theorem rotateLeft_bit (x : BitVec n) (k : Nat) {i : Nat} (hi : i < n) :
    (x.rotateLeft k).getLsbD ((i + k) % n) = x.getLsbD i := by
  have hr : k % n < n := Nat.mod_lt k (Nat.zero_lt_of_lt hi)
  rw [BitVec.getLsbD_rotateLeft, ← Nat.add_mod_mod, decide_eq_true (Nat.mod_lt _ (Nat.zero_lt_of_lt hi)), Bool.true_and]
  generalize k % n = r at hr ⊢
  by_cases wraps : i + r < n
  · rw [Nat.mod_eq_of_lt wraps, decide_eq_false (by omega), cond_false, Nat.add_sub_cancel]
  · rw [Nat.mod_eq_sub_mod (by omega), Nat.mod_eq_of_lt (by omega), decide_eq_true (by omega), cond_true]
    congr 1
    omega

theorem rotateRight_bit (x : BitVec n) (k : Nat) {i : Nat} (hi : i < n) :
    (x.rotateRight k).getLsbD i = x.getLsbD ((i + k) % n) := by
  have hr : k % n < n := Nat.mod_lt k (Nat.zero_lt_of_lt hi)
  rw [BitVec.getLsbD_rotateRight, ← Nat.add_mod_mod i k n, decide_eq_true hi, Bool.true_and]
  generalize k % n = r at hr ⊢
  by_cases wraps : i + r < n
  · rw [Nat.mod_eq_of_lt wraps, decide_eq_true (by omega), cond_true, Nat.add_comm]
  · rw [Nat.mod_eq_sub_mod (by omega), Nat.mod_eq_of_lt (by omega), decide_eq_false (by omega), cond_false]
    congr 1
    omega

variable (a : BitVec n) (c : Bool) (k : Nat) {i j : Nat}

theorem withCarry_bit (hi : i < n) : (withCarry c a).getLsbD i = a.getLsbD i := by
  rw [withCarry, BitVec.getLsbD_append, if_pos hi]

/-- CF stands above the operand (R490, R491). -/
theorem withCarry_top : (withCarry c a).getLsbD n = c := by
  rw [withCarry, BitVec.getLsbD_append, if_neg (Nat.lt_irrefl n), Nat.sub_self, BitVec.getLsbD_ofBool, decide_eq_true rfl,
    Bool.true_and]

theorem rotl_withCarry_bit (hi : i < n + 1) :
    (rotl (withCarry c a) (k % (n + 1))).getLsbD ((i + k) % (n + 1)) = (withCarry c a).getLsbD i := by
  rw [Nat.add_comm n 1] at hi ⊢
  exact rotateLeft_bit _ k hi

theorem rotr_withCarry_bit (hi : i < n + 1) :
    (rotr (withCarry c a) (k % (n + 1))).getLsbD i = (withCarry c a).getLsbD ((i + k) % (n + 1)) := by
  rw [Nat.add_comm n 1] at hi ⊢
  exact rotateRight_bit _ k hi

/-! ## The results -/

theorem shl_toNat : (ShiftOp.shl.result a c k).toNat = a.toNat * 2 ^ k % 2 ^ n := by
  rw [← Nat.shiftLeft_eq]
  exact BitVec.toNat_shiftLeft

theorem shr_toNat : (ShiftOp.shr.result a c k).toNat = a.toNat / 2 ^ k := by
  rw [← Nat.shiftRight_eq_div_pow]
  exact BitVec.toNat_ushiftRight a k

theorem sshiftRight_toInt : (a.sshiftRight k).toInt = a.toInt / 2 ^ k := by
  rw [BitVec.toInt_sshiftRight, Int.shiftRight_eq_div_pow, Int.natCast_pow]
  rfl

theorem rol_bit (hi : i < n) : (ShiftOp.rol.result a c k).getLsbD ((i + k) % n) = a.getLsbD i := rotateLeft_bit a k hi

theorem ror_bit (hi : i < n) : (ShiftOp.ror.result a c k).getLsbD i = a.getLsbD ((i + k) % n) := rotateRight_bit a k hi

theorem rcl_bit (hi : i < n + 1) (hj : j < n) (moved : (i + k) % (n + 1) = j) :
    (ShiftOp.rcl.result a c k).getLsbD j = (withCarry c a).getLsbD i := by
  rw [ShiftOp.result, BitVec.getLsbD_setWidth, decide_eq_true hj, Bool.true_and, ← moved, rotl_withCarry_bit a c k hi]

theorem rcr_bit (hi : i < n) (moved : (i + k) % (n + 1) = j) :
    (ShiftOp.rcr.result a c k).getLsbD i = (withCarry c a).getLsbD j := by
  rw [ShiftOp.result, BitVec.getLsbD_setWidth, decide_eq_true hi, Bool.true_and, ← moved,
    rotr_withCarry_bit a c k (Nat.lt_succ_of_lt hi)]

/-! ## The last bit out -/

/-- A flag that says whether a number is odd. -/
def oddFlag (x : Int) : FlagVal := .set (decide (x % 2 = 1))

/-- A bit by the number that a shift right leaves. -/
theorem set_bit_eq_oddFlag : .set (a.getLsbD i) = oddFlag (a.toNat / 2 ^ i : Nat) := by
  rw [← BitVec.testBit_toNat, Nat.testBit_eq_decide_div_mod_eq]
  refine congrArg FlagVal.set (decide_eq_decide.mpr ?_)
  omega

theorem oddFlag_toInt (hn : 0 < n) : oddFlag a.toInt = .set (a.getLsbD 0) := by
  rw [set_bit_eq_oddFlag, pow_zero, Nat.div_one]
  obtain ⟨h, -, half⟩ := msb_toInt_half hn
  obtain ⟨-, -, value⟩ := half a
  refine congrArg FlagVal.set (decide_eq_decide.mpr ?_)
  rw [value]
  split <;> omega

/-- The last bit that a signed shift right moves out: past the width it is the sign. -/
theorem sar_cf (hn : 0 < n) (hk : 1 ≤ k) : (ShiftOp.sar.flags a c k).cf = oddFlag (a.toInt / 2 ^ (k - 1)) := by
  rw [← sshiftRight_toInt, oddFlag_toInt _ hn, BitVec.getLsbD_sshiftRight, decide_eq_false (Nat.not_le.mpr hn)]
  refine congrArg FlagVal.set (if_congr ?_ rfl rfl)
  omega

theorem shl_cf : (ShiftOp.shl.flags a c k).cf = if k ≤ n then oddFlag (a.toNat / 2 ^ (n - k) : Nat) else .undef := by
  rw [← set_bit_eq_oddFlag]
  rfl

theorem shr_cf : (ShiftOp.shr.flags a c k).cf = if k ≤ n then oddFlag (a.toNat / 2 ^ (k - 1) : Nat) else .undef := by
  rw [← set_bit_eq_oddFlag]
  rfl

theorem rol_cf : (ShiftOp.rol.flags a c k).cf = .set ((ShiftOp.rol.result a c k).getLsbD 0) := rfl

theorem ror_cf : (ShiftOp.ror.flags a c k).cf = .set ((ShiftOp.ror.result a c k).getLsbD (n - 1)) :=
  congrArg FlagVal.set (BitVec.msb_eq_getLsbD_last _)

/-- After RCL CF is the bit moved to its place. -/
theorem rcl_cf (hi : i < n + 1) (moved : (i + k) % (n + 1) = n) :
    (ShiftOp.rcl.flags a c k).cf = .set ((withCarry c a).getLsbD i) := by
  rw [← rotl_withCarry_bit a c k hi, moved]
  rfl

/-- After RCR CF is the bit moved to its place. -/
theorem rcr_cf (moved : (n + k) % (n + 1) = i) : (ShiftOp.rcr.flags a c k).cf = .set ((withCarry c a).getLsbD i) := by
  rw [← moved, ← rotr_withCarry_bit a c k (Nat.lt_succ_self n)]
  rfl

theorem add_mod_succ_of_multiple (whole : k % (n + 1) = 0) : (n + k) % (n + 1) = n := by
  rw [← Nat.add_mod_mod, whole]
  exact Nat.mod_eq_of_lt (Nat.lt_succ_self n)

/-! ## The change of the sign -/

/-- OF after a shift or rotate: for a count of 1 whether the sign changed (R482). -/
def signFlag (k : Nat) (a r : BitVec n) : FlagVal :=
  if k = 1 then .set (decide (r.toInt < 0) != decide (a.toInt < 0)) else .undef

variable {k}

theorem ovIfOne_eq {b d : Bool} (one : k = 1 → b = d) : ovIfOne k b = if k = 1 then .set d else .undef := by
  unfold ovIfOne
  split
  · rw [one ‹_›]
  · rfl

theorem ovIfOne_eq_signFlag {r : BitVec n} {b : Bool} (one : k = 1 → b = (r.msb ^^ a.msb)) :
    ovIfOne k b = signFlag k a r := by
  rw [BitVec.msb_eq_toInt, BitVec.msb_eq_toInt] at one
  exact ovIfOne_eq one

theorem shl_ov : (ShiftOp.shl.flags a c k).ov = signFlag k a (ShiftOp.shl.result a c k) :=
  ovIfOne_eq_signFlag a fun one => by rw [one, BitVec.msb_eq_getLsbD_last a]

/-- A shift right by 1 clears the sign. -/
theorem shr_ov : (ShiftOp.shr.flags a c k).ov = signFlag k a (ShiftOp.shr.result a c k) :=
  ovIfOne_eq_signFlag a fun one => by
    rw [one, ShiftOp.result, BitVec.msb_ushiftRight, decide_eq_true Nat.one_pos, Bool.not_true, Bool.false_and,
      Bool.false_xor]

/-- A signed shift right keeps the sign. -/
theorem sar_ov : (ShiftOp.sar.flags a c k).ov = signFlag k a (ShiftOp.sar.result a c k) :=
  ovIfOne_eq_signFlag a fun _ => by rw [ShiftOp.result, BitVec.msb_sshiftRight, Bool.xor_self]

theorem rol_ov (hn : 0 < n) : (ShiftOp.rol.flags a c k).ov = signFlag k a (ShiftOp.rol.result a c k) :=
  ovIfOne_eq_signFlag a fun one => by
    have top := rol_bit a c 1 (Nat.sub_lt hn Nat.one_pos)
    rw [Nat.sub_add_cancel hn, Nat.mod_self] at top
    rw [one, top, BitVec.msb_eq_getLsbD_last a]

theorem ror_ov (hn : 2 ≤ n) : (ShiftOp.ror.flags a c k).ov = signFlag k a (ShiftOp.ror.result a c k) :=
  ovIfOne_eq_signFlag a fun one => by
    have top := ror_bit a c 1 (i := n - 2) (by omega)
    rw [show n - 2 + 1 = n - 1 by omega, Nat.mod_eq_of_lt (by omega)] at top
    rw [one, top, BitVec.msb_eq_getLsbD_last a]

theorem rcl_ov (hn : 0 < n) : (ShiftOp.rcl.flags a c k).ov = signFlag k a (ShiftOp.rcl.result a c k) :=
  ovIfOne_eq_signFlag a fun one => by
    have top := rotl_withCarry_bit a c 1 (i := n - 1) (by omega)
    rw [Nat.sub_add_cancel hn, Nat.mod_eq_of_lt (Nat.lt_succ_self n),
      withCarry_bit a c (Nat.sub_lt hn Nat.one_pos)] at top
    rw [one, top, BitVec.msb_eq_getLsbD_last a]

/-- After RCR by 1 OF says whether the sign and CF differed. -/
theorem rcr_ov : (ShiftOp.rcr.flags a c k).ov = if k = 1 then .set (decide (a.toInt < 0) != c) else .undef :=
  ovIfOne_eq fun _ => by rw [BitVec.msb_eq_toInt]

/-! ## SHLD and SHRD -/

theorem shiftDouble_left_toNat (b : BitVec n) (hk : k ≤ n) : (shiftDouble true a b k).toNat =
    (a.toNat * 2 ^ k + b.toNat / 2 ^ (n - k)) % 2 ^ n := by
  have power : 2 ^ n = 2 ^ k * 2 ^ (n - k) := by rw [← Nat.pow_add, Nat.add_sub_of_le hk]
  rw [shiftDouble, if_pos rfl, BitVec.toNat_setWidth, BitVec.toNat_ushiftRight, BitVec.toNat_append,
    ← Nat.shiftLeft_add_eq_or_of_lt b.isLt, Nat.shiftRight_eq_div_pow, Nat.shiftLeft_eq, power, ← Nat.mul_assoc,
    Nat.add_comm, Nat.add_mul_div_right _ _ (Nat.two_pow_pos _), Nat.add_comm]

theorem shiftDouble_right_toNat (b : BitVec n) (hk : k ≤ n) : (shiftDouble false a b k).toNat =
    (a.toNat / 2 ^ k + b.toNat * 2 ^ (n - k)) % 2 ^ n := by
  have power : 2 ^ n = 2 ^ (n - k) * 2 ^ k := by rw [← Nat.pow_add, Nat.sub_add_cancel hk]
  rw [shiftDouble, if_neg Bool.false_ne_true, BitVec.toNat_setWidth, BitVec.toNat_ushiftRight, BitVec.toNat_append,
    ← Nat.shiftLeft_add_eq_or_of_lt a.isLt, Nat.shiftRight_eq_div_pow, Nat.shiftLeft_eq, power, ← Nat.mul_assoc,
    Nat.add_comm, Nat.add_mul_div_right _ _ (Nat.two_pow_pos _)]

theorem shiftDouble_toNat (left : Bool) (b : BitVec n) (hk : k ≤ n) : (shiftDouble left a b k).toNat =
    (if left then a.toNat * 2 ^ k + b.toNat / 2 ^ (n - k) else a.toNat / 2 ^ k + b.toNat * 2 ^ (n - k)) % 2 ^ n := by
  cases left with
  | true => exact shiftDouble_left_toNat a b hk
  | false => exact shiftDouble_right_toNat a b hk

/-- SHLD and SHRD set the flags of a shift: CF the last bit out, OF whether the sign changed. -/
theorem shiftDoubleFlags_eq (left : Bool) (b : BitVec n) : shiftDoubleFlags left a b k = FlagEffect.szp
    { cf := if left then oddFlag (a.toNat / 2 ^ (n - k) : Nat) else oddFlag (a.toNat / 2 ^ (k - 1) : Nat)
      af := .undef, ov := signFlag k a (shiftDouble left a b k) } (shiftDouble left a b k) := by
  rw [← set_bit_eq_oddFlag, ← set_bit_eq_oddFlag, ← ovIfOne_eq_signFlag a fun _ => rfl,
    ← apply_ite (FlagVal.set ·)]
  rfl

end

/-- Settles O10: a rotate moves each bit around its own places, with CF above them for RCL and RCR; the last bit out is
the parity of what the shift before it leaves. -/
theorem shiftResults : Obligations.ShiftResults := by
  intro w a cf k hk _ n
  have hn : 8 ≤ n := byte_le_bits w
  have pos : 0 < n := bits_pos w
  refine ⟨⟨shl_toNat a cf k, shr_toNat a cf k, sshiftRight_toInt a k, fun i => rol_bit a cf k, fun i => ror_bit a cf k,
    fun i hi j hj moved => ?_, fun i hi j hj moved => ?_, fun j hj moved => ?_, fun i hi moved => ?_⟩, ?_⟩
  · exact (rcl_bit a cf k (Nat.lt_succ_of_lt hi) hj moved).trans (withCarry_bit a cf hi)
  · exact (rcr_bit a cf k hi moved).trans (withCarry_bit a cf hj)
  · exact (rcl_bit a cf k (Nat.lt_succ_self n) hj moved).trans (withCarry_top a cf)
  · exact (rcr_bit a cf k hi moved).trans (withCarry_top a cf)
  · intro e r odd signs
    refine ⟨?_, ?_, shl_cf a cf k, shr_cf a cf k, sar_cf a cf k pos hk, rol_cf a cf k, ror_cf a cf k,
      fun i hi moved => ?_, fun i hi moved => ?_, fun whole => ⟨?_, ?_⟩, shl_ov a cf, shr_ov a cf, sar_ov a cf,
      rol_ov a cf pos, ror_ov a cf (Nat.le_trans (by decide) hn), rcl_ov a cf pos, rcr_ov a cf,
      fun left b v hk value => ?_⟩
    · rintro op (rfl | rfl | rfl) <;> exact ⟨rfl, rfl⟩
    · rintro op (rfl | rfl | rfl | rfl) <;> exact ⟨rfl, rfl, rfl, rfl⟩
    · exact (rcl_cf a cf k (Nat.lt_succ_of_lt hi) moved).trans (congrArg FlagVal.set (withCarry_bit a cf hi))
    · exact (rcr_cf a cf k moved).trans (congrArg FlagVal.set (withCarry_bit a cf hi))
    · exact (rcl_cf a cf k (Nat.lt_succ_self n) (add_mod_succ_of_multiple k whole)).trans
        (congrArg FlagVal.set (withCarry_top a cf))
    · exact (rcr_cf a cf k (add_mod_succ_of_multiple k whole)).trans (congrArg FlagVal.set (withCarry_top a cf))
    · obtain rfl : v = shiftDouble left a b k :=
        BitVec.eq_of_toNat_eq (value.trans (shiftDouble_toNat a left b hk).symm)
      exact shiftDoubleFlags_eq a left b

end Sys2Proof.Machine

/-! # Shifts and rotates: the instructions (43_logical.md R482 to R491) -/

namespace Sys2Proof.Machine

/-! ## The count -/

/-- The raw count of a shift or rotate (R482). -/
def rawCount (s : State) (c : ShiftCount) : Byte :=
  match c with
  | .one => 1
  | .cl => s.regs.read .b8 .ecx
  | .imm v => v

theorem countOf_run (c : ShiftCount) (s : State) : countOf c s = .ok (rawCount s c) s := by cases c <;> rfl

/-! ## Shifts and rotates -/

theorem exec_shift (op : ShiftOp) (f : UnaryForm) (c : ShiftCount) (s : State) :
    exec (op.instr f c) s = run false (shift op (f.width s) f.operand c) s := by
  cases f <;> cases op <;> rfl

section
variable {s t u : State} {w : Width} {rm : RM} {l : Loc} {a : Val w} {c : ShiftCount}
  (found : locate w rm true (maskCount (rawCount s c) != 0) s = .ok l t)
include found

/-- By a masked count of 0 the operand is found and no more. -/
theorem shift_zero (op : ShiftOp) (zero : maskCount (rawCount s c) = 0) : shift op w rm c s = .ok () t := by
  refine (bind_ok (countOf_run c s)).trans ((bind_ok found).trans ?_)
  rw [if_pos zero]
  rfl

theorem doubleShift_zero (left : Bool) (r : Reg) (zero : maskCount (rawCount s c) = 0) :
    doubleShift left w rm r c s = .ok () t := by
  refine (bind_ok (countOf_run c s)).trans ((bind_ok found).trans ?_)
  rw [if_pos zero]
  rfl

variable (read : readLoc w l t = .ok a u) (counts : 0 < maskCount (rawCount s c))
include read counts

theorem shift_counts (op : ShiftOp) :
    let k := maskCount (rawCount s c)
    shift op w rm c s =
      .ok () ((u.effect (op.flags a u.flags.cf k)).stored w l (op.result a u.flags.cf k)) := by
  refine (bind_ok (countOf_run c s)).trans ((bind_ok found).trans ?_)
  rw [if_neg (Nat.ne_of_gt counts)]
  exact (bind_ok read).trans (writeLoc_ok w l _ _)

theorem doubleShift_within (left : Bool) (r : Reg) (within : maskCount (rawCount s c) ≤ w.bits) :
    let b : Val w := u.regs.read w r
    let k := maskCount (rawCount s c)
    doubleShift left w rm r c s =
      .ok () ((u.effect (shiftDoubleFlags left a b k)).stored w l (shiftDouble left a b k)) := by
  refine (bind_ok (countOf_run c s)).trans ((bind_ok found).trans ?_)
  rw [if_neg (Nat.ne_of_gt counts)]
  refine (bind_ok read).trans ((bind_ok (getReg_run w r u)).trans ?_)
  rw [if_pos within]
  exact writeLoc_ok w l _ _

/-- Above the width destination and flags are free values. -/
theorem doubleShift_above (left : Bool) (r : Reg) (above : w.bits < maskCount (rawCount s c)) :
    let x := u.effect allUndef
    doubleShift left w rm r c s =
      .ok () (State.stored { x with free := x.free + 1 } w l ((Config.freeValue x.free).setWidth w.bits)) := by
  refine (bind_ok (countOf_run c s)).trans ((bind_ok found).trans ?_)
  rw [if_neg (Nat.ne_of_gt counts)]
  refine (bind_ok read).trans ((bind_ok (getReg_run w r u)).trans ?_)
  rw [if_neg (Nat.not_le.mpr above)]
  exact writeLoc_ok w l _ _

end

/-- SHLD and SHRD by CL or by an immediate. -/
theorem exec_doubleShift (left cl : Bool) (rm : RM) (r : Reg) (imm : Byte) (s : State) :
    exec (if left then (if cl then .shldEvGvCl rm r else .shldEvGvIb rm r imm)
      else (if cl then .shrdEvGvCl rm r else .shrdEvGvIb rm r imm)) s =
      run false (doubleShift left s.opw rm r (if cl then .cl else .imm imm)) s := by
  cases left <;> cases cl <;> rfl

/-- Settles O9: by a count of 0 the operand is found and no more; else it is read and the result of the operation
stored. -/
theorem shifts : Obligations.Shifts := by
  constructor
  · intro op f c s s1 l k wf lock count found
    obtain rfl : k = maskCount (rawCount s c) := count.trans (by cases c <;> rfl)
    have begun := (locate_reading _ _ _ _).ok found
    refine ⟨fun zero => ?_, fun a s2 read counts => ?_⟩
    · obtain ⟨x, rfl⟩ := begun.1.exists_through
      exact (exec_shift op f c s).trans (run_unlocked lock (shift_zero found op zero))
    · have readUp := Reading.order.trans begun ((readLoc_reading _ _).ok read)
      have kept := stored_kept (s := (s.through s2).effect (op.flags a s.flags.cf (maskCount (rawCount s c))))
        (readUp.wf wf) (f.width s) l (op.result a s.flags.cf (maskCount (rawCount s c)))
      have since (pg : s.cr0.pg = false) := MemoryKept.since readUp kept pg wf
      obtain ⟨x, rfl⟩ := readUp.1.exists_through
      exact ⟨_, (exec_shift op f c s).trans
        (run_unlocked lock (shift_counts (s := s.entered) found read counts op)), rfl, kept, since⟩
  · intro left rm r cl imm s s1 l k wf lock count i b found
    obtain rfl : k = maskCount (rawCount s (if cl then .cl else .imm imm)) := count.trans (by cases cl <;> rfl)
    have outcome := exec_doubleShift left cl rm r imm s
    have begun := (locate_reading _ _ _ _).ok found
    refine ⟨fun zero => ?_, fun a s2 read counts within => ?_, fun a s2 read above => ?_⟩
    · obtain ⟨x, rfl⟩ := begun.1.exists_through
      exact outcome.trans (run_unlocked lock (doubleShift_zero found left r zero))
    · have readUp := Reading.order.trans begun ((readLoc_reading _ _).ok read)
      have wf2 := readUp.wf wf
      obtain ⟨x, rfl⟩ := readUp.1.exists_through
      refine ⟨shiftDouble left a b _, ?_, ?_,
        outcome.trans (run_unlocked lock (doubleShift_within (s := s.entered) found read counts left r within)),
        stored_kept (s := (s.through (s.through x)).effect _) wf2 _ l _⟩
      · rintro rfl
        exact shiftDouble_left_toNat a b within
      · rintro rfl
        exact shiftDouble_right_toNat a b within
    · obtain ⟨x, rfl⟩ := (Access.order.trans begun.1 ((readLoc_access _ _).ok read)).exists_through
      exact outcome.trans (run_unlocked lock
        (doubleShift_above (s := s.entered) found read (Nat.zero_lt_of_lt above) left r above))

end Sys2Proof.Machine

/-! # The flag instructions, HLT, CLI and STI (46_block_flag.md R600 to R606; 48_system.md R690 to R692), ESC and WAIT
(49_io_coprocessor.md R710 to R712) -/

namespace Sys2Proof.Machine

/-! ## Tests an instruction makes first -/

section
variable {α : Type} {s t : State} {x : Exn} {c : Bool}

/-- An instruction without LOCK whose action raises an exception. -/
theorem run_unlocked_exc {m : M Unit} (lock : s.cur.lock = false) (h : m s.entered = .error (.exc x) t) :
    run false m s = takeFault s t x := (run_settle lock).trans (settle_exc h)

/-- An instruction without LOCK whose action is refused. -/
theorem run_unlocked_refuse {m : M Unit} {r : Refusal} (lock : s.cur.lock = false)
    (h : m s.entered = .error (.refuse r) t) : run false m s = .refused r :=
  (run_settle lock).trans (congrArg (settle s) h)

theorem require_pass {f : Unit → M α} (h : c = true) : (require c x >>= f) s = f () s :=
  bind_ok (require_eq_ok.mpr ⟨h, rfl⟩)

theorem require_stop {f : Unit → M α} (h : c = false) : (require c x >>= f) s = .error (.exc x) s :=
  bind_error (require_eq_error.mpr ⟨h, rfl, rfl⟩)

theorem privileged_inner {f : Unit → M α} (level : s.cpl = 0) : (privileged >>= f) s = f () s :=
  bind_ok (require_eq_ok.mpr ⟨beq_iff_eq.mpr level, rfl⟩)

theorem protectedOnly_protected {f : Unit → M α} (pe : s.cr0.pe = true) : (protectedOnly >>= f) s = f () s :=
  bind_ok (require_eq_ok.mpr ⟨pe, rfl⟩)

theorem sensitive_allowed {f : Unit → M α} (level : s.cpl ≤ s.flags.iopl) : (sensitive >>= f) s = f () s :=
  bind_ok (require_eq_ok.mpr ⟨decide_eq_true level, rfl⟩)

theorem sensitive_denied {f : Unit → M α} (level : s.flags.iopl < s.cpl) :
    (sensitive >>= f) s = .error (.exc gp0) s :=
  bind_error (require_eq_error.mpr ⟨decide_eq_false (BitVec.not_le.mpr level), rfl, rfl⟩)

end

/-! ## The flags -/

theorem bit_getElem (b : Bool) (k i : Nat) (h : i < 32) : (bit b k)[i] = (b && decide (i = k)) := by
  cases b
  · simp [bit]
  · exact BitVec.getElem_twoPow h

/-- What LAHF stores: the flags at their places in the low byte of the image (R605; 10_state.md R40, R44). -/
theorem Flags.image_low (f : Flags) :
    let ah : Byte := f.image.extractLsb' 0 8
    ah.getLsbD 7 = f.sf ∧ ah.getLsbD 6 = f.zf ∧ ah.getLsbD 5 = false ∧ ah.getLsbD 4 = f.af ∧ ah.getLsbD 3 = false ∧
      ah.getLsbD 2 = f.pf ∧ ah.getLsbD 1 = true ∧ ah.getLsbD 0 = f.cf := by
  simp [Flags.image, bit_getElem]

/-- Settles O17: each instruction is one change of the flags, HLT, CLI and STI after the test of their level. -/
theorem flagControl : Obligations.FlagControl := by
  refine ⟨fun s lock => ⟨run_settle lock, run_settle lock, run_settle lock, run_settle lock, run_settle lock,
    ⟨_, run_settle lock, s.flags.image_low⟩, run_settle lock⟩, fun s lock => ⟨fun level => ?_, fun level => ?_,
    fun level => ?_, fun level => ⟨?_, ?_⟩⟩⟩
  · exact run_unlocked lock (privileged_inner (s := s.entered) level)
  · exact run_unlocked lock (sensitive_allowed (s := s.entered) level)
  · exact run_unlocked lock (sensitive_allowed (s := s.entered) level)
  · exact run_unlocked_exc lock (sensitive_denied (s := s.entered) level)
  · exact run_unlocked_exc lock (sensitive_denied (s := s.entered) level)

/-! ## ESC and WAIT -/

section
variable {s : State}

theorem escape_trapped (trap : s.cr0.em = true ∨ s.cr0.ts = true) : escape s = .error (.exc nm) s := by
  cases em : s.cr0.em
  · simp [escape, em, trap.resolve_left (by simp [em])]
  · simp [escape, em]

section
variable (em : s.cr0.em = false) (ts : s.cr0.ts = false)
include em ts

theorem escape_alone (alone : s.plat.coproc = .none) : escape s = .ok () s := by
  simp [escape, em, ts, alone]

theorem escape_error (attached : s.plat.coproc ≠ .none) (error : s.errorLine = true) :
    escape s = .error (.exc mf) s := by
  simp [escape, em, ts, attached, error]

theorem escape_refused (attached : s.plat.coproc ≠ .none) (quiet : s.errorLine = false) :
    escape s = .error (.refuse .coprocessor) s := by
  simp [escape, em, ts, attached, quiet]

end

theorem waitCoprocessor_trapped (mp : s.cr0.mp = true) (ts : s.cr0.ts = true) :
    waitCoprocessor s = .error (.exc nm) s := by
  simp [waitCoprocessor, mp, ts]

section
variable (untrapped : s.cr0.mp = false ∨ s.cr0.ts = false)
include untrapped

theorem waitCoprocessor_alone (alone : s.plat.coproc = .none) : waitCoprocessor s = .ok () s := by
  simp [waitCoprocessor, untrapped, alone]

section
variable (attached : s.plat.coproc ≠ .none)
include attached

theorem waitCoprocessor_busy (busy : s.busyLine = true) : waitCoprocessor s =
    .ok () { s with eip := s.cur.start, cur := { s.cur with incomplete := true } } := by
  simp [waitCoprocessor, untrapped, attached, busy]

theorem waitCoprocessor_error (idle : s.busyLine = false) (error : s.errorLine = true) :
    waitCoprocessor s = .error (.exc mf) s := by
  simp [waitCoprocessor, untrapped, attached, idle, error]

theorem waitCoprocessor_ready (idle : s.busyLine = false) (quiet : s.errorLine = false) :
    waitCoprocessor s = .ok () s := by
  simp [waitCoprocessor, untrapped, attached, idle, quiet]

end

end

end

/-- Settles O41: the traps come first, and then the coprocessor and its lines decide. -/
theorem coprocessor : Obligations.Coprocessor := fun _ _ _ s lock => by
  refine ⟨fun trap => ?_, fun em ts alone => ?_, fun em ts attached error => ?_, fun em ts attached quiet => ?_,
    fun mp ts => ?_, fun untrapped => ⟨fun alone => ?_, fun attached busy => ?_, fun attached idle error => ?_,
    fun attached idle quiet => ?_⟩⟩
  · exact run_unlocked_exc lock (escape_trapped (s := s.entered) trap)
  · exact run_unlocked lock (escape_alone (s := s.entered) em ts alone)
  · exact run_unlocked_exc lock (escape_error (s := s.entered) em ts attached error)
  · exact run_unlocked_refuse lock (escape_refused (s := s.entered) em ts attached quiet)
  · exact run_unlocked_exc lock (waitCoprocessor_trapped (s := s.entered) mp ts)
  · exact run_unlocked lock (waitCoprocessor_alone (s := s.entered) untrapped alone)
  · exact run_unlocked lock (waitCoprocessor_busy (s := s.entered) untrapped attached busy)
  · exact run_unlocked_exc lock (waitCoprocessor_error (s := s.entered) untrapped attached idle error)
  · exact run_unlocked lock (waitCoprocessor_ready (s := s.entered) untrapped attached idle quiet)

end Sys2Proof.Machine

/-! # Near transfers, loops and software interrupts (44_control_transfer.md R520 to R524, R535, R540 to R544, R550 to
R553) -/

namespace Sys2Proof.Machine

/-! ## Transfers in the code segment -/

section
variable {i : Instr} {s u : State} {t : Word32} {m : M Unit}

theorem jumpNear_inside (inside : (cutTarget s.cur.opSize t).toNat ≤ s.cs.limit.toNat) :
    jumpNear t s = .ok () (s.jumped (cutTarget s.cur.opSize t)) :=
  (bind_ok (get_run s)).trans (require_pass (decide_eq_true inside))

theorem jumpNear_beyond (beyond : s.cs.limit.toNat < (cutTarget s.cur.opSize t).toNat) :
    jumpNear t s = .error (.exc gp0) s :=
  (bind_ok (get_run s)).trans (require_stop (decide_eq_false (Nat.not_le.mpr beyond)))

theorem jumpRel_run (rel : Word32) (s : State) : jumpRel rel s = jumpNear (s.relTarget rel) s := bind_ok (get_run s)

/-- An instruction whose meaning ends in a near jump goes where that jump does. -/
theorem JumpsTo.of_jumpNear (lock : s.cur.lock = false) (meaning : exec i s = run false m s)
    (ends : m s.entered = jumpNear t (s.through u)) : JumpsTo i s u t :=
  ⟨fun inside => meaning.trans (run_unlocked lock (ends.trans (jumpNear_inside (s := s.through u) inside))),
    fun beyond => meaning.trans (run_unlocked_exc lock (ends.trans (jumpNear_beyond (s := s.through u) beyond)))⟩

theorem JumpsTo.of_jumpRel {rel : Word32} (lock : s.cur.lock = false) (meaning : exec i s = run false m s)
    (ends : m s.entered = jumpRel rel s.entered) : JumpsTo i s s.entered (s.nextIp + rel) :=
  .of_jumpNear lock meaning (ends.trans (jumpRel_run rel _))

/-! ## Conditional transfers -/

theorem exec_jump (c : Cond) (d : RelDisp) (s : State) : exec (c.jump d) s = run false (jumpIf c d) s := by
  cases c <;> rfl

theorem jumpIf_run (c : Cond) (d : RelDisp) (s : State) :
    jumpIf c d s = if c.holds s.flags then jumpRel (relOf s.cur.opSize d) s else .ok () s := by
  refine (bind_ok (get_run s)).trans ?_
  split <;> rfl

/-- (E)CX, one less, by AddrSize (R541). -/
def State.countLeft (s : State) : Val s.addrw := s.regs.read s.addrw .ecx - 1

theorem loopWhile_run (ok : Bool → Bool) (imm : Byte) (s : State) : loopWhile ok imm s =
    if s.countLeft ≠ 0 ∧ ok s.flags.zf = true then jumpRel (imm.signExtend 32) (s.withReg s.addrw .ecx s.countLeft)
    else .ok () (s.withReg s.addrw .ecx s.countLeft) := by
  refine (bind_ok (get_run s)).trans ((bind_ok (setReg_run _ _ _ s)).trans ?_)
  unfold State.countLeft
  split <;> rfl

theorem jumpIfZero_run (w : Width) (imm : Byte) (s : State) : jumpIfZero w imm s =
    if s.regs.read w .ecx = 0 then jumpRel (imm.signExtend 32) s else .ok () s := by
  refine (bind_ok (getReg_run w .ecx s)).trans ?_
  split <;> rfl

/-- JCXZ and JECXZ jump where the count is 0, and else do nothing (R544). -/
theorem jumpIfZero_outcome {w : Width} {imm : Byte} (lock : s.cur.lock = false)
    (meaning : exec i s = run false (jumpIfZero w imm) s) :
    (s.regs.read w .ecx ≠ 0 → exec i s = .next s.entered) ∧
      (s.regs.read w .ecx = 0 → JumpsTo i s s.entered (s.nextIp + imm.signExtend 32)) :=
  ⟨fun more => meaning.trans (run_unlocked lock ((jumpIfZero_run w imm s.entered).trans (if_neg more))),
    fun zero => .of_jumpRel lock meaning ((jumpIfZero_run w imm s.entered).trans (if_pos zero))⟩

end

/-- Settles O18: each instruction is a near jump, behind its condition. -/
theorem jumps : Obligations.Jumps := by
  refine ⟨fun s lock => ⟨fun imm => .of_jumpRel lock rfl rfl, fun imm => .of_jumpRel lock rfl rfl, fun rm v u read => ?_⟩,
    fun s lock => ?_⟩
  · have readUp := (readRM_reading _ _).ok read
    obtain ⟨x, rfl⟩ := readUp.1.exists_through
    exact ⟨.of_jumpNear lock rfl (bind_ok read), readUp.keptSince⟩
  intro w n counted loop
  have loop_of {i : Instr} {imm : Byte} {ok : Bool → Bool} (meaning : exec i s = run false (loopWhile ok imm) s) :
      loop i imm (ok s.flags.zf) := by
    have taken (more : n ≠ 0) (yes : ok s.flags.zf = true) :
        loopWhile ok imm s.entered = jumpNear (s.nextIp + imm.signExtend 32) counted :=
      (loopWhile_run ok imm s.entered).trans ((if_pos ⟨more, yes⟩).trans (jumpRel_run _ counted))
    refine ⟨fun ends => ?_, fun more yes inside => ?_, fun more yes beyond => ?_⟩
    · have stays : ¬ (n ≠ 0 ∧ ok s.flags.zf = true) := fun ⟨more, yes⟩ =>
        ends.elim more fun no => Bool.false_ne_true (no.symm.trans yes)
      exact meaning.trans (run_unlocked lock ((loopWhile_run ok imm s.entered).trans (if_neg stays)))
    · exact meaning.trans (run_unlocked lock ((taken more yes).trans (jumpNear_inside (s := counted) inside)))
    · exact meaning.trans (run_unlocked_exc lock ((taken more yes).trans (jumpNear_beyond (s := counted) beyond)))
  refine ⟨fun c d => ⟨fun no => ?_, fun yes => ?_⟩, fun imm => ⟨loop_of (ok := fun _ => true) rfl,
    loop_of (ok := fun zf => zf) rfl, loop_of (ok := fun zf => !zf) rfl⟩, fun imm => ?_⟩
  · exact (exec_jump c d s).trans (run_unlocked lock ((jumpIf_run c d s.entered).trans (if_neg (by simp [no]))))
  · have taken : jumpIf c d s.entered = jumpRel (relOf s.cur.opSize d) s.entered :=
      (jumpIf_run c d s.entered).trans (if_pos yes)
    cases d <;> exact .of_jumpRel lock (exec_jump c _ s) taken
  · have short := jumpIfZero_outcome (w := .b16) (imm := imm) (i := .jcxzJb imm) lock rfl
    have long := jumpIfZero_outcome (w := .b32) (imm := imm) (i := .jecxzJb imm) lock rfl
    exact ⟨short.1, short.2, long⟩

/-! ## CALL and RET near -/

section
variable {s u x : State} {w : Width} {t : Word32}

theorem callNear_beyond (beyond : s.cs.limit.toNat < (cutTarget s.cur.opSize t).toNat) :
    callNear w t s = .error (.exc gp0) s :=
  (bind_ok (get_run s)).trans (require_stop (decide_eq_false (Nat.not_le.mpr beyond)))

theorem callNear_inside {pas : List Word32} (inside : (cutTarget s.cur.opSize t).toNat ≤ s.cs.limit.toNat)
    (slot : segResolve .ss (s.stackAt (-distOf w)) w.bytes true true s = .ok pas x) : callNear w t s =
      .ok () (((x.stored w (.mem pas) (s.nextIp.setWidth w.bits)).moveSP (-distOf w)).jumped
        (cutTarget s.cur.opSize t)) :=
  (bind_ok (get_run s)).trans ((require_pass (decide_eq_true inside)).trans (bind_ok (push_run_ok _ slot)))

/-- CALL near is the call from the state in which its operand has been read (R524). -/
theorem exec_callNear {i : Instr} (lock : s.cur.lock = false)
    (form : (∃ imm, i = .callJvNear imm ∧ t = s.nextIp + relWord s.cur.opSize imm ∧ u = s.entered) ∨
      ∃ (rm : RM) (v : Val s.opw), i = .callEvNear rm ∧ readRM s.opw rm s.entered = .ok v u ∧ t = v.setWidth 32) :
    exec i s = settle s (callNear s.opw t u) ∧ Reading s.entered u := by
  rcases form with ⟨imm, rfl, rfl, rfl⟩ | ⟨rm, v, rfl, read, rfl⟩
  · exact ⟨run_settle lock, Reading.order.refl _⟩
  · exact ⟨(run_settle lock).trans (congrArg (settle s) (bind_ok read)), (readRM_reading _ _).ok read⟩

section
variable {v : Val w} {extra : Word16} (read : stackRead w 0 s = .ok v u)
include read

theorem returnNear_inside (inside : (v.setWidth 32 : Word32).toNat ≤ u.cs.limit.toNat) : returnNear w extra s =
    .ok () ((u.moveSP (distOf w + extra.setWidth 32)).jumped (v.setWidth 32)) :=
  (bind_ok read).trans ((bind_ok (get_run u)).trans (require_pass (decide_eq_true inside)))

theorem returnNear_beyond (beyond : u.cs.limit.toNat < (v.setWidth 32 : Word32).toNat) :
    returnNear w extra s = .error (.exc gp0) u :=
  (bind_ok read).trans ((bind_ok (get_run u)).trans (require_stop (decide_eq_false (Nat.not_le.mpr beyond))))

end

end

/-- Settles O19: the target is checked where the operand, or the offset on the stack, has been read. -/
theorem nearCallReturn : Obligations.NearCallReturn := by
  intro s wf lock
  refine ⟨fun i target u form => ?_, fun v u read => ?_⟩
  · obtain ⟨outcome, begun⟩ := exec_callNear lock form
    obtain ⟨y, rfl⟩ := begun.1.exists_through
    intro cut
    refine ⟨fun beyond => ?_, fun pas x inside slot => ?_⟩
    · exact outcome.trans (settle_exc (callNear_beyond (s := s.through y) beyond))
    · have resolved := Reading.order.trans begun ((segResolve_reading _ _ _ _ _).ok slot)
      obtain ⟨z, rfl⟩ := resolved.1.exists_through
      exact ⟨outcome.trans (congrArg (settle s) (callNear_inside (s := s.through y) inside slot)),
        resolved.stored_kept wf _⟩
  · have begun := (stackRead_reading _ _).ok read
    obtain ⟨y, rfl⟩ := begun.1.exists_through
    intro target back
    have back_of {i : Instr} {extra : Word16} (meaning : exec i s = run false (returnNear s.opw extra) s) :
        back i extra :=
      ⟨fun inside => meaning.trans (run_unlocked lock (returnNear_inside read inside)),
        fun beyond => meaning.trans (run_unlocked_exc lock (returnNear_beyond read beyond))⟩
    exact ⟨back_of rfl, fun imm => back_of rfl, begun.keptSince⟩

/-! ## Software interrupts and BOUND -/

section
variable {s t u v : State}

/-- The event of a software interrupt instruction (R550 to R552). -/
theorem softInterrupt_run (n : Byte) (s : State) : softInterrupt n s =
    deliver { vec := n, src := .soft, ret := s.nextIp, code := .none, rf := false } s := bind_ok (get_run s)

theorem interruptOnOverflow_run (s : State) :
    interruptOnOverflow s = if s.flags.ov then softInterrupt 4 s else .ok () s := by
  refine (bind_ok (get_run s)).trans ?_
  split <;> rfl

/-- BOUND reads its two bounds and compares the index with them as signed numbers (R553). -/
theorem checkBounds_read {w : Width} {r : Reg} {m : Mem} {lo hi : Val w}
    (readLo : segRead w (s.segOr (defaultSeg m)) (effAddr s.regs m) s = .ok lo u)
    (readHi : segRead w (s.segOr (defaultSeg m)) (effAddr s.regs m + distOf w) u = .ok hi v) : checkBounds w r m s =
      require (decide (lo.toInt ≤ (v.regs.read w r).toInt) && decide ((v.regs.read w r).toInt ≤ hi.toInt)) br v :=
  (bind_ok (get_run s)).trans ((bind_ok readLo).trans ((bind_ok readHi).trans (bind_ok (getReg_run w r v))))

end

/-- Settles O25: the interrupts are their events delivered, and BOUND is a comparison. -/
theorem softwareInterrupts : Obligations.SoftwareInterrupts := by
  refine ⟨fun s t lock => ?_, fun r m s u v lo hi lock readLo readHi => ?_⟩
  · intro event
    refine ⟨fun n delivered => ?_, fun delivered => ?_, fun ov delivered => ?_, fun ov => ?_⟩
    · exact run_unlocked lock ((softInterrupt_run n s.entered).trans delivered)
    · exact run_unlocked lock ((softInterrupt_run 3 s.entered).trans delivered)
    · exact run_unlocked lock ((interruptOnOverflow_run s.entered).trans
        ((if_pos ov).trans ((softInterrupt_run 4 s.entered).trans delivered)))
    · exact run_unlocked lock ((interruptOnOverflow_run s.entered).trans (if_neg (by simp [ov])))
  · have begun := Reading.order.trans ((segRead_reading _ _ _).ok readLo) ((segRead_reading _ _ _).ok readHi)
    obtain ⟨y, rfl⟩ := begun.1.exists_through
    have compared := checkBounds_read (s := s.entered) (r := r) readLo readHi
    intro x
    refine ⟨fun inside => ?_, fun outside => ?_, begun.keptSince⟩
    · refine run_unlocked lock (compared.trans (require_eq_ok.mpr ⟨?_, rfl⟩))
      exact Bool.and_eq_true_iff.mpr ⟨decide_eq_true inside.1, decide_eq_true inside.2⟩
    · refine run_unlocked_exc lock (compared.trans (require_eq_error.mpr ⟨?_, rfl, rfl⟩))
      rcases outside with below | above
      · exact Bool.and_eq_false_imp.mpr fun h => absurd (of_decide_eq_true h) (Int.not_le.mpr below)
      · exact Bool.and_eq_false_imp.mpr fun _ => decide_eq_false (Int.not_le.mpr above)

end Sys2Proof.Machine

/-! # Far transfers in real-address mode, and through call gates (44_control_transfer.md R523, R525, R528, R529, R531;
21_translation_protection.md R193, R196, R197) -/

namespace Sys2Proof.Machine

/-! ## Real-address mode -/

section
variable {s t : State} {k : FarKind} {w : Width} {sel : Word16} {off : Word32}

theorem enterRealCode_run (sel : Word16) (off : Word32) (s : State) :
    enterRealCode sel off s = .ok () (s.realFar sel off) := rfl

theorem farTransfer_real (pe : s.cr0.pe = false) : farTransfer k w sel off s = farReal k w sel off s := by
  simp only [farTransfer, bind_run, get_run, pe, Bool.false_eq_true, if_false]

theorem farReal_beyond (beyond : s.cs.limit.toNat < (cutTarget s.cur.opSize off).toNat) :
    farReal k w sel off s = .error (.exc gp0) s :=
  (bind_ok (get_run s)).trans (require_stop (decide_eq_false (Nat.not_le.mpr beyond)))

section
variable (inside : (cutTarget s.cur.opSize off).toNat ≤ s.cs.limit.toNat)
include inside

theorem farReal_jmp : farReal .jmp w sel off s = .ok () (s.realFar sel (cutTarget s.cur.opSize off)) :=
  (bind_ok (get_run s)).trans (require_pass (decide_eq_true inside))

/-- A CALL pushes the return address before it goes to its target (R531). -/
theorem farReal_call : farReal .call w sel off s =
    (pushReturn w >>= fun _ => enterRealCode sel (cutTarget s.cur.opSize off)) s :=
  (bind_ok (get_run s)).trans (require_pass (decide_eq_true inside))

end

end

/-- Settles O20: the transfer is followed from the operand; the target is checked first, and a CALL pushes before it goes
there. -/
theorem farTransferReal : Obligations.FarTransferReal := by
  intro jmp call off sel s a pe lock pair target
  have begun := pair.reading
  obtain ⟨jmpIs, callIs⟩ := pair.exec_eq lock
  obtain ⟨y, rfl⟩ := begun.1.exists_through
  rw [farTransfer_real (s := s.through y) pe] at jmpIs callIs
  refine ⟨fun inside => ⟨?_, fun u pas pushes => ⟨?_, pushes.pushed begun⟩, fun x u fails => ?_⟩, fun beyond => ⟨?_, ?_⟩⟩
  · exact jmpIs.trans (congrArg (settle s) (farReal_jmp (s := s.through y) inside))
  · rw [callIs, farReal_call (s := s.through y) inside, bind_ok (pushes.run begun.1), enterRealCode_run]
    rfl
  · rw [callIs, farReal_call (s := s.through y) inside, bind_error (fails.pushReturn begun.1)]
    rfl
  · exact jmpIs.trans (settle_exc (farReal_beyond (s := s.through y) beyond))
  · exact callIs.trans (settle_exc (farReal_beyond (s := s.through y) beyond))

/-! ## The checks of a call gate and of its target -/

section
variable {s t u v x : State} {k : FarKind} {w : Width} {sel : Word16} {off : Word32} {g c d : Desc} {e : Exn}

theorem gateTarget_fails (fails : (gateTargetCheck sel g s.cpl).Fails s e t) :
    gateTarget sel g s = .error (.exc e) t := (gateTarget_eq sel g s).trans (Check.run_fails.mpr fails)

theorem gateTarget_passes (passes : (gateTargetCheck sel g s.cpl).Passes s c t) : gateTarget sel g s = .ok c t :=
  (gateTarget_eq sel g s).trans (Check.run_passes.mpr passes)

theorem farProtected_callGate (notNull : selNull sel = false) (read : readDesc sel (gpFault sel) s = .ok g t)
    (notCode : g.attr.code = false) (gate : g.isSys 0xC = true) :
    farProtected .jmp w sel off s = jumpGate sel g t ∧ farProtected .call w sel off s = callGate sel g t := by
  constructor <;>
    simp only [farProtected, bind_run, get_run, require_run, notNull, Bool.not_false, if_true, read, notCode, gate,
      Bool.false_eq_true, if_false]

section
variable (target : gateTarget sel g s = .ok c t)
include target

theorem jumpGate_privilege (bad : c.codeMatches t.cpl = false) :
    jumpGate sel g s = .error (.exc (gpFault g.gateSel)) t :=
  (bind_ok target).trans ((bind_ok (get_run t)).trans (require_stop bad))

theorem jumpGate_absent (ok : c.codeMatches t.cpl = true) (absent : c.present = false) :
    jumpGate sel g s = .error (.exc (npFault g.gateSel)) t :=
  (bind_ok target).trans ((bind_ok (get_run t)).trans ((require_pass ok).trans (require_stop absent)))

theorem jumpGate_present (ok : c.codeMatches t.cpl = true) (present : c.present = true) : jumpGate sel g s =
    if g.gateOff.toNat ≤ c.limit.toNat then enterCode g.gateSel c g.gateOff t else .error (.exc gp0) t := by
  refine (bind_ok target).trans ((bind_ok (get_run t)).trans ((require_pass ok).trans ((require_pass present).trans ?_)))
  split
  · exact require_pass (decide_eq_true ‹_›)
  · exact require_stop (decide_eq_false ‹_›)

theorem callGate_privilege (bad : ¬ c.dpl ≤ t.cpl) : callGate sel g s = .error (.exc (gpFault g.gateSel)) t :=
  (bind_ok target).trans ((bind_ok (get_run t)).trans (require_stop (decide_eq_false bad)))

section
variable (allowed : c.dpl ≤ t.cpl)
include allowed

theorem callGate_absent (absent : c.present = false) : callGate sel g s = .error (.exc (npFault g.gateSel)) t :=
  (bind_ok target).trans ((bind_ok (get_run t)).trans ((require_pass (decide_eq_true allowed)).trans
    (require_stop absent)))

/-- A present target is called at the same level, or at its own (R529). -/
theorem callGate_present (present : c.present = true) : callGate sel g s =
    if c.attr.conforming || c.dpl == t.cpl then farSame .call .b32 g.gateSel c g.gateOff t else callInner g c t := by
  refine (bind_ok target).trans ((bind_ok (get_run t)).trans ((require_pass (decide_eq_true allowed)).trans
    ((require_pass present).trans ?_)))
  split <;> rfl

end

end

end

/-! ## The new stack of an inner level -/

section
variable {s t u v x : State} {g c d : Desc} {e : Exn} {nss : Word16} {nesp : Word32}

theorem pushAllAs_append (user : Bool) (w : Width) : ∀ vs ws : List (Val w),
    pushAllAs user w (vs ++ ws) = pushAllAs user w vs >>= fun _ => pushAllAs user w ws
  | [], _ => rfl
  | v :: vs, ws => by
    rw [List.cons_append, pushAllAs, pushAllAs, pushAllAs_append user w vs ws, bind_assoc]

/-- Pushes that fail leave the instruction in progress as it was. -/
theorem PushFails.cur {user : Bool} {w : Width} {vs : List (Val w)} (h : PushFails user w vs s e t) : t.cur = s.cur := by
  obtain ⟨i, u, pas, -, pushed, stops⟩ := h
  exact ((segResolveAs_access _ _ _ _ _ _).error stops).cur.trans pushed.state.cur

theorem enterInner_ok {level : BitVec 2} (accessed : setAccessed nss d s = .ok () t) : enterInner level nss nesp d s =
    .ok () { t with ss := d.seg nss, regs := { t.regs with esp := nesp }, cpl := level } :=
  (bind_ok (show installSeg .ss nss d s = .ok () { t with ss := d.seg nss } from bind_ok accessed)).trans
    (modify_run _ _)

/-- Code entered at a level known beforehand. -/
theorem enterCode_at {level : BitVec 2} {sel : Word16} {off : Word32} (accessed : setAccessed sel c s = .ok () t)
    (cpl : t.cpl = level) :
    enterCode sel c off s = .ok () ({ t with cs := c.seg (withRpl sel level) }.jumped off) := by
  subst cpl
  exact enterCode_ok accessed

/-- What pushes of doublewords leave of an inner level's stack and of the registers: ESP down, by the width of that
stack's pointer. -/
theorem Access.inner_frame {n : Nat} (h : Access ((s.partway true).moveSP (-BitVec.ofNat 32 (n * 4))) t)
    (pe : s.cr0.pe = true) : t.cpl = s.cpl ∧ t.ss = s.ss ∧ t.flags = s.flags ∧
      t.regs = { s.regs with
        esp := (s.regs.setSP (stackSizeOf true s.ss) (s.regs.esp - BitVec.ofNat 32 (4 * n))).esp } := by
  have only (g : Regs) (z : Size) (b : Word32) : g.setSP z b = { g with esp := (g.setSP z b).esp } := by cases z <;> rfl
  have left : t = ((s.partway true).moveSP (-BitVec.ofNat 32 (n * 4))).rollback t := h.1
  rw [left]
  refine ⟨rfl, rfl, rfl, ?_⟩
  have moved : (((s.partway true).moveSP (-BitVec.ofNat 32 (n * 4))).rollback t).regs =
    s.regs.setSP (stackSizeOf s.cr0.pe s.ss) (s.regs.esp + -BitVec.ofNat 32 (n * 4)) := rfl
  rw [moved, pe, ← BitVec.sub_eq_add_neg, Nat.mul_comm n 4]
  exact only _ _ _

/-- The doublewords at the top of the stack are read one after the other (R529). -/
theorem readParams_ok : ∀ {vs : List Word32} {off : Word32} {y : Nat → State},
    (∀ i (h : i < vs.length), stackRead .b32 (off + BitVec.ofNat 32 (4 * i)) (y i) = .ok vs[i] (y (i + 1))) →
    readParams vs.length off (y 0) = .ok vs (y vs.length)
  | [], _, _, _ => rfl
  | v :: vs, off, y, reads => by
    have first : stackRead .b32 off (y 0) = .ok v (y 1) := by
      have h := reads 0 (Nat.succ_pos _)
      rwa [Nat.mul_zero, BitVec.add_zero] at h
    have rest : readParams vs.length (off + 4) (y 1) = .ok vs (y (vs.length + 1)) :=
      readParams_ok (y := fun i => y (i + 1)) fun i h => by
        have shift : off + 4 + BitVec.ofNat 32 (4 * i) = off + BitVec.ofNat 32 (4 * (i + 1)) := by
          rw [BitVec.add_assoc, Nat.mul_succ, Nat.add_comm, BitVec.ofNat_add]
          rfl
        rw [shift]
        exact reads (i + 1) (Nat.succ_lt_succ h)
    exact (bind_ok first).trans (bind_ok rest)

theorem readParams_access : ∀ (n : Nat) (off : Word32), Keeps Access (readParams n off)
  | 0, _ => .pure Access.order _
  | n + 1, _ => .bind Access.order (stackRead_access _ _) fun _ =>
      .bind Access.order (readParams_access n _) fun _ => .pure Access.order _

/-- What a CALL from `s` to an inner level pushes on the new stack, in order (R529): SS and ESP as they were, the
parameters, the one highest in memory first, CS and the offset of the next instruction. -/
def innerCallFrame (s : State) (params : List Word32) : List Word32 :=
  [s.ss.sel.setWidth 32, s.regs.esp] ++ (params.reverse ++ [s.cs.sel.setWidth 32, s.nextIp])

theorem pushAllAs_innerCallFrame (s : State) (params : List Word32) : pushAllAs false .b32 (innerCallFrame s params) = (do
      pushSystem .b32 (s.ss.sel.setWidth 32)
      pushSystem .b32 s.regs.esp
      pushAllSystem params.reverse
      pushSystem .b32 (s.cs.sel.setWidth 32)
      pushSystem .b32 s.nextIp) := by
  have first := pushAllAs_append false .b32 [s.ss.sel.setWidth 32, s.regs.esp]
    (params.reverse ++ [s.cs.sel.setWidth 32, s.nextIp])
  have second := pushAllAs_append false .b32 params.reverse [s.cs.sel.setWidth 32, s.nextIp]
  refine first.trans ?_
  rw [second]
  simp only [pushAllAs, pushAllSystem_eq, pushSystem, bind_assoc, bind_pure_unit]

/-- CALL to an inner level once the new stack has been checked in `u`. -/
def callOnStack (s : State) (g c : Desc) (nss : Word16) (nesp : Word32) (d : Desc) : M Unit := do
  require (stackRoom true (d.seg nss) nesp .b32 (4 + g.gateCount)) ss0
  require (decide (g.gateOff.toNat ≤ c.limit.toNat)) gp0
  let params ← readParams g.gateCount 0
  enterInner c.dpl nss nesp d
  partway do
    pushAllAs false .b32 (innerCallFrame s params)
    enterCode g.gateSel c g.gateOff

theorem callInner_stack (stack : InnerStack c.dpl s nss nesp d t) : callInner g c s = callOnStack s g c nss nesp d t := by
  refine (bind_ok (get_run s)).trans ((bind_ok (innerStack_ok stack)).trans ?_)
  simp only [callOnStack, pushAllAs_innerCallFrame, bind_assoc]

theorem callInner_stackFails (fails : InnerStackFails c.dpl s e t) : callInner g c s = .error (.exc e) t :=
  (bind_ok (get_run s)).trans (bind_error (innerStack_fails fails))

theorem callOnStack_noRoom (noRoom : ¬ stackRoom true (d.seg nss) nesp .b32 (4 + g.gateCount) = true) :
    callOnStack s g c nss nesp d t = .error (.exc ss0) t := require_stop (Bool.eq_false_iff.mpr noRoom)

section
variable (room : stackRoom true (d.seg nss) nesp .b32 (4 + g.gateCount) = true)
include room

theorem callOnStack_beyond (beyond : ¬ g.gateOff.toNat ≤ c.limit.toNat) :
    callOnStack s g c nss nesp d t = .error (.exc gp0) t :=
  (require_pass room).trans (require_stop (decide_eq_false beyond))

/-- With room and the offset inside the target, the parameters are read, the new stack is entered and the frame pushed. -/
theorem callOnStack_inside {params : List Word32} (inside : g.gateOff.toNat ≤ c.limit.toNat)
    (read : readParams g.gateCount 0 t = .ok params u) (accessed : setAccessed nss d u = .ok () v) :
    callOnStack s g c nss nesp d t = partway (do
      pushAllAs false .b32 (innerCallFrame s params)
      enterCode g.gateSel c g.gateOff)
        { v with ss := d.seg nss, regs := { v.regs with esp := nesp }, cpl := c.dpl } :=
  (require_pass room).trans ((require_pass (decide_eq_true inside)).trans ((bind_ok read).trans
    (bind_ok (enterInner_ok accessed))))

end

end

theorem Check.Passes.reading {q : Check} {s t : State} {d : Desc} (h : q.Passes s d t) : Reading s t := by
  obtain ⟨-, read, -⟩ := h
  exact (readDesc_reading _ _).ok read

theorem InnerStack.reading {level : BitVec 2} {s t : State} {nss : Word16} {nesp : Word32} {d : Desc}
    (h : InnerStack level s nss nesp d t) : Reading s t := by
  obtain ⟨u, ⟨-, x, readEsp, readSs⟩, passes⟩ := h
  exact Reading.order.trans (Reading.order.trans ((linRead_reading _ _ _).ok readEsp) ((linRead_reading _ _ _).ok readSs))
    passes.reading

theorem Desc.codeMatches_iff (c : Desc) (level : BitVec 2) : c.codeMatches level = true ↔
    c.attr.conforming = true ∧ c.dpl ≤ level ∨ c.attr.conforming = false ∧ c.dpl = level := by
  unfold Desc.codeMatches
  cases c.attr.conforming <;> simp

/-- A level is that of code which matches it, or code inside it, or neither. -/
theorem Desc.matches_or_inner {c : Desc} {level : BitVec 2} (allowed : c.dpl ≤ level) :
    c.codeMatches level = true ∨ c.attr.conforming = false ∧ c.dpl < level := by
  rw [Desc.codeMatches_iff]
  cases c.attr.conforming
  · rcases Nat.lt_or_eq_of_le (BitVec.le_def.mp allowed) with below | same
    · exact .inr ⟨rfl, below⟩
    · exact .inl (.inr ⟨rfl, BitVec.eq_of_toNat_eq same⟩)
  · exact .inl (.inl ⟨rfl, allowed⟩)

section
variable {s t : State} {sel : Word16} {g c : Desc} (target : gateTarget sel g s = .ok c t) (present : c.present = true)
include target present

theorem callGate_same (ok : c.codeMatches t.cpl = true) :
    callGate sel g s = farSame .call .b32 g.gateSel c g.gateOff t := by
  rw [Desc.codeMatches_iff] at ok
  rcases ok with ⟨conforming, allowed⟩ | ⟨-, same⟩
  · rw [callGate_present target allowed present, conforming]
    rfl
  · rw [callGate_present target (by rw [same]; exact BitVec.le_refl _) present, same, beq_self_eq_true, Bool.or_true]
    rfl

theorem callGate_inner (strict : c.attr.conforming = false) (below : c.dpl < t.cpl) :
    callGate sel g s = callInner g c t := by
  have differs : (c.dpl == t.cpl) = false := beq_false_of_ne fun same => BitVec.lt_irrefl _ (same ▸ below)
  rw [callGate_present target (BitVec.le_of_lt below) present, strict, differs]
  rfl

end

/-- Settles O22: a gate is followed through its own checks, the privilege and the presence of its target, and, to an inner
level, the new stack, on which the frame is pushed. -/
theorem callGates : Obligations.CallGates := by
  intro jmp call off sel g s a s1 pe lock pair notNull read notCode gate
  have begun := pair.reading
  obtain ⟨jmpIs, callIs⟩ := pair.exec_eq lock
  have ape : a.cr0.pe = true := by rw [begun.1.1]; exact pe
  have readUp := Reading.order.trans begun ((readDesc_reading _ _).ok read)
  obtain ⟨jmpGate, callsGate⟩ := farProtected_callGate (w := s.opw) (off := off) notNull read notCode gate
  rw [farTransfer_protected ape] at jmpIs callIs
  rw [jmpGate] at jmpIs
  rw [callsGate] at callIs
  obtain ⟨y, rfl⟩ := readUp.1.exists_through
  refine ⟨fun x u fails => ?_, fun c s2 passes => ?_⟩
  · have stops := gateTarget_fails (s := s.through y) fails
    exact ⟨jmpIs.trans (settle_exc (bind_error stops)), callIs.trans (settle_exc (bind_error stops))⟩
  have target := gateTarget_passes (s := s.through y) passes
  have checked := Reading.order.trans readUp passes.reading
  obtain ⟨z, rfl⟩ := checked.1.exists_through
  intro ok inner inside
  have ok_iff : c.codeMatches s.cpl = true ↔ ok := c.codeMatches_iff s.cpl
  have allowed (h : ok ∨ inner) : c.dpl ≤ s.cpl := by
    rcases h with (⟨-, le⟩ | ⟨-, same⟩) | ⟨-, below⟩
    · exact le
    · exact same ▸ BitVec.le_refl _
    · exact BitVec.le_of_lt below
  refine ⟨fun bad => ?_, fun bad notInner => ?_, fun absent => ⟨fun good => ?_, fun good => ?_⟩, ?_, ?_⟩
  · exact jmpIs.trans (settle_exc (jumpGate_privilege target (Bool.eq_false_iff.mpr fun h => bad (ok_iff.mp h))))
  · refine callIs.trans (settle_exc (callGate_privilege target fun le => ?_))
    exact (Desc.matches_or_inner le).elim (fun h => bad (ok_iff.mp h)) notInner
  · exact jmpIs.trans (settle_exc (jumpGate_absent target (ok_iff.mpr good) absent))
  · exact callIs.trans (settle_exc (callGate_absent target (allowed good) absent))
  · intro present good room
    rw [jumpGate_present target (ok_iff.mpr good) present] at jmpIs
    rw [callGate_same target present (ok_iff.mpr good)] at callIs
    refine ⟨fun beyond => ?_, fun v within accessed => ?_, fun noRoom => ?_, fun hasRoom beyond => ?_,
      fun x v hasRoom within fails => ?_, fun v pas hasRoom within pushes => ⟨pushes.pushed checked, fun x accessed => ?_⟩⟩
    · rw [jmpIs, if_neg beyond]
      rfl
    · obtain ⟨q, rfl⟩ := (Access.order.trans checked.1 ((setAccessed_access _ _).ok accessed)).exists_through
      rw [jmpIs, if_pos within, enterCode_ok accessed]
      rfl
    · exact callIs.trans (settle_exc (farSame_noRoom (u := s.through z) (Bool.eq_false_iff.mpr noRoom)))
    · rw [callIs, farSame_call (u := s.through z) hasRoom, if_neg beyond]
      rfl
    · rw [callIs, farSame_call (u := s.through z) hasRoom, if_pos within, bind_error (fails.pushReturn checked.1)]
      rfl
    · have level : x.cpl = s.cpl := by
        rw [((setAccessed_access _ _).ok accessed).1]
        exact pushes.cpl checked.1
      rw [callIs, farSame_call (u := s.through z) hasRoom, if_pos within, bind_ok (pushes.run checked.1),
        enterCode_ok accessed, level]
      rfl
  · intro present goesIn
    rw [callGate_inner target present goesIn.1 goesIn.2] at callIs
    refine ⟨fun x u fails => callIs.trans (settle_exc (callInner_stackFails fails)), fun nss nesp d s3 stack => ?_⟩
    rw [callInner_stack stack] at callIs
    have stacked := Reading.order.trans checked stack.reading
    intro room
    refine ⟨fun noRoom => callIs.trans (settle_exc (callOnStack_noRoom noRoom)),
      fun hasRoom beyond => callIs.trans (settle_exc (callOnStack_beyond hasRoom beyond)), ?_⟩
    intro params y s5 hasRoom within count start reads accessed on values
    have readAll : readParams g.gateCount 0 s3 = .ok params (y params.length) := by
      rw [← start, ← count]
      exact readParams_ok fun i h => (congrArg (fun k => stackRead .b32 k (y i)) (BitVec.zero_add _)).trans (reads i h)
    have begunInner : Access s.entered s5 := Access.order.trans
      (Access.order.trans stacked.1 ((readParams_access _ _).ok readAll)) ((setAccessed_access _ _).ok accessed)
    obtain ⟨q, rfl⟩ := begunInner.exists_through
    have outcome := callIs.trans (congrArg (settle s) (callOnStack_inside (s := s.through z) hasRoom within readAll accessed))
    have length : values.length = 4 + g.gateCount := by
      rw [← count]
      simp only [values, List.length_append, List.length_reverse, List.length_cons, List.length_nil]
      omega
    refine ⟨fun x b fails => ⟨?_, ?_⟩, fun p pas pushed => ⟨fun pg wf => ?_, fun t codeAccessed => ?_⟩⟩
    · exact outcome.trans (settle_exc (partway_error (bind_error fails.run)))
    · rw [fails.cur]
      rfl
    · rw [← length]
      exact pushed.kept pg (begunInner.2.1 wf)
    · have left := Access.order.trans pushed.state ((setAccessed_access _ _).ok codeAccessed)
      rw [length] at left
      have frame := left.inner_frame (s := on) pe
      refine ⟨?_, frame⟩
      exact outcome.trans (congrArg (settle s)
        (partway_ok ((bind_ok pushed.run).trans (enterCode_at codeAccessed frame.1))))

end Sys2Proof.Machine

/-! # RET far, and IRET in protected mode (44_control_transfer.md R536, R537, R545, R546; 21_translation_protection.md R199,
R200) -/

namespace Sys2Proof.Machine

/-! ## The two ways of returning -/

/-- A return to the same level: the target is checked, CS and EIP are loaded, and (E)SP moves past the frame. -/
def sameReturn (k off : Word32) (sel : Word16) (c : Desc) (flags : Flags → Flags) : M Unit := do
  require (decide (off.toNat ≤ c.limit.toNat)) gp0
  returnCode sel c off
  modify fun t => t.moveSP k
  setFlags flags

/-- A return to an outer level: the stack it goes to is read from the frame and checked before anything is loaded. -/
def outerReturn (w : Width) (holds : Bool) (espAt ssAt extra off : Word32) (sel : Word16) (c : Desc)
    (flags : Flags → Flags) : M Unit := do
  require holds ss0
  let nesp ← stackRead w espAt
  let nss ← stackRead .b16 ssAt
  let d ← checkReturnStack nss (rpl sel)
  require (decide (off.toNat ≤ c.limit.toNat)) gp0
  returnCode sel c off
  setFlags flags
  leaveInner nss d (nesp.setWidth 32 + extra)

section
variable {s t u v : State} {w : Width} {k off espAt ssAt extra : Word32} {sel nss : Word16} {c d : Desc}
  {flags : Flags → Flags} {holds : Bool} {e : Exn}

theorem returnCode_ok (accessed : setAccessed sel c s = .ok () t) :
    returnCode sel c off s = .ok () ({ t with cs := c.seg sel, cpl := rpl sel }.jumped off) := bind_ok accessed

theorem leaveInner_ok (accessed : setAccessed nss d s = .ok () t) : leaveInner nss d extra s = .ok ()
    ({ t with ss := d.seg nss, regs := t.regs.setSP (stackSizeOf t.cr0.pe (d.seg nss)) extra } : State).nullOuter :=
  (bind_ok (show installSeg .ss nss d s = .ok () { t with ss := d.seg nss } from bind_ok accessed)).trans rfl

theorem checkReturnCode_fails (fails : (returnCodeCheck sel s.cpl).Fails s e t) :
    checkReturnCode sel s = .error (.exc e) t := (checkReturnCode_eq sel s).trans (Check.run_fails.mpr fails)

theorem checkReturnCode_passes (passes : (returnCodeCheck sel s.cpl).Passes s c t) :
    checkReturnCode sel s = .ok c t := (checkReturnCode_eq sel s).trans (Check.run_passes.mpr passes)

theorem sameReturn_beyond (beyond : c.limit.toNat < off.toNat) :
    sameReturn k off sel c flags s = .error (.exc gp0) s :=
  require_stop (decide_eq_false (Nat.not_le.mpr beyond))

theorem sameReturn_ok (inside : off.toNat ≤ c.limit.toNat) (accessed : setAccessed sel c s = .ok () t)
    (level : rpl sel = t.cpl) : sameReturn k off sel c flags s =
      .ok () { ({ t with cs := c.seg sel }.jumped off).moveSP k with flags := flags t.flags } := by
  refine (require_pass (decide_eq_true inside)).trans ((bind_ok (returnCode_ok accessed)).trans ?_)
  rw [level]
  rfl

theorem outerReturn_noFrame : outerReturn w false espAt ssAt extra off sel c flags s = .error (.exc ss0) s :=
  require_stop rfl

section
variable {nesp : Val w} (readEsp : stackRead w espAt s = .ok nesp u) (readSs : stackRead .b16 ssAt u = .ok nss v)
include readEsp readSs

theorem outerReturn_stackFails (fails : (returnStackCheck nss (rpl sel)).Fails v e t) :
    outerReturn w true espAt ssAt extra off sel c flags s = .error (.exc e) t := by
  refine (require_pass rfl).trans ((bind_ok readEsp).trans ((bind_ok readSs).trans (bind_error ?_)))
  rw [checkReturnStack_eq]
  exact Check.run_fails.mpr fails

variable (passes : (returnStackCheck nss (rpl sel)).Passes v d t)
include passes

theorem outerReturn_checked : outerReturn w true espAt ssAt extra off sel c flags s = (do
    require (decide (off.toNat ≤ c.limit.toNat)) gp0
    returnCode sel c off
    setFlags flags
    leaveInner nss d (nesp.setWidth 32 + extra)) t := by
  refine (require_pass rfl).trans ((bind_ok readEsp).trans ((bind_ok readSs).trans (bind_ok ?_)))
  rw [checkReturnStack_eq]
  exact Check.run_passes.mpr passes

theorem outerReturn_beyond (beyond : c.limit.toNat < off.toNat) :
    outerReturn w true espAt ssAt extra off sel c flags s = .error (.exc gp0) t :=
  (outerReturn_checked readEsp readSs passes).trans (require_stop (decide_eq_false (Nat.not_le.mpr beyond)))

/-- A return to an outer level leaves the new CS, SS, (E)SP and CPL, the data segments that level may keep, and what its
accesses changed since `a`. -/
theorem outerReturn_ok {a b x : State} (begun : Access a s) (pe : a.cr0.pe = true) (inside : off.toNat ≤ c.limit.toNat)
    (accessed : setAccessed sel c t = .ok () b)
    (stackAccessed : setAccessed nss d
      { ({ b with cs := c.seg sel, cpl := rpl sel }.jumped off) with flags := flags a.flags } = .ok () x) :
    outerReturn w true espAt ssAt extra off sel c flags s = .ok () { a.rollback x with
      cs := c.seg sel, cpl := rpl sel, eip := off, modeStale := false, ss := d.seg nss, flags := flags a.flags
      regs := a.regs.setSP (stackSizeOf true (d.seg nss)) (nesp.setWidth 32 + extra)
      ds := a.ds.keepOrNull (rpl sel), es := a.es.keepOrNull (rpl sel), fs := a.fs.keepOrNull (rpl sel)
      gs := a.gs.keepOrNull (rpl sel) } := by
  have toB : Access a b := Access.order.trans (Access.order.trans (Access.order.trans begun
    ((stackRead_access _ _).ok readEsp)) (Access.order.trans ((stackRead_access _ _).ok readSs) passes.access))
    ((setAccessed_access _ _).ok accessed)
  obtain ⟨b, rfl⟩ : ∃ y, b = a.rollback y := ⟨b, toB.1⟩
  have left := ((setAccessed_access _ _).ok stackAccessed).1
  refine (outerReturn_checked readEsp readSs passes).trans ((require_pass (decide_eq_true inside)).trans
    ((bind_ok (returnCode_ok accessed)).trans ((bind_ok (setFlags_run _ _)).trans
      ((leaveInner_ok stackAccessed).trans ?_))))
  rw [left, ← pe]
  rfl

end

end

/-! ## RET far -/

section
variable {s u v t : State} {w : Width} {extra : Word16}

theorem returnFar_real (pe : s.cr0.pe = false) : returnFar w extra s = returnFarReal w extra s := by
  simp only [returnFar, bind_run, get_run, pe, Bool.false_eq_true, if_false]

theorem returnFar_protected (pe : s.cr0.pe = true) : returnFar w extra s = returnFarProtected w extra s := by
  simp only [returnFar, bind_run, get_run, pe, if_true]

section
variable {ip sel : Val w} (popIp : pop w s = .ok ip u) (popSel : pop w u = .ok sel v)
include popIp popSel

theorem returnFarReal_popped : returnFarReal w extra s = (do
    require (decide ((ip.setWidth 32 : Word32).toNat ≤ s.cs.limit.toNat)) gp0
    enterRealCode (sel.setWidth 16) (ip.setWidth 32)
    modify fun t : State => t.moveSP (extra.setWidth 32)) v := by
  obtain ⟨-, csU⟩ := pop_keeps popIp
  obtain ⟨-, csV⟩ := pop_keeps popSel
  rw [← csU, ← csV]
  exact (bind_ok popIp).trans ((bind_ok popSel).trans (bind_ok (get_run v)))

theorem returnFarReal_inside (inside : (ip.setWidth 32 : Word32).toNat ≤ s.cs.limit.toNat) : returnFarReal w extra s =
    .ok () ((v.realFar (sel.setWidth 16) (ip.setWidth 32)).moveSP (extra.setWidth 32)) :=
  (returnFarReal_popped popIp popSel).trans ((require_pass (decide_eq_true inside)).trans
    (bind_ok (enterRealCode_run _ _ v)))

theorem returnFarReal_beyond (beyond : s.cs.limit.toNat < (ip.setWidth 32 : Word32).toNat) :
    returnFarReal w extra s = .error (.exc gp0) v :=
  (returnFarReal_popped popIp popSel).trans (require_stop (decide_eq_false (Nat.not_le.mpr beyond)))

end

theorem returnFarProtected_noFrame (outside : stackHolds s 0 w 2 = false) :
    returnFarProtected w extra s = .error (.exc ss0) s := (bind_ok (get_run s)).trans (require_stop outside)

/-- Once the offset and the selector have been read, the code selector is checked, and the return goes to the same level or
to an outer one (R536, R537). -/
theorem returnFarProtected_read {ip : Val w} {sel : Word16} (holds : stackHolds s 0 w 2 = true)
    (readIp : stackRead w 0 s = .ok ip u) (readSel : stackRead .b16 (distOf w) u = .ok sel v) :
    returnFarProtected w extra s = (do
      let c ← checkReturnCode sel
      let x : Word32 := extra.setWidth 32
      if s.cpl < rpl sel then
        outerReturn w (stackHolds s (2 * distOf w + x) w 2) (2 * distOf w + x) (3 * distOf w + x) x (ip.setWidth 32) sel c id
      else sameReturn (2 * distOf w + x) (ip.setWidth 32) sel c id) v := by
  refine (bind_ok (get_run s)).trans ((require_pass holds).trans ((bind_ok readIp).trans ((bind_ok readSel).trans ?_)))
  rfl

end

/-- Settles O23: the frame is read, the code selector checked, and the return is one of the two. -/
theorem farReturn : Obligations.FarReturn := by
  intro s imm lock extra i
  have outcome : exec i s = settle s (returnFar s.opw imm s.entered) := run_settle lock
  refine ⟨fun zero => by subst zero; rfl, fun ip sel u v pe popIp popSel => ?_, fun pe outside => ?_,
    fun ip sel u v pe holds readIp readSel => ?_⟩
  · rw [returnFar_real (s := s.entered) pe] at outcome
    exact ⟨fun inside => outcome.trans (congrArg (settle s) (returnFarReal_inside popIp popSel inside)),
      fun beyond => outcome.trans (settle_exc (returnFarReal_beyond popIp popSel beyond))⟩
  · rw [returnFar_protected (s := s.entered) pe] at outcome
    exact outcome.trans (settle_exc (returnFarProtected_noFrame outside))
  intro off
  have readUp := Access.order.trans ((stackRead_access _ _).ok readIp) ((stackRead_access _ _).ok readSel)
  rw [returnFar_protected (s := s.entered) pe, returnFarProtected_read (s := s.entered) holds readIp readSel] at outcome
  obtain ⟨y, rfl⟩ := readUp.exists_through
  refine ⟨fun e x fails => outcome.trans (settle_exc (bind_error (checkReturnCode_fails (s := s.through y) fails))),
    fun c x passes => ?_⟩
  have checked := Access.order.trans readUp passes.access
  obtain ⟨z, rfl⟩ := checked.exists_through
  have chosen := outcome.trans (congrArg (settle s) (bind_ok (checkReturnCode_passes (s := s.through y) passes)))
  have same (level : rpl sel = s.cpl) :
      exec i s = settle s (sameReturn (2 * distOf s.opw + extra) off sel c id (s.through z)) :=
    chosen.trans (congrArg (fun m : M Unit => settle s (m _)) (if_neg fun below => BitVec.lt_irrefl _ (level ▸ below)))
  have outer (below : s.cpl < rpl sel) : exec i s = settle s (outerReturn s.opw
      (stackHolds s (2 * distOf s.opw + extra) s.opw 2) (2 * distOf s.opw + extra) (3 * distOf s.opw + extra) extra off sel
      c id (s.through z)) :=
    chosen.trans (congrArg (fun m : M Unit => settle s (m _)) (if_pos below))
  refine ⟨fun level beyond => (same level).trans (settle_exc (sameReturn_beyond beyond)), fun level inside y accessed => ?_,
    fun below noFrame => ?_, fun below frame nesp nss y v readEsp readSs => ?_⟩
  · obtain ⟨q, rfl⟩ := (Access.order.trans checked ((setAccessed_access _ _).ok accessed)).exists_through
    exact (same level).trans (congrArg (settle s) (sameReturn_ok inside accessed level))
  · rw [outer below, noFrame]
    exact settle_exc outerReturn_noFrame
  · have outcome := outer below
    rw [frame] at outcome
    refine ⟨fun e a fails => outcome.trans (settle_exc (outerReturn_stackFails readEsp readSs fails)), fun d a passes =>
      ⟨fun beyond => outcome.trans (settle_exc (outerReturn_beyond readEsp readSs passes beyond)), ?_⟩⟩
    intro b t inside accessed stackAccessed
    have toB := Access.order.trans (Access.order.trans (Access.order.trans checked ((stackRead_access _ _).ok readEsp))
      (Access.order.trans ((stackRead_access _ _).ok readSs) passes.access)) ((setAccessed_access _ _).ok accessed)
    obtain ⟨q, rfl⟩ := toB.exists_through
    exact outcome.trans (congrArg (settle s)
      (outerReturn_ok (flags := id) readEsp readSs passes checked pe inside accessed stackAccessed))

/-! ## IRET -/

section
variable {s u v x t : State} {w : Width} {sz : Size}

theorem interruptReturn_frame (pe : s.cr0.pe = true) (nt : s.flags.nt = false) : interruptReturn sz s =
    (iretFrame sz.width sz >>= fun _ => modify fun t => { t with nmiLatch := false, cur := { t.cur with keepRf := true } })
      s := by
  simp only [interruptReturn, bind_run, get_run, pe, nt, Bool.not_true, Bool.false_eq_true, if_false]

theorem iretFrame_noFrame (outside : stackHolds s 0 w 3 = false) : iretFrame w sz s = .error (.exc ss0) s :=
  (bind_ok (get_run s)).trans (require_stop outside)

section
variable {ip fl : Val w} {sel : Word16} (holds : stackHolds s 0 w 3 = true) (readIp : stackRead w 0 s = .ok ip u)
  (readSel : stackRead .b16 (distOf w) u = .ok sel v) (readFlags : stackRead w (2 * distOf w) v = .ok fl x)
include holds readIp readSel readFlags

theorem iretFrame_vm (vm : (decide (sz = .s32) && (fl.setWidth 32 : Word32).getLsbD 17 && s.cpl == 0) = true) :
    iretFrame w sz s = .error (.refuse .virtual8086) x := by
  refine (bind_ok (get_run s)).trans ((require_pass holds).trans ((bind_ok readIp).trans ((bind_ok readSel).trans
    ((bind_ok readFlags).trans ?_))))
  simp only [vm, if_true]
  rfl

/-- Once the frame has been read, the code selector is checked, and the return goes to the same level or to an outer one
(R545, R546). -/
theorem iretFrame_read (vm : (decide (sz = .s32) && (fl.setWidth 32 : Word32).getLsbD 17 && s.cpl == 0) = false) :
    iretFrame w sz s = (do
      let c ← checkReturnCode sel
      let load (f : Flags) : Flags := f.load (fl.setWidth 32) sz s.cpl
      if s.cpl < rpl sel then
        outerReturn w (stackHolds s 0 w 5) (3 * distOf w) (4 * distOf w) 0 (ip.setWidth 32) sel c load
      else sameReturn (3 * distOf w) (ip.setWidth 32) sel c load) x := by
  refine (bind_ok (get_run s)).trans ((require_pass holds).trans ((bind_ok readIp).trans ((bind_ok readSel).trans
    ((bind_ok readFlags).trans ?_))))
  have noMore (y : Word32) : y + 0 = y := BitVec.add_zero y
  simp only [vm, Bool.false_eq_true, if_false, outerReturn, noMore]
  rfl

end

end

/-- Settles O33: the frame is read, the code selector checked, and the return is one of the two, with the flags loaded at the
level of before. -/
theorem interruptReturnProtected : Obligations.InterruptReturnProtected := by
  intro wide s pe nt lock sz i n
  have outcome : exec i s = settle s ((iretFrame sz.width sz >>= fun _ =>
      modify fun t => { t with nmiLatch := false, cur := { t.cur with keepRf := true } }) s.entered) :=
    (exec_interruptReturn wide s).trans ((run_settle lock).trans
      (congrArg (settle s) (interruptReturn_frame (s := s.entered) pe nt)))
  have stops {e : Exn} {t : State} (h : iretFrame sz.width sz s.entered = .error (.exc e) t) :
      exec i s = takeFault s t e := outcome.trans (settle_exc (bind_error h))
  have ends {t : State} (h : iretFrame sz.width sz s.entered = .ok () t) :
      exec i s = .next { t with nmiLatch := false, cur := { t.cur with keepRf := true } } :=
    outcome.trans (congrArg (settle s) (bind_ok h))
  refine ⟨fun outside => stops (iretFrame_noFrame outside), fun ip fl sel a b x holds readIp readSel readFlags => ?_⟩
  intro off image flags vm
  have vm_iff : (decide (sz = .s32) && (fl.setWidth 32 : Word32).getLsbD 17 && s.cpl == 0) = true ↔ vm := by
    have size : sz = .s32 ↔ wide = true := by cases wide <;> decide
    simp only [Bool.and_eq_true, decide_eq_true_eq, beq_iff_eq, size, BitVec.getLsbD_setWidth, and_assoc, vm]
    simp
  have loaded : s.flags.load (fl.setWidth 32) sz s.cpl = flags := by cases wide <;> rfl
  have readUp := Access.order.trans (Access.order.trans ((stackRead_access _ _).ok readIp)
    ((stackRead_access _ _).ok readSel)) ((stackRead_access _ _).ok readFlags)
  obtain ⟨y, rfl⟩ := readUp.exists_through
  refine ⟨fun isVm => ?_, fun e t notVm fails => ?_, fun c t notVm passes => ?_⟩
  · rw [outcome, bind_error (iretFrame_vm (s := s.entered) holds readIp readSel readFlags (vm_iff.mpr isVm))]
    rfl
  · have read := iretFrame_read (s := s.entered) holds readIp readSel readFlags
      (Bool.eq_false_iff.mpr fun h => notVm (vm_iff.mp h))
    exact stops (read.trans (bind_error (checkReturnCode_fails (s := s.through y) fails)))
  have read := iretFrame_read (s := s.entered) holds readIp readSel readFlags
    (Bool.eq_false_iff.mpr fun h => notVm (vm_iff.mp h))
  have checked := Access.order.trans readUp passes.access
  obtain ⟨z, rfl⟩ := checked.exists_through
  have chosen := read.trans (bind_ok (checkReturnCode_passes (s := s.through y) passes))
  let load (f : Flags) : Flags := f.load (fl.setWidth 32) sz s.cpl
  have same (level : rpl sel = s.cpl) :
      iretFrame sz.width sz s.entered = sameReturn (3 * n) off sel c load (s.through z) :=
    chosen.trans (congrArg (fun m : M Unit => m _) (if_neg fun below => BitVec.lt_irrefl _ (level ▸ below)))
  have outer (below : s.cpl < rpl sel) : iretFrame sz.width sz s.entered =
      outerReturn sz.width (stackHolds s 0 sz.width 5) (3 * n) (4 * n) 0 off sel c load (s.through z) :=
    chosen.trans (congrArg (fun m : M Unit => m _) (if_pos below))
  refine ⟨fun level beyond => stops ((same level).trans (sameReturn_beyond beyond)), fun level inside v accessed => ?_,
    fun below noFrame => ?_, fun below frame nesp nss u v readEsp readSs => ?_⟩
  · obtain ⟨q, rfl⟩ := (Access.order.trans checked ((setAccessed_access _ _).ok accessed)).exists_through
    have returned := (same level).trans (sameReturn_ok inside accessed level)
    rw [← loaded]
    exact ends returned
  · have returned := outer below
    rw [noFrame] at returned
    exact stops (returned.trans outerReturn_noFrame)
  · have returned := outer below
    rw [frame] at returned
    refine ⟨fun e t fails => stops (returned.trans (outerReturn_stackFails readEsp readSs fails)), fun d t passes =>
      ⟨fun beyond => stops (returned.trans (outerReturn_beyond readEsp readSs passes beyond)), ?_⟩⟩
    intro p t inside accessed stackAccessed
    have toP := Access.order.trans (Access.order.trans (Access.order.trans checked ((stackRead_access _ _).ok readEsp))
      (Access.order.trans ((stackRead_access _ _).ok readSs) passes.access)) ((setAccessed_access _ _).ok accessed)
    obtain ⟨q, rfl⟩ := toP.exists_through
    rw [← loaded] at stackAccessed ⊢
    have left := outerReturn_ok (flags := load) (extra := 0) readEsp readSs passes checked pe inside accessed stackAccessed
    have noMore (y : Word32) : y + 0 = y := BitVec.add_zero y
    rw [noMore] at left
    exact ends (returned.trans left)

end Sys2Proof.Machine

/-! # Selectors, descriptor-table registers, control, debug and test registers, and pointer validation
(47_segment_misc.md R621; 48_system.md R660 to R683) -/

namespace Sys2Proof.Machine

/-! ## Selectors and the machine status word -/

section
variable {s u : State}

theorem storeSelector_reg (r : Reg) (v : Word16) (s : State) :
    storeSelector (.reg r) v s = .ok () (match s.cur.opSize with
    | .s16 => s.withReg .b16 r v
    | .s32 => s.withReg .b32 r (v.setWidth 32)) := by
  refine (bind_ok (get_run s)).trans ?_
  cases h : s.cur.opSize <;> rfl

theorem storeSelector_mem {m : Mem} {l : Loc} (found : locate .b16 (.mem m) true true s = .ok l u) (v : Word16) :
    storeSelector (.mem m) v s = .ok () (u.stored .b16 l v) := (bind_ok (get_run s)).trans (writeRM_ok found v)

/-- The status word holds the defined bits of CR0 at their places (R669; 10_state.md R50). -/
theorem Cr0.image_low (c : Cr0) (free : Word32) :
    let word := low16 (c.image free)
    word.getLsbD 0 = c.pe ∧ word.getLsbD 1 = c.mp ∧ word.getLsbD 2 = c.em ∧ word.getLsbD 3 = c.ts ∧
      word.getLsbD 4 = c.et := by
  simp [low16, Cr0.image, bit_getElem]

theorem storeMsw_mem {m : Mem} {l : Loc} (found : locate .b16 (.mem m) true true { s with free := s.free + 1 } = .ok l u) :
    storeMsw (.mem m) s = .ok () (u.stored .b16 l (low16 (s.cr0.image (Config.freeValue s.free)))) :=
  (bind_ok (get_run s)).trans ((bind_ok (draw_run s)).trans (writeRM_ok found _))

theorem storeMsw_reg16 (r : Reg) (size : s.cur.opSize = .s16) : storeMsw (.reg r) s =
    .ok () ({ s with free := s.free + 1 }.withReg .b16 r (low16 (s.cr0.image (Config.freeValue s.free)))) := by
  simp only [storeMsw, bind_run, get_run, draw_run, size]
  rfl

theorem storeMsw_reg32 (r : Reg) (size : s.cur.opSize = .s32) : storeMsw (.reg r) s =
    .ok () ({ s with free := s.free + 2 }.withReg .b32 r
      ((Config.freeValue (s.free + 1)).extractLsb' 16 16 ++ low16 (s.cr0.image (Config.freeValue s.free)))) := by
  simp only [storeMsw, bind_run, get_run, draw_run, size]
  rfl

end

/-- Settles O43: the three selectors are stored by one operation, the status word by its own. -/
theorem selectorStores : Obligations.SelectorStores := by
  refine ⟨⟨fun n rm s reserved lock => ?_, fun s v i wf lock form => ?_⟩, fun s wf lock => ?_⟩
  · have none : sregOf n = none := by
      revert reserved
      revert n
      decide
    exact run_unlocked_exc lock (by simp only [movFromSeg, bind_run, get_run, none, raise])
  · have stores (rm : RM) : exec (i rm) s = settle s (storeSelector rm v s.entered) := by
      rcases form with ⟨n, r, named, rfl, rfl⟩ | ⟨pe, rfl, rfl⟩ | ⟨pe, rfl, rfl⟩
      · refine (run_settle lock).trans (congrArg (settle s) ?_)
        simp only [movFromSeg, bind_run, get_run, named]
        rfl
      · exact (run_settle lock).trans (congrArg (settle s) (protectedOnly_protected (s := s.entered) pe))
      · exact (run_settle lock).trans (congrArg (settle s) (protectedOnly_protected (s := s.entered) pe))
    refine ⟨fun r => ?_, fun m l u found => ?_⟩
    · refine (stores (.reg r)).trans ((congrArg (settle s) (storeSelector_reg r v s.entered)).trans ?_)
      rfl
    · have reached := (locate_reading _ _ _ _).ok found
      rw [← reached.through]
      exact ⟨(stores (.mem m)).trans (congrArg (settle s) (storeSelector_mem found v)), reached.stored_kept (w := .b16) wf v⟩
  · refine ⟨s.cr0.image_low _, fun r size => run_unlocked lock (storeMsw_reg16 (s := s.entered) r size),
      fun r size => ⟨_, run_unlocked lock (storeMsw_reg32 (s := s.entered) r size)⟩, fun m l u found => ?_⟩
    have reached := (locate_reading _ _ _ _).ok found
    rw [← reached.1.1]
    exact ⟨run_unlocked lock (storeMsw_mem (s := s.entered) found), stored_kept (reached.wf wf) _ _ _⟩

/-! ## Descriptor-table registers -/

/-- Storing at a place keeps the canonical form of memory, and no other bus master is about to write what it was not. -/
theorem stored_order (s : State) (w : Width) (l : Loc) (v : Val w) :
    (s.mem.wf = true → (s.stored w l v).mem.wf = true) ∧ ∀ x, (s.stored w l v).outside x → s.outside x := by
  cases l with
  | reg r => exact ⟨id, fun _ => id⟩
  | mem pas => exact ⟨(stored_access s w pas v).2.1, fun _ o => (stored_access s w pas v).outside o⟩

/-- Storing at two places, one after the other, keeps every other byte. -/
theorem stored_twice_kept {s : State} (wf : s.mem.wf = true) {w w' : Width} {p q : Loc} (a : Val w) (b : Val w') {x : Nat}
    (notFirst : ¬ p.covers x) (notSecond : ¬ q.covers x) (still : ¬ s.outside x) :
    ((s.stored w p a).stored w' q b).mem.get x = s.mem.get x :=
  have ⟨wfFirst, fewer⟩ := stored_order s w p a
  (stored_kept (wfFirst wf) w' q b x notSecond fun o => still (fewer x o)).trans (stored_kept wf w p a x notFirst still)

section
variable {s u v : State} {m : Mem}

/-- LGDT and LIDT read the limit and then the base. -/
theorem readTable_ok {limit : Word16} {base : Word32}
    (low : segRead .b16 (s.segOr (defaultSeg m)) (effAddr s.regs m) s = .ok limit u)
    (high : segRead .b32 (s.segOr (defaultSeg m)) (effAddr s.regs m + 2) u = .ok base v) :
    readTable m s =
      .ok { base := if s.cur.opSize = .s16 then base &&& 0x00FFFFFF else base, limit := limit } v := by
  refine (bind_ok (get_run s)).trans ((bind_ok low).trans ((bind_ok high).trans ?_))
  cases h : s.cur.opSize <;> rfl

/-- The base that SGDT and SIDT store (R661): with OpSize 16 its top byte is free. -/
def State.storedBase (s : State) (table : TableReg) : Word32 := match s.cur.opSize with
  | .s16 => (Config.freeValue s.free).extractLsb' 24 8 ++ table.base.extractLsb' 0 24
  | .s32 => table.base

theorem storedBase_low (s : State) (table : TableReg) :
    (s.storedBase table).setWidth 24 = table.base.setWidth 24 := by
  unfold State.storedBase
  cases s.cur.opSize with
  | s16 =>
    refine BitVec.eq_of_getLsbD_eq fun i inside => ?_
    simp only [BitVec.getLsbD_setWidth, BitVec.getLsbD_append, BitVec.getLsbD_extractLsb', inside, decide_true,
      Bool.true_and, if_pos, Nat.zero_add]
  | s32 => rfl

theorem storedBase_s32 {table : TableReg} (size : s.cur.opSize = .s32) : s.storedBase table = table.base := by
  rw [State.storedBase, size]

theorem storeTable_ok {p q : Loc} (table : TableReg)
    (low : memLoc .b16 (s.segOr (defaultSeg m)) (effAddr s.regs m) true true { s with free := s.free + 1 } = .ok p u)
    (high : memLoc .b32 (s.segOr (defaultSeg m)) (effAddr s.regs m + 2) true true u = .ok q v) :
    storeTable m table s = .ok () ((v.stored .b16 p table.limit).stored .b32 q (s.storedBase table)) :=
  (bind_ok (get_run s)).trans ((bind_ok (draw_run s)).trans ((bind_ok low).trans ((bind_ok high).trans
    ((bind_ok (writeLoc_ok .b16 p table.limit v)).trans (writeLoc_ok .b32 q _ _)))))

end

/-- Settles O44: both parts of the operand are found, or read, one after the other. -/
theorem descriptorTables : Obligations.DescriptorTables := by
  intro m s wf lock r ea
  refine ⟨fun limit base u v level low high => ?_, fun p q u v low high => ?_⟩
  · have read := Reading.order.trans ((segRead_reading _ _ _).ok low) ((segRead_reading _ _ _).ok high)
    refine ⟨?_, ?_, fun pg => read.keptSince pg wf⟩
    all_goals
      obtain ⟨x, rfl⟩ := read.1.exists_through
      exact run_unlocked lock ((privileged_inner (s := s.entered) level).trans
        (bind_ok (readTable_ok (s := s.entered) low high)))
  · have reached := Reading.order.trans (Reading.order.trans (.of_rollback rfl)
      ((memLoc_reading _ _ _ _ _).ok low)) ((memLoc_reading _ _ _ _ _).ok high)
    have stores {i : Instr} {table : TableReg} (does : exec i s = settle s (storeTable m table s.entered)) :
        ∃ base : Word32, base.setWidth 24 = table.base.setWidth 24 ∧ (s.cur.opSize = .s32 → base = table.base) ∧
          exec i s = .next (((s.through v).stored .b16 p table.limit).stored .b32 q base) ∧
          ∀ x, ¬ p.covers x → ¬ q.covers x → ¬ v.outside x →
            (((s.through v).stored .b16 p table.limit).stored .b32 q base).mem.get x = v.mem.get x := by
      refine ⟨s.storedBase table, storedBase_low s table, storedBase_s32, ?_⟩
      rw [← reached.through]
      exact ⟨does.trans (congrArg (settle s) (storeTable_ok (s := s.entered) table low high)),
        fun x => stored_twice_kept (reached.wf wf) _ _⟩
    exact ⟨stores (run_settle lock), stores (run_settle lock)⟩

/-! ## LLDT and LTR -/

section
variable {d : Desc}

/-- The 80286 format has the types 1, available, and 3, busy. -/
theorem Desc.not_tss286 (one : d.isSys 1 = false) (three : d.isSys 3 = false) : d.tss286 = false := by
  rw [Desc.tss286, one, three]
  rfl

theorem Desc.not_tss286_of_available (h : d.isSys 9 = true) : d.tss286 = false :=
  Desc.tss286_of_isSys (k := .jmp) h

end

/-- Settles O45: the tests in the order the model makes them, each failing in turn. -/
theorem loadTableSelectors : Obligations.LoadTableSelectors := by
  intro rm sel s u pe level lock read
  have readUp := (readRM_access _ _).ok read
  obtain ⟨y, rfl⟩ := readUp.exists_through
  have ldt : loadLdt rm s.entered = _ :=
    (protectedOnly_protected (s := s.entered) pe).trans ((privileged_inner (s := s.entered) level).trans (bind_ok read))
  have task : loadTask rm s.entered = _ :=
    (protectedOnly_protected (s := s.entered) pe).trans ((privileged_inner (s := s.entered) level).trans (bind_ok read))
  refine ⟨fun null => ⟨?_, ?_⟩, fun named inLdt => ⟨?_, ?_⟩, fun d v named global found => ?_⟩
  · rw [null] at ldt
    exact run_unlocked lock ldt
  · exact run_unlocked_exc lock (task.trans (require_stop (by rw [null]; rfl)))
  · rw [named] at ldt
    exact run_unlocked_exc lock (ldt.trans (require_stop (by rw [inLdt]; rfl)))
  · exact run_unlocked_exc lock (task.trans ((require_pass (by rw [named]; rfl)).trans
      (require_stop (by rw [inLdt]; rfl))))
  · rw [named] at ldt
    have upFound := Access.order.trans readUp ((readDesc_access _ _).ok found)
    obtain ⟨z, rfl⟩ := upFound.exists_through
    have ldtFound := ldt.trans ((require_pass (by rw [global]; rfl)).trans (bind_ok found))
    have taskFound := task.trans ((require_pass (by rw [named]; rfl)).trans
      ((require_pass (by rw [global]; rfl)).trans (bind_ok found)))
    refine ⟨fun other => ?_, fun type absent => ?_, fun type present => ?_, fun format => ?_, fun one three other => ?_,
      fun type absent => ?_, fun x type present busy => ?_⟩
    · exact run_unlocked_exc lock (ldtFound.trans (require_stop other))
    · exact run_unlocked_exc lock (ldtFound.trans ((require_pass type).trans (require_stop absent)))
    · exact run_unlocked lock (ldtFound.trans ((require_pass type).trans (require_pass present)))
    · rw [show d.tss286 = true from Bool.or_eq_true_iff.mpr format] at taskFound
      exact run_unlocked_refuse lock taskFound
    · rw [Desc.not_tss286 one three] at taskFound
      exact run_unlocked_exc lock (taskFound.trans (require_stop other))
    · rw [Desc.not_tss286_of_available type] at taskFound
      exact run_unlocked_exc lock (taskFound.trans ((require_pass type).trans (require_stop absent)))
    · rw [Desc.not_tss286_of_available type] at taskFound
      obtain ⟨w, rfl⟩ := (Access.order.trans upFound ((setBusy_access _ _).ok busy)).exists_through
      exact run_unlocked lock (taskFound.trans ((require_pass type).trans ((require_pass present).trans (bind_ok busy))))

end Sys2Proof.Machine

/-! # Control, debug and test registers (48_system.md R668, R675, R680 to R683) -/

namespace Sys2Proof.Machine

/-! ## Control registers -/

section
variable {r : Reg} {s t : State}

/-- A byte the prefetch queue may hold beside memory came from where the tables in force gave it a place. -/
theorem remapByte_old {off : Word32} {x : Stale} (stale : x ∈ remapByte s t off) :
    ∃ pa, s.peekPhys (s.cs.base + off) = some pa ∧ x.old = s.mem.get pa.toNat := by
  unfold remapByte at stale
  split at stale
  case h_1 p q before after =>
    split at stale
    · cases stale
    · rw [List.mem_singleton.mp stale]
      exact ⟨p, before, rfl⟩
  case h_2 => cases stale

/-- A change of CR3 keeps what was prefetched, with paging on also bytes that the old tables gave (20_memory.md R138). -/
theorem State.setCr3_eq (s : State) (v : Word32) : ∃ queue : List Stale,
    s.setCr3 v = { s with cr3 := v &&& 0xFFFFF000, tlb := [], prefetch := queue } ∧
      (s.cr0.pg = false → queue = s.prefetch) ∧
      ∀ x ∈ queue, x ∈ s.prefetch ∨ ∃ off pa, s.peekPhys (s.cs.base + off) = some pa ∧ x.old = s.mem.get pa.toNat := by
  unfold State.setCr3
  cases paging : s.cr0.pg with
  | false => exact ⟨s.prefetch, rfl, fun _ => rfl, fun x listed => .inl listed⟩
  | true =>
    refine ⟨_, rfl, nofun, fun x listed => ?_⟩
    rcases List.mem_append.mp listed with fresh | kept
    · obtain ⟨off, -, stale⟩ := List.mem_flatMap.mp fresh
      exact .inr ⟨off, remapByte_old stale⟩
    · exact .inl kept

/-- A change of CR0 changes besides it what was prefetched and whether the mode is out of date there. -/
theorem State.setCr0_eq (s : State) (c : Cr0) :
    s.setCr0 c = { s with cr0 := c, prefetch := (s.setCr0 c).prefetch, modeStale := (s.setCr0 c).modeStale } := by
  unfold State.setCr0
  split <;> rfl

end

/-- Settles O46: MOV from and to each register is one read or change, CR0 and CR3 through the rules of prefetching. -/
theorem controlRegisters : Obligations.ControlRegisters := by
  intro r s level lock value drawn
  have inner {f : Unit → M Unit} : run false (privileged >>= f) s = settle s (f () s.entered) :=
    (run_settle lock).trans (congrArg (settle s) (privileged_inner (s := s.entered) level))
  refine ⟨⟨inner, inner, ⟨_, inner, ?_⟩⟩, inner, ?_, fun pg pe => ?_, fun allowed => ?_, fun n not0 not2 not3 => ?_, inner,
    fun rm v u read => ?_⟩
  · simp [Cr0.image, bit_getElem]
  · obtain ⟨queue, loaded, kept, stale⟩ := s.entered.setCr3_eq value
    exact ⟨queue, inner.trans (congrArg (fun t : State => Host.Outcome.next (t.effect allUndef)) loaded), kept, stale⟩
  · refine inner.trans ?_
    have refused : writeCr0 value s.entered = .error (.refuse .pagingInRealMode) s.entered := by
      rw [writeCr0, pg, pe]
      rfl
    exact congrArg (settle s) (bind_error refused)
  · have loaded : writeCr0 value s.entered = .ok () (s.entered.setCr0 (Cr0.ofWord value)) := by
      have passes : (value.getLsbD 31 && !value.getLsbD 0) = false := by
        rcases allowed with pg | pe
        · rw [pg]; rfl
        · rw [pe]; exact Bool.and_false _
      rw [writeCr0, passes]
      rfl
    refine ⟨(s.entered.setCr0 (Cr0.ofWord value)).effect allUndef, inner.trans (congrArg (settle s) (bind_ok loaded)), ?_⟩
    rw [State.setCr0_eq]
    exact ⟨rfl, rfl, rfl⟩
  · have other : n = 1 ∨ n = 4 ∨ n = 5 ∨ n = 6 ∨ n = 7 := by
      revert n
      decide
    rcases other with rfl | rfl | rfl | rfl | rfl
    all_goals exact ⟨inner, inner⟩
  · obtain ⟨y, rfl⟩ := ((readRM_access _ _).ok read).exists_through
    exact ⟨_, inner.trans (congrArg (settle s) (bind_ok read))⟩

/-! ## Debug and test registers -/

/-- A debug register holds what was written, under either name, and the others keep their values. -/
theorem DebugRegs.get_set (d : DebugRegs) (n : BitVec 3) (v : Word32) :
    (d.set n v).get n = v ∧
      ∀ k : BitVec 3, k ≠ n → ¬ (4 ≤ k.toNat ∧ k.toNat + 2 = n.toNat) → ¬ (4 ≤ n.toNat ∧ n.toNat + 2 = k.toNat) →
        (d.set n v).get k = d.get k := by
  have each (n : BitVec 3) : n = 0 ∨ n = 1 ∨ n = 2 ∨ n = 3 ∨ n = 4 ∨ n = 5 ∨ n = 6 ∨ n = 7 := by
    revert n
    decide
  rcases each n with rfl | rfl | rfl | rfl | rfl | rfl | rfl | rfl
  all_goals
    refine ⟨rfl, fun k other low high => ?_⟩
    rcases each k with rfl | rfl | rfl | rfl | rfl | rfl | rfl | rfl <;> simp_all [DebugRegs.get, DebugRegs.set]

/-- The test of a write of DR7, under either name (R682). -/
theorem enablesBreakpoint_iff (n : BitVec 3) (v : Word32) :
    ((n.toNat == 7 || n.toNat == 5) && v.extractLsb' 0 8 != 0) = true ↔ (n = 5 ∨ n = 7) ∧ v.setWidth 8 ≠ 0#8 := by
  have number : (n.toNat == 7 || n.toNat == 5) = true ↔ n = 5 ∨ n = 7 := by
    revert n
    decide
  rw [Bool.and_eq_true, number, bne_iff_ne]
  exact Iff.rfl

/-- Settles O47: after the tests of number and level each form is one read or one change. -/
theorem debugAndTestRegisters : Obligations.DebugAndTestRegisters := by
  intro r s lock value
  refine ⟨fun level => ?_, fun n not6 not7 => ?_⟩
  · have inner {f : Unit → M Unit} : run false (privileged >>= f) s = settle s (f () s.entered) :=
      (run_settle lock).trans (congrArg (settle s) (privileged_inner (s := s.entered) level))
    have test {n : BitVec 3} {f : Unit → M Unit} (named : decide (6 ≤ n.toNat) = true) :
        run false (testNumber n >>= fun _ => privileged >>= f) s = settle s (f () s.entered) :=
      (run_settle lock).trans (congrArg (settle s)
        ((require_pass (s := s.entered) named).trans (privileged_inner (s := s.entered) level)))
    have writes (n : BitVec 3) : exec (.movDrnR32 n r) s = settle s ((do
        if (n.toNat == 7 || n.toNat == 5) && value.extractLsb' 0 8 != 0 then refuse .breakpoint
        modify fun s => { s with dbg := s.dbg.set n value }
        setEffect allUndef : M Unit) s.entered) := inner
    refine ⟨fun n => inner, fun n dr7 enabled => (writes n).trans ?_, fun n allowed =>
      ⟨s.dbg.set n value, (writes n).trans ?_, s.dbg.get_set n value⟩, test rfl, test rfl, test rfl, test rfl⟩
    · rw [(enablesBreakpoint_iff n value).mpr ⟨dr7, enabled⟩]
      rfl
    · rw [eq_false_of_ne_true (mt (enablesBreakpoint_iff n value).mp allowed)]
      rfl
  · have below : decide (6 ≤ n.toNat) = false := by
      revert n
      decide
    have stops {f : Unit → M Unit} : run false (testNumber n >>= f) s = takeFault s s.entered ud :=
      run_unlocked_exc lock (require_stop (s := s.entered) below)
    exact ⟨stops, stops⟩

end Sys2Proof.Machine

/-! # Pointer validation (48_system.md R670 to R674) -/

namespace Sys2Proof.Machine

section
variable {rm : RM} {r : Reg} {sel : Word16} {found : Option Desc} {s u v x : State} {ok : Desc → Bool}

theorem Desc.larType_eq (d : Desc) :
    d.larType = (d.s || decide (d.type ∈ ([1, 2, 3, 4, 5, 9, 0xB, 0xC] : List (BitVec 4)))) := by
  unfold Desc.larType Desc.isSys
  generalize d.type = type
  cases d.s with
  | true => rfl
  | false => revert type; decide

theorem Desc.lslType_eq (d : Desc) :
    d.lslType = (d.s || decide (d.type ∈ ([1, 2, 3, 9, 0xB] : List (BitVec 4)))) := by
  unfold Desc.lslType Desc.isSys
  generalize d.type = type
  cases d.s with
  | true => rfl
  | false => revert type; decide

/-- Whether the descriptor found, if any, answers the question asked and is visible at the level (R671). -/
def visible (cpl : BitVec 2) (sel : Word16) (ok : Desc → Bool) : Option Desc → Bool
  | some d => ok d && d.dataPrivilege cpl sel
  | none => false

theorem inspectDesc_ok (inspected : if selNull sel then found = none ∧ v = u else findDesc sel u = .ok found v) :
    inspectDesc sel u = .ok found v := by
  unfold inspectDesc
  split at inspected
  case isTrue null =>
    obtain ⟨rfl, rfl⟩ := inspected
    rw [if_pos null]
    rfl
  case isFalse named => rwa [if_neg named]

/-- The mask of the access rights LAR loads (R671). -/
theorem Desc.rights_opw (s : State) (d : Desc) :
    d.rights s.opw = d.hi &&& (if s.cur.opSize = .s16 then 0xFF00 else 0x00F0FF00) := by
  unfold State.opw
  cases s.cur.opSize <;> rfl

/-- The four instructions that look at a descriptor: the operand is read, and then the descriptor. -/
theorem inspect_ok {f : Word16 → State → Option Desc → M Unit} (pe : s.cr0.pe = true)
    (read : readRM .b16 rm s = .ok sel u) (inspected : inspectDesc sel u = .ok found v) : (do
      protectedOnly
      let sel ← readRM .b16 rm
      let s ← get
      let found ← inspectDesc sel
      f sel s found) s = f sel u found v :=
  (protectedOnly_protected pe).trans ((bind_ok read).trans ((bind_ok (get_run u)).trans (bind_ok inspected)))

/-- VERR and VERW set ZF by what they find. -/
theorem verify_ok (pe : s.cr0.pe = true) (read : readRM .b16 rm s = .ok sel u)
    (inspected : inspectDesc sel u = .ok found v) :
    verify ok rm s = .ok () { v with flags := { v.flags with zf := visible u.cpl sel ok found } } := by
  refine (inspect_ok pe read inspected).trans ?_
  cases found <;> rfl

/-- LAR and LSL write nothing but ZF where they find nothing visible. -/
theorem inspectInto_hidden {w : Width} {value : Desc → Word32} (pe : s.cr0.pe = true)
    (read : readRM .b16 rm s = .ok sel u) (inspected : inspectDesc sel u = .ok found v)
    (hidden : visible u.cpl sel ok found = false) :
    inspectInto w ok value r rm s =
      .ok () { v with flags := { v.flags with zf := visible u.cpl sel ok found } } := by
  refine (inspect_ok pe read inspected).trans ?_
  rw [hidden]
  cases found with
  | none => rfl
  | some d => exact congrFun (if_neg (Bool.not_eq_true _ ▸ hidden)) v

/-- LAR and LSL load what they are asked for of a visible descriptor. -/
theorem inspectInto_visible {w : Width} {value : Desc → Word32} {d : Desc} (pe : s.cr0.pe = true)
    (read : readRM .b16 rm s = .ok sel u) (inspected : inspectDesc sel u = .ok (some d) v)
    (seen : visible u.cpl sel ok (some d) = true) :
    inspectInto w ok value r rm s =
      .ok () ({ v with flags := { v.flags with zf := visible u.cpl sel ok (some d) } }.withReg w r
        ((value d).setWidth w.bits)) := by
  refine (inspect_ok pe read inspected).trans ?_
  rw [seen]
  exact congrFun (if_pos seen) v

theorem stored_flags (s : State) (w : Width) (l : Loc) (v : Val w) : (s.stored w l v).flags = s.flags := by
  cases l with
  | reg r => rfl
  | mem pas => exact (stored_access s w pas v).flags

/-- ARPL where the RPL is at least that of the register. -/
theorem adjustRpl_kept {p : Loc} {d : Word16} (pe : s.cr0.pe = true) (found : locate .b16 rm true false s = .ok p u)
    (read : readRM .b16 rm u = .ok d v) (enough : rpl (s.regs.read .b16 r) ≤ rpl d) :
    adjustRpl rm r s = .ok () { v with flags := { v.flags with zf := false } } := by
  refine (protectedOnly_protected pe).trans ((bind_ok (getReg_run .b16 r s)).trans ((bind_ok found).trans
    ((bind_ok read).trans ?_)))
  exact congrFun (if_neg (BitVec.not_lt.mpr enough)) v

/-- ARPL where it raises the RPL. -/
theorem adjustRpl_raised {p l : Loc} {d : Word16} (pe : s.cr0.pe = true) (found : locate .b16 rm true false s = .ok p u)
    (read : readRM .b16 rm u = .ok d v) (less : rpl d < rpl (s.regs.read .b16 r))
    (again : locate .b16 rm true true v = .ok l x) :
    adjustRpl rm r s = .ok () { x.stored .b16 l (withRpl d (rpl (s.regs.read .b16 r))) with
        flags := { (x.stored .b16 l (withRpl d (rpl (s.regs.read .b16 r)))).flags with zf := true } } := by
  refine (protectedOnly_protected pe).trans ((bind_ok (getReg_run .b16 r s)).trans ((bind_ok found).trans
    ((bind_ok read).trans ?_)))
  refine (congrFun (if_pos less) v).trans ?_
  exact (bind_ok again).trans (bind_ok (writeLoc_ok .b16 l _ x))

end

/-- Settles O48: one question put to the descriptor found, whose answer ZF gives. -/
theorem pointerValidation : Obligations.PointerValidation := by
  intro s pe wf lock
  refine ⟨fun rm r p l d u v x found read => ?_, fun rm r sel e u v read named fault i listed => ?_,
    fun rm r sel found u v read inspected => ?_⟩
  · have readUp := Reading.order.trans ((locate_reading _ _ _ _).ok found) ((readRM_reading _ _).ok read)
    refine ⟨fun enough => ?_, fun less again => ?_⟩
    · obtain ⟨y, rfl⟩ := readUp.1.exists_through
      exact run_unlocked lock (adjustRpl_kept (s := s.entered) pe found read enough)
    · have reached := Reading.order.trans readUp ((locate_reading _ _ _ _).ok again)
      have raised := adjustRpl_raised (s := s.entered) pe found read less again
      rw [stored_flags, reached.1.flags] at raised
      rw [← reached.through]
      exact ⟨run_unlocked lock raised, stored_kept (reached.wf wf) .b16 l _⟩
  · have readUp := (readRM_access _ _).ok read
    have inspected : inspectDesc sel u = .error (.exc e) v := by
      rw [inspectDesc, named]
      exact fault
    simp only [List.mem_cons, List.not_mem_nil, or_false] at listed
    rcases listed with rfl | rfl | rfl | rfl
    all_goals
      exact run_unlocked_exc lock ((protectedOnly_protected (s := s.entered) pe).trans ((bind_ok read).trans
        ((bind_ok (get_run u)).trans (bind_error inspected))))
  · have whole := inspectDesc_ok inspected
    have readUp := (readRM_access _ _).ok read
    have reached := Access.order.trans readUp (inspectDesc_access.ok whole)
    obtain ⟨y, rfl⟩ := readUp.exists_through
    obtain ⟨z, rfl⟩ := reached.exists_through
    intro lar lsl seen t
    have larIs : Desc.larType = lar := funext Desc.larType_eq
    have lslIs : Desc.lslType = lsl := funext Desc.lslType_eq
    have seenIs (ok : Desc → Bool) : visible s.cpl sel ok found = seen ok := by cases found <;> rfl
    have verifies (ok : Desc → Bool) : run false (verify ok rm) s = .next (t ok) := by
      have asked := verify_ok (s := s.entered) (ok := ok) pe read whole
      rw [show visible (s.through y).cpl sel ok found = seen ok from seenIs ok] at asked
      exact run_unlocked lock asked
    have hides {w : Width} {ok : Desc → Bool} {value : Desc → Word32} (hidden : seen ok = false) :
        run false (inspectInto w ok value r rm) s = .next (t ok) := by
      have asked := inspectInto_hidden (s := s.entered) (w := w) (value := value) (r := r) pe read whole
        ((seenIs ok).trans hidden)
      rw [show visible (s.through y).cpl sel ok found = seen ok from seenIs ok] at asked
      exact run_unlocked lock asked
    have loads {w : Width} {ok : Desc → Bool} {value : Desc → Word32} {d : Desc} (named : found = some d)
        (sees : seen ok = true) : run false (inspectInto w ok value r rm) s =
          .next ((t ok).withReg w r ((value d).setWidth w.bits)) := by
      subst named
      have asked := inspectInto_visible (s := s.entered) (w := w) (value := value) (r := r) pe read whole
        ((seenIs ok).trans sees)
      rw [show visible (s.through y).cpl sel ok (some d) = seen ok from seenIs ok] at asked
      exact run_unlocked lock asked
    rw [← larIs, ← lslIs]
    refine ⟨verifies _, verifies _, hides, hides, fun d named sees => (loads named sees).trans ?_,
      fun d named sees => loads named sees⟩
    rw [Desc.rights_opw]

end Sys2Proof.Machine

/-! # String instructions (45_string.md R570 to R577) and ports (49_io_coprocessor.md R701 to R704) -/

namespace Sys2Proof.Machine

/-! ## What an iteration leaves of the count -/

/-- The attributes of the instruction and the count are as they were. -/
def CountKept (s t : State) : Prop := t.cur = s.cur ∧ t.regs.ecx = s.regs.ecx

theorem CountKept.order : Order CountKept where
  refl _ := ⟨rfl, rfl⟩
  trans h k := ⟨k.1.trans h.1, k.2.trans h.2⟩

section
variable {α β : Type} {w : Width}

theorem Access.countKept {s t : State} (h : Access s t) : CountKept s t := by
  rw [h.1]
  exact ⟨rfl, rfl⟩

theorem Keeps.countKept {m : M α} (h : Keeps Access m) : Keeps CountKept m := h.mono fun _ _ => Access.countKept

/-- After an access. -/
theorem Keeps.countThen {m : M α} {f : α → M β} (h : Keeps Access m) (k : ∀ a, Keeps CountKept (f a)) :
    Keeps CountKept (m >>= f) := .bind CountKept.order h.countKept k

theorem setReg_countKept {r : Reg} (other : .ecx ≠ partReg w r) (v : Val w) : Keeps CountKept (setReg w r v) :=
  ⟨fun s => ⟨rfl, s.regs.get_write_other other v⟩⟩

theorem advance_countKept {r : Reg} (other : ∀ w, .ecx ≠ partReg w r) : Keeps CountKept (advance w r) :=
  .get_bind fun s => (setReg_countKept (other s.addrw) _).run s

theorem advance_esi_countKept : Keeps CountKept (advance w .esi) :=
  advance_countKept fun w => by cases w <;> decide

theorem advance_edi_countKept : Keeps CountKept (advance w .edi) :=
  advance_countKept fun w => by cases w <;> decide

theorem setEffect_countKept (e : FlagEffect) : Keeps CountKept (setEffect e) := ⟨fun _ => ⟨rfl, rfl⟩⟩

theorem setReg_eax_countKept (v : Val w) : Keeps CountKept (setReg w .eax v) :=
  setReg_countKept (by cases w <;> decide) v

end

/-! ## Ports -/

/-- Nothing changes but what an access changes without translation: no byte of memory but by other bus masters, not the
TLB and not CR2. -/
def PortAccess (s t : State) : Prop :=
  Reading s t ∧ t.tlb = s.tlb ∧ t.cr2 = s.cr2 ∧ (s.mem.wf = true → MemoryKept s t .nowhere)

theorem PortAccess.order : Order PortAccess where
  refl s := ⟨Reading.order.refl s, rfl, rfl, fun _ _ _ _ => rfl⟩
  trans := by
    rintro s t u ⟨reading, tlb, cr2, kept⟩ ⟨reading', tlb', cr2', kept'⟩
    exact ⟨Reading.order.trans reading reading', tlb'.trans tlb, cr2'.trans cr2, fun wf =>
      (kept wf).after (fun _ o => reading.1.outside o) (kept' (reading.1.2.1 wf))⟩

theorem PortAccess.ofOwn {s t : State} (h : t = { s with events := t.events, free := t.free }) : PortAccess s t := by
  refine ⟨.of_rollback h, ?_⟩
  rw [h]
  exact ⟨rfl, rfl, fun _ _ _ _ => rfl⟩

theorem PortAccess.cycle (s : State) : PortAccess s s.cycle :=
  ⟨Reading.cycle s, s.cycle_tlb, s.cycle_cr2, fun wf x _ still => (State.cycle_mem wf).2 x still⟩

theorem PortAccess.eq {s t : State} (h : PortAccess s t) :
    t = { s with mem := t.mem, prefetch := t.prefetch, masters := t.masters, events := t.events, free := t.free } := by
  obtain ⟨reading, tlb, cr2, -⟩ := h
  rw [reading.1.1, State.rollback, tlb, cr2]

theorem portInPiece_ok (port : Word16) (n : Nat) (s : State) : ∃ (v : Word32) (t : State),
    portInPiece port n s = .ok v t ∧ v.toNat < 2 ^ (8 * n) ∧ PortAccess s t ∧ t.events = .portIn port n v :: s.events := by
  refine ⟨_, _, rfl, ?_, PortAccess.order.trans (PortAccess.cycle s) (.ofOwn rfl), ?_⟩
  · rw [BitVec.toNat_setWidth]
    exact Nat.lt_of_le_of_lt (Nat.mod_le _ _) (BitVec.isLt _)
  · rw [State.cycle_rest]

theorem portOutPiece_ok (port : Word16) (n : Nat) (v : Word32) (s : State) : ∃ t : State,
    portOutPiece port n v s = .ok () t ∧ PortAccess s t ∧
      t.events = .portOut port n ((v.setWidth (8 * n)).setWidth 32) :: s.events := by
  refine ⟨_, rfl, PortAccess.order.trans (PortAccess.cycle s) (.ofOwn rfl), ?_⟩
  rw [State.cycle_rest]

/-! ### Pieces of a value -/

section
variable {w : Width}

theorem bits_le_32 (w : Width) : w.bits ≤ 32 := by cases w <;> decide

theorem bits_eq_bytes (w : Width) : w.bits = 8 * w.bytes := by cases w <;> rfl

theorem toNat_widened (v : Val w) : (v.setWidth 32).toNat = v.toNat := BitVec.toNat_setWidth_of_le (bits_le_32 w)

/-- A piece of at most 32 bits, of the value or of the value as a doubleword. -/
theorem piece_widened (v : Val w) (k n : Nat) :
    ((v.setWidth 32 >>> k).setWidth n).setWidth 32 = ((v >>> k).setWidth n).setWidth 32 := by
  apply BitVec.eq_of_toNat_eq
  rw [BitVec.toNat_setWidth, BitVec.toNat_setWidth, BitVec.toNat_ushiftRight, toNat_widened, BitVec.toNat_setWidth,
    BitVec.toNat_setWidth, BitVec.toNat_ushiftRight]

theorem whole_widened (v : Val w) : ((v.setWidth 32).setWidth (8 * w.bytes)).setWidth 32 = v.setWidth 32 := by
  apply BitVec.eq_of_toNat_eq
  rw [← bits_eq_bytes w, BitVec.setWidth_setWidth_of_le _ (bits_le_32 w), BitVec.setWidth_eq]

theorem narrowed_widened {v : Word32} (small : v.toNat < 2 ^ w.bits) : (v.setWidth w.bits).setWidth 32 = v := by
  apply BitVec.eq_of_toNat_eq
  rw [toNat_widened, BitVec.toNat_setWidth, Nat.mod_eq_of_lt small]

end

/-! ### Whole accesses -/

section
variable {w : Width} {port : Word16} {s : State}

/-- What one bus access, or the two of a misaligned one, add to the events. -/
def AccessesMade (w : Width) (port : Word16) (s t : State) (one low high : BusEvent) : Prop :=
  (portPiece w port = w.bytes → t.events = one :: s.events) ∧
  (portPiece w port < w.bytes → t.events = high :: low :: s.events ∨ t.events = low :: high :: s.events)

theorem portIn_spec (w : Width) (port : Word16) (s : State) : ∃ (v : Val w) (x y : Word32) (t : State),
    portIn w port s = .ok v t ∧ PortAccess s t ∧
    (portPiece w port < w.bytes → v = (x ||| y <<< (8 * portPiece w port)).setWidth _ ∧
      x.toNat < 2 ^ (8 * portPiece w port) ∧ y.toNat < 2 ^ (8 * (w.bytes - portPiece w port))) ∧
    AccessesMade w port s t (.portIn port (portPiece w port) (v.setWidth 32)) (.portIn port (portPiece w port) x)
      (.portIn (port + BitVec.ofNat 16 (portPiece w port)) (w.bytes - portPiece w port) y) := by
  by_cases aligned : portPiece w port = w.bytes
  · obtain ⟨v, t, read, small, access, made⟩ := portInPiece_ok port (portPiece w port) s
    refine ⟨v.setWidth w.bits, 0, 0, t, ?_, access, fun less => absurd aligned (Nat.ne_of_lt less), fun _ => ?_,
      fun less => absurd aligned (Nat.ne_of_lt less)⟩
    · exact (congrFun (if_pos aligned) s).trans (bind_ok read)
    · rw [aligned, ← bits_eq_bytes w] at small
      rw [narrowed_widened small]
      exact made
  · have split : portIn w port s = _ := congrFun (if_neg aligned) s
    have split := split.trans (bind_ok (a := Config.splitChoice s.free) (t := { s with free := s.free + 1 }) rfl)
    have own : PortAccess s { s with free := s.free + 1 } := .ofOwn rfl
    cases order : Config.splitChoice s.free with
    | true =>
      rw [order] at split
      obtain ⟨y, t, readHigh, smallHigh, accessHigh, madeHigh⟩ :=
        portInPiece_ok (port + BitVec.ofNat 16 (portPiece w port)) (w.bytes - portPiece w port)
          { s with free := s.free + 1 }
      obtain ⟨x, u, readLow, smallLow, accessLow, madeLow⟩ := portInPiece_ok port (portPiece w port) t
      refine ⟨_, x, y, u, split.trans ((bind_ok readHigh).trans (bind_ok readLow)),
        PortAccess.order.trans own (PortAccess.order.trans accessHigh accessLow), fun _ => ⟨rfl, smallLow, smallHigh⟩,
        fun whole => absurd whole aligned, fun _ => .inr ?_⟩
      rw [madeLow, madeHigh]
    | false =>
      rw [order] at split
      obtain ⟨x, t, readLow, smallLow, accessLow, madeLow⟩ :=
        portInPiece_ok port (portPiece w port) { s with free := s.free + 1 }
      obtain ⟨y, u, readHigh, smallHigh, accessHigh, madeHigh⟩ :=
        portInPiece_ok (port + BitVec.ofNat 16 (portPiece w port)) (w.bytes - portPiece w port) t
      refine ⟨_, x, y, u, split.trans ((bind_ok readLow).trans (bind_ok readHigh)),
        PortAccess.order.trans own (PortAccess.order.trans accessLow accessHigh), fun _ => ⟨rfl, smallLow, smallHigh⟩,
        fun whole => absurd whole aligned, fun _ => .inl ?_⟩
      rw [madeHigh, madeLow]

theorem portOut_spec (w : Width) (port : Word16) (v : Val w) (s : State) : ∃ t : State,
    portOut w port v s = .ok () t ∧ PortAccess s t ∧
    AccessesMade w port s t (.portOut port (portPiece w port) (v.setWidth 32))
      (.portOut port (portPiece w port) ((v.setWidth (8 * portPiece w port)).setWidth 32))
      (.portOut (port + BitVec.ofNat 16 (portPiece w port)) (w.bytes - portPiece w port)
        (((v >>> (8 * portPiece w port)).setWidth (8 * (w.bytes - portPiece w port))).setWidth 32)) := by
  have low := piece_widened v 0 (8 * portPiece w port)
  rw [BitVec.ushiftRight_zero, BitVec.ushiftRight_zero] at low
  have high := piece_widened v (8 * portPiece w port) (8 * (w.bytes - portPiece w port))
  by_cases aligned : portPiece w port = w.bytes
  · obtain ⟨t, written, access, made⟩ := portOutPiece_ok port (portPiece w port) (v.setWidth 32) s
    refine ⟨t, (congrFun (if_pos aligned) s).trans written, access, fun _ => ?_,
      fun less => absurd aligned (Nat.ne_of_lt less)⟩
    rw [made, aligned, whole_widened]
  · have split : portOut w port v s = _ := congrFun (if_neg aligned) s
    have split := split.trans (bind_ok (a := Config.splitChoice s.free) (t := { s with free := s.free + 1 }) rfl)
    have own : PortAccess s { s with free := s.free + 1 } := .ofOwn rfl
    cases order : Config.splitChoice s.free with
    | true =>
      rw [order] at split
      obtain ⟨t, writtenHigh, accessHigh, madeHigh⟩ := portOutPiece_ok (port + BitVec.ofNat 16 (portPiece w port))
        (w.bytes - portPiece w port) (v.setWidth 32 >>> (8 * portPiece w port)) { s with free := s.free + 1 }
      obtain ⟨u, writtenLow, accessLow, madeLow⟩ := portOutPiece_ok port (portPiece w port) (v.setWidth 32) t
      refine ⟨u, split.trans ((bind_ok writtenHigh).trans writtenLow),
        PortAccess.order.trans own (PortAccess.order.trans accessHigh accessLow), fun whole => absurd whole aligned,
        fun _ => .inr ?_⟩
      rw [madeLow, madeHigh, low, high]
    | false =>
      rw [order] at split
      obtain ⟨t, writtenLow, accessLow, madeLow⟩ := portOutPiece_ok port (portPiece w port) (v.setWidth 32)
        { s with free := s.free + 1 }
      obtain ⟨u, writtenHigh, accessHigh, madeHigh⟩ := portOutPiece_ok (port + BitVec.ofNat 16 (portPiece w port))
        (w.bytes - portPiece w port) (v.setWidth 32 >>> (8 * portPiece w port)) t
      refine ⟨u, split.trans ((bind_ok writtenLow).trans writtenHigh),
        PortAccess.order.trans own (PortAccess.order.trans accessLow accessHigh), fun whole => absurd whole aligned,
        fun _ => .inl ?_⟩
      rw [madeHigh, madeLow, low, high]

end

theorem portIn_reading (w : Width) (port : Word16) : Keeps Reading (portIn w port) := ⟨fun s => by
  obtain ⟨v, x, y, t, read, access, -⟩ := portIn_spec w port s
  rw [read]
  exact access.1⟩

theorem portOut_reading (w : Width) (port : Word16) (v : Val w) : Keeps Reading (portOut w port v) := ⟨fun s => by
  obtain ⟨t, written, access, -⟩ := portOut_spec w port v s
  rw [written]
  exact access.1⟩

theorem portBitClear_reading (s : State) (base port : Nat) : Keeps Reading (portBitClear s base port) :=
  .ite (.pure Reading.order _) (.bind Reading.order (linRead_reading _ _ _) fun _ => .pure Reading.order _)

theorem portBitsClear_reading (s : State) (base : Nat) : ∀ n port, Keeps Reading (portBitsClear s base port n)
  | 0, _ => .pure Reading.order _
  | n + 1, port => .bind Reading.order (portBitClear_reading s base port) fun _ =>
      .ite (portBitsClear_reading s base n (port + 1)) (.pure Reading.order _)

theorem ioPermitted_reading (port : Word16) (n : Nat) : Keeps Reading (ioPermitted port n) :=
  .bind Reading.order (.get Reading.order) fun _ => .ite (.pure Reading.order _)
    (.bind Reading.order (linRead_reading _ _ _) fun _ => .ite (.pure Reading.order _) (portBitsClear_reading _ _ _ _))

/-- The test of the right to use a port reads. -/
theorem ioCheck_reading (port : Word16) (n : Nat) : Keeps Reading (ioCheck port n) := by
  have past : Keeps Reading (if 0x10000 < port.toNat + n then refuse .portPastEnd else pure ()) :=
    .ite (.refuse Reading.order _) (.pure Reading.order _)
  exact .bind Reading.order (.get Reading.order) fun _ => .ite (.bind Reading.order (ioPermitted_reading port n) fun _ =>
    .bind Reading.order (.require Reading.order _ _) fun _ => past) past

theorem Keeps.access {α : Type} {m : M α} (h : Keeps Reading m) : Keeps Access m := h.mono fun _ _ k => k.1

/-! ## Repetition -/

section
variable {w : Width}

theorem moveString_countKept : Keeps CountKept (moveString w) :=
  .countThen readSource_access fun _ => .countThen writeDest_access fun _ =>
    .bind CountKept.order advance_esi_countKept fun _ => advance_edi_countKept

theorem compareString_countKept : Keeps CountKept (compareString w) :=
  .countThen readSource_access fun _ => .countThen readDest_access fun _ =>
    .bind CountKept.order (setEffect_countKept _) fun _ =>
      .bind CountKept.order advance_esi_countKept fun _ => advance_edi_countKept

theorem scanString_countKept : Keeps CountKept (scanString w) :=
  .countThen readDest_access fun _ => .countThen (getReg_access _ _) fun _ =>
    .bind CountKept.order (setEffect_countKept _) fun _ => advance_edi_countKept

theorem loadString_countKept : Keeps CountKept (loadString w) :=
  .countThen readSource_access fun _ => .bind CountKept.order (setReg_eax_countKept _) fun _ => advance_esi_countKept

theorem storeString_countKept : Keeps CountKept (storeString w) :=
  .countThen (getReg_access _ _) fun _ => .countThen writeDest_access fun _ => advance_edi_countKept

theorem writeLoc_mem_access (pas : List Word32) (v : Val w) : Keeps Access (writeLoc w (.mem pas) v) := ⟨fun s => by
  rw [writeLoc_ok]
  exact stored_access s w pas v⟩

theorem inputString_countKept : Keeps CountKept (inputString w) :=
  .countThen (getReg_access _ _) fun _ => .countThen (ioCheck_reading _ _).access fun _ =>
    .countThen (.get Access.order) fun _ => .bind' CountKept.order (memLoc_access _ _ _ _ _).countKept fun l s t found => by
      obtain ⟨pas, x, -, located⟩ := bind_eq_ok.mp found
      cases located
      exact (Keeps.countThen (portIn_reading _ _).access fun _ => .countThen (writeLoc_mem_access pas _) fun _ =>
        advance_edi_countKept).run _

theorem outputString_countKept : Keeps CountKept (outputString w) :=
  .countThen (getReg_access _ _) fun _ => .countThen (ioCheck_reading _ _).access fun _ =>
    .countThen readSource_access fun _ => .countThen (portOut_reading _ _ _).access fun _ => advance_esi_countKept

/-- One iteration of a primitive keeps the count. -/
theorem StringOp.once_countKept (op : StringOp) (w : Width) : Keeps CountKept (op.once w) := by
  cases op with
  | ins => exact inputString_countKept
  | outs => exact outputString_countKept
  | movs => exact moveString_countKept
  | cmps => exact compareString_countKept
  | stos => exact storeString_countKept
  | lods => exact loadString_countKept
  | scas => exact scanString_countKept

/-- Each string instruction repeats its primitive. -/
theorem exec_string (op : StringOp) (w : Width) (s : State) :
    exec (op.instr w) s = run false (repeatString op.compares (op.once w)) s := by
  cases op <;> cases w <;> rfl

end

section
variable {s t : State} {m : M Unit} {c : Bool} {p : Rep}

theorem repeatString_once (norep : s.cur.rep = none) : repeatString c m s = m s := by
  refine (bind_ok (get_run s)).trans ?_
  rw [norep]

theorem repeatString_done (rep : s.cur.rep = some p) (zero : s.regs.read s.addrw .ecx = 0) :
    repeatString c m s = .ok () s := by
  refine (bind_ok (get_run s)).trans ?_
  rw [rep]
  exact congrFun (if_pos zero) s

theorem read_ecx (z : Size) {g h : Regs} (same : g.ecx = h.ecx) : g.read z.width .ecx = h.read z.width .ecx := by
  cases z with
  | s16 => exact congrArg (·.extractLsb' 0 16) same
  | s32 => exact same

/-- After an iteration the count goes down, and the repetition ends or goes on. -/
theorem repeatString_next (rep : s.cur.rep = some p) (more : s.regs.read s.addrw .ecx ≠ 0) (ran : m s = .ok () t)
    (kept : CountKept s t) : repeatString c m s =
      .ok () (if s.regs.read s.addrw .ecx - 1 = 0 ∨ repEnds c p t.flags.zf = true
        then t.withReg s.addrw .ecx (s.regs.read s.addrw .ecx - 1)
        else { t.withReg s.addrw .ecx (s.regs.read s.addrw .ecx - 1) with eip := s.cur.start }) := by
  refine (bind_ok (get_run s)).trans ?_
  rw [rep]
  refine (congrFun (if_neg more) s).trans ((bind_ok ran).trans ((bind_ok (get_run t)).trans ?_))
  have count : t.regs.read s.addrw .ecx = s.regs.read s.addrw .ecx := read_ecx s.cur.addrSize kept.2
  dsimp only
  rw [count]
  refine (bind_ok (setReg_run _ _ _ t)).trans ?_
  rw [← kept.1]
  by_cases ended : s.regs.read s.addrw .ecx - 1 = 0 ∨ repEnds c p t.flags.zf = true
  · rw [if_pos ended, if_pos ended]
    rfl
  · rw [if_neg ended, if_neg ended]
    rfl

theorem repEnds_iff (c : Bool) (p : Rep) (zf : Bool) :
    repEnds c p zf = true ↔ c = true ∧ (p = .repe ∧ zf = false ∨ p = .repne ∧ zf = true) := by
  cases p <;> simp [repEnds]

end

/-- Settles O37: an iteration keeps the count, which then goes down by one. -/
theorem repeatedStrings : Obligations.RepeatedStrings := by
  intro op w s lock
  rw [exec_string]
  refine ⟨fun t norep ran => run_unlocked lock ((repeatString_once (s := s.entered) norep).trans ran),
    fun p rep zero => run_unlocked lock (repeatString_done (s := s.entered) rep zero), fun p t rep more ran => ?_⟩
  intro n counted ended
  have next := repeatString_next (s := s.entered) (c := op.compares) rep more ran ((op.once_countKept w).ok ran)
  have iff : (n = 0 ∨ repEnds op.compares p t.flags.zf = true) ↔ ended := or_congr Iff.rfl (repEnds_iff _ _ _)
  exact ⟨fun h => run_unlocked lock (next.trans (congrArg (EStateM.Result.ok ()) (if_pos (iff.mpr h)))),
    fun h => run_unlocked lock (next.trans (congrArg (EStateM.Result.ok ()) (if_neg (mt iff.mp h))))⟩

end Sys2Proof.Machine

/-! # One iteration of a string instruction (45_string.md R573 to R577), and IN, OUT, INS and OUTS
(49_io_coprocessor.md R701 to R704) -/

namespace Sys2Proof.Machine

section
variable {s t u x y : State} {w : Width} {a b v : Val w} {pas : List Word32}

/-- After an action that reads, the state is the one before it with what accesses changed. -/
theorem Access.exists_rollback (h : Access s u) : ∃ y, u = s.rollback y := ⟨u, h.1⟩

/-- A store after an action that reads keeps every other byte, also since before that action. -/
theorem Reading.kept_stored (h : Reading s x) (wf : s.mem.wf = true) (l : Loc) (v : Val w) :
    MemoryKept x (x.stored w l v) l ∧ (s.cr0.pg = false → MemoryKept s (x.stored w l v) l) :=
  have kept := Machine.stored_kept (h.wf wf) w l v
  ⟨kept, fun pg => (h.kept pg wf).after (fun _ o => h.1.outside o) kept⟩

theorem memLoc_ok {r : SReg} {off : Word32} {write commit : Bool}
    (resolved : segResolve r off w.bytes write commit s = .ok pas x) :
    memLoc w r off write commit s = .ok (.mem pas) x := bind_ok resolved

theorem writeDest_ok (resolved : segResolve .es (s.indexOff .edi) w.bytes true true s = .ok pas x) :
    writeDest w v s = .ok () (x.stored w (.mem pas) v) :=
  (bind_ok (get_run s)).trans (segWrite_ok (memLoc_ok resolved) v)

theorem readSource_ok (read : segRead w (s.segOr .ds) (s.indexOff .esi) s = .ok a u) : readSource w s = .ok a u :=
  (bind_ok (get_run s)).trans read

theorem readDest_ok (read : segRead w .es (s.indexOff .edi) s = .ok a u) : readDest w s = .ok a u :=
  (bind_ok (get_run s)).trans read

theorem advance_run (w : Width) (r : Reg) (s : State) : advance w r s = .ok () (s.stepped w r) := rfl

end

/-- Settles O38: each primitive is its reads, its store or its effect on the flags, and the steps of its index
registers. -/
theorem stringPrimitives : Obligations.StringPrimitives := by
  intro w s u x a b pas wf si kept di
  refine ⟨fun source => ?_, fun dest => ?_, fun found => ?_⟩
  · have readUp := (segRead_reading _ _ _).ok source
    have keptRead {z : State} (h : Reading s z) : kept z := fun pg => h.kept pg wf
    refine ⟨?_, keptRead readUp, fun found => ?_, fun dest => ?_⟩
    · obtain ⟨y, rfl⟩ := readUp.1.exists_rollback
      exact (bind_ok (readSource_ok source)).trans (bind_ok (setReg_run w .eax a _))
    · have reached := Reading.order.trans readUp ((segResolve_reading _ _ _ _ _).ok found)
      intro t
      have stored : t = ((x.stored w (.mem pas) a).stepped w .esi).stepped w .edi :=
        congrArg (fun z : State => ((z.stored w (.mem pas) a).stepped w .esi).stepped w .edi) reached.1.1.symm
      rw [stored]
      refine ⟨?_, reached.kept_stored wf (.mem pas) a⟩
      obtain ⟨y, rfl⟩ := readUp.1.exists_rollback
      exact (bind_ok (readSource_ok source)).trans ((bind_ok (writeDest_ok (s := s.rollback y) found)).trans
        (bind_ok (advance_run w .esi _)))
    · have reached := Reading.order.trans readUp ((segRead_reading _ _ _).ok dest)
      refine ⟨?_, keptRead reached⟩
      obtain ⟨y, rfl⟩ := readUp.1.exists_rollback
      obtain ⟨z, rfl⟩ := reached.1.exists_rollback
      exact (bind_ok (readSource_ok source)).trans ((bind_ok (readDest_ok (s := s.rollback y) dest)).trans
        ((bind_ok (setEffect_run _ _)).trans (bind_ok (advance_run w .esi _))))
  · have readUp := (segRead_reading _ _ _).ok dest
    refine ⟨?_, fun pg => readUp.kept pg wf⟩
    obtain ⟨y, rfl⟩ := readUp.1.exists_rollback
    exact (bind_ok (readDest_ok dest)).trans ((bind_ok (getReg_run w .eax _)).trans (bind_ok (setEffect_run _ _)))
  · have reached := (segResolve_reading _ _ _ _ _).ok found
    intro t
    have stored : t = (u.stored w (.mem pas) (s.regs.read w .eax)).stepped w .edi :=
      congrArg (fun z : State => (z.stored w (.mem pas) (s.regs.read w .eax)).stepped w .edi) reached.1.1.symm
    rw [stored]
    exact ⟨(bind_ok (getReg_run w .eax s)).trans (bind_ok (writeDest_ok found)), reached.kept_stored wf (.mem pas) _⟩

/-! ## IN, OUT, INS and OUTS -/

section
variable {s t u : State} {w : Width} {port : Word16} {m : M Word16} {v : Val w}

/-- Where IN and OUT take the number of the port from. -/
def portOperand (dx : Bool) (imm : Byte) : M Word16 := if dx then getDx else pure (imm.setWidth 16)

theorem portOperand_run (dx : Bool) (imm : Byte) (s : State) :
    portOperand dx imm s = .ok (if dx then s.regs.read .b16 .edx else imm.setWidth 16) s := by
  cases dx <;> rfl

theorem inputFrom_ok (named : m s = .ok port s) (checked : ioCheck port w.bytes s = .ok () u)
    (read : portIn w port u = .ok v t) : inputFrom w m s = .ok () (t.withReg w .eax v) :=
  (bind_ok named).trans ((bind_ok checked).trans (bind_ok read))

theorem outputTo_ok (named : m s = .ok port s) (checked : ioCheck port w.bytes s = .ok () u)
    (written : portOut w port (u.regs.read w .eax) u = .ok () t) : outputTo w m s = .ok () t :=
  (bind_ok named).trans ((bind_ok checked).trans ((bind_ok (getReg_run w .eax u)).trans written))

end

/-- Settles O40: a port access is one bus access or two, and each instruction makes one after its checks. -/
theorem ports : Obligations.Ports := by
  refine ⟨⟨fun w port s wf => ⟨?_, fun v => ?_⟩, fun byte dx imm s u lock => ?_⟩, fun w s u x wf => ?_⟩
  · obtain ⟨v, x, y, t, read, access, pieces, made⟩ := portIn_spec w port s
    exact ⟨v, x, y, t, read, ⟨access.2.2.2 wf, access.eq⟩, pieces, made⟩
  · obtain ⟨t, written, access, made⟩ := portOut_spec w port v s
    exact ⟨t, written, ⟨access.2.2.2 wf, access.eq⟩, made⟩
  · intro w port checked
    have checkedUp := (ioCheck_reading _ _).ok checked
    refine ⟨?_, ?_⟩
    · obtain ⟨v, x, y, t, read, access, -⟩ := portIn_spec w port u
      have reached := Reading.order.trans checkedUp access.1
      refine ⟨v, t, read, ?_, fun pg wf => reached.keptSince pg wf⟩
      rw [← reached.through]
      have does : run false (inputFrom w (portOperand dx imm)) s = _ :=
        run_unlocked lock (inputFrom_ok (portOperand_run dx imm s.entered) checked read)
      refine Eq.trans ?_ does
      cases byte <;> cases dx <;> rfl
    · obtain ⟨t, written, access, -⟩ := portOut_spec w port (s.regs.read w .eax) u
      have reached := Reading.order.trans checkedUp access.1
      refine ⟨t, written, ?_, fun pg wf => reached.keptSince pg wf⟩
      rw [← reached.through]
      obtain ⟨y, rfl⟩ := checkedUp.1.exists_through
      have does : run false (outputTo w (portOperand dx imm)) s = _ :=
        run_unlocked lock (outputTo_ok (portOperand_run dx imm s.entered) checked written)
      refine Eq.trans ?_ does
      cases byte <;> cases dx <;> rfl
  · intro port checked
    have checkedUp := (ioCheck_reading _ _).ok checked
    refine ⟨fun pas found => ?_, fun v source => ?_⟩
    · obtain ⟨v, -, -, z, read, access, -⟩ := portIn_spec w port x
      have reached := Reading.order.trans checkedUp (Reading.order.trans ((segResolve_reading _ _ _ _ _).ok found) access.1)
      refine ⟨v, z, read, ?_⟩
      intro t
      have stored : t = (z.stored w (.mem pas) v).stepped w .edi :=
        congrArg (fun z : State => (z.stored w (.mem pas) v).stepped w .edi) reached.1.1.symm
      rw [stored]
      refine ⟨?_, reached.kept_stored wf (.mem pas) v⟩
      obtain ⟨y, rfl⟩ := checkedUp.1.exists_rollback
      exact (bind_ok (getReg_run .b16 .edx s)).trans ((bind_ok checked).trans ((bind_ok (get_run (s.rollback y))).trans
        ((bind_ok (memLoc_ok found)).trans ((bind_ok read).trans (bind_ok (writeLoc_ok w (.mem pas) v z))))))
    · obtain ⟨z, written, access, -⟩ := portOut_spec w port v x
      have reached := Reading.order.trans checkedUp (Reading.order.trans ((segRead_reading _ _ _).ok source) access.1)
      refine ⟨z, written, ?_, fun pg => reached.kept pg wf⟩
      rw [← reached.1.1]
      obtain ⟨y, rfl⟩ := checkedUp.1.exists_rollback
      exact (bind_ok (getReg_run .b16 .edx s)).trans ((bind_ok checked).trans
        ((bind_ok (readSource_ok (s := s.rollback y) source)).trans (bind_ok written)))

end Sys2Proof.Machine

/-! # What an instruction boundary takes (60_exceptions.md R745, R780 to R784) -/

namespace Sys2Proof.Machine

section
variable {s : State}

/-- With nothing from outside a step is a boundary. -/
theorem step_boundary (quiet : s.inputs = []) : step s = stepBoundary s := by
  rw [step, State.absorb, quiet]

/-- A step that takes a pending event delivers it. -/
theorem step_pending {p : Pending} (quiet : s.inputs = []) (vm : s.flags.vm = false) (due : s.pending = some p)
    {t : State} (delivered : deliver (p.event s.eip) (s.accept p) = .ok () t) : step s = .next { t with cur := .idle } := by
  rw [step_boundary quiet, stepBoundary, vm, due]
  simp only [Bool.false_eq_true, if_false, takePending, delivered]

/-- A step with nothing pending, of a processor that is halted or shut down. -/
theorem step_idle (quiet : s.inputs = []) (vm : s.flags.vm = false) (none : s.pending = none)
    (stopped : s.activity = .halted ∨ s.activity = .shutdown) : step s = .next s.passed := by
  rw [step_boundary quiet, stepBoundary, vm, none]
  rcases stopped with stopped | stopped
  all_goals
    rw [stopped]
    rfl

theorem pending_shutdown (stopped : s.activity = .shutdown) :
    s.pending = if s.nmiPending && !s.nmiLatch then some .nmi else none := if_pos stopped

theorem pending_awake (awake : s.activity ≠ .shutdown) : s.pending =
    if s.trapDue then some .trap else if s.nmiDue then some .nmi else if s.intrOpen then s.intr.map .intr else none :=
  if_neg awake

/-- The inhibit covers every event of a boundary (R784). -/
theorem pending_inhibited (awake : s.activity ≠ .shutdown) (inhibit : s.inhibit = true) : s.pending = none := by
  simp [pending_awake awake, State.trapDue, State.nmiDue, State.intrOpen, inhibit]

theorem trapDue_of (trap : s.debugTrap = true) (free : s.inhibit = false) : s.trapDue = true := by
  simp [State.trapDue, trap, free]

theorem trapDue_none (trap : s.debugTrap = false) : s.trapDue = false := by simp [State.trapDue, trap]

theorem nmiDue_of (nmi : s.nmiPending = true) (latch : s.nmiLatch = false) (free : s.inhibit = false) :
    s.nmiDue = true := by
  simp [State.nmiDue, nmi, latch, free]

theorem nmiDue_none (nmi : s.nmiPending = false ∨ s.nmiLatch = true) : s.nmiDue = false := by
  rcases nmi with nmi | latch <;> simp [State.nmiDue, *]

/-- INTR is closed, or nothing is on it. -/
theorem pending_intr_none (closed : s.intr = none ∨ s.flags.ie = false ∨ s.stiShadow = true) :
    (if s.intrOpen then s.intr.map Pending.intr else none) = none := by
  rcases closed with quiet | masked | shadow
  · simp [quiet]
  · simp [State.intrOpen, masked]
  · simp [State.intrOpen, shadow]

end

/-- Settles O55: the events in their order, each with what masks it. -/
theorem boundaryEvents : Obligations.BoundaryEvents := by
  intro s quiet idle awake takes nmi
  refine ⟨fun vm => ?_, fun vm running => ⟨fun trap free => ?_, fun trap free due latch => ?_,
    fun n intr trap free shadow enabled noNmi => ?_, fun nothing => ?_⟩,
    fun vm stopped => ⟨fun due latch => ?_, fun none => ?_⟩⟩
  · rw [step_boundary quiet, stepBoundary, vm]
    rfl
  · have due : s.pending = some .trap := by rw [pending_awake running, trapDue_of trap free]; rfl
    exact fun t => step_pending quiet vm due
  · have due : s.pending = some .nmi := by rw [pending_awake running, trapDue_none trap, nmiDue_of due latch free]; rfl
    exact fun t => step_pending quiet vm due
  · have opened : s.intrOpen = true := by simp [State.intrOpen, free, shadow, enabled]
    have due : s.pending = some (.intr n) := by
      rw [pending_awake running, trapDue_none trap, nmiDue_none noNmi, opened, intr]
      rfl
    exact fun t => step_pending quiet vm due
  · have none : s.pending = none := by
      rcases nothing with inhibit | ⟨trap, noNmi, closed⟩
      · exact pending_inhibited running inhibit
      · rw [pending_awake running, trapDue_none trap, nmiDue_none noNmi]
        exact pending_intr_none closed
    exact ⟨none, fun halted => step_idle quiet vm none (.inl halted)⟩
  · have due : s.pending = some .nmi := by rw [pending_shutdown stopped, due, latch]; rfl
    exact fun t => step_pending quiet vm due
  · have nothing : s.pending = Option.none := by
      rw [pending_shutdown stopped]
      rcases none with nmi | latch
      · rw [nmi]; rfl
      · rw [latch, Bool.not_true, Bool.and_false]; rfl
    exact step_idle quiet vm nothing (.inr stopped)

end Sys2Proof.Machine

/-! # Taking a fault, the fetch, and the double fault (60_exceptions.md R741, R745, R758 to R760; 30_encoding.md R314,
R315) -/

namespace Sys2Proof.Machine

/-! ## The state in which an exception is taken -/

section
variable {s t u : State} {x : Exn}

/-- The state in which an exception raised in `u` is taken, the attempt having begun in `s`; the attempt has not
completed. -/
def State.resumed (s u : State) : State :=
  if u.cur.committed then { u with cur := { u.cur with committed := false, incomplete := true } }
  else if u.cur.partway then { u with eip := s.eip, cur := { u.cur with partway := false, incomplete := true } }
  else { s.rollback u with cur := { s.cur with incomplete := true } }

theorem resumeAt_state (s u : State) (ret : Word32) :
    { (resumeAt s u ret).1 with cur := { (resumeAt s u ret).1.cur with incomplete := true } } = s.resumed u := by
  unfold resumeAt State.resumed
  split
  · rfl
  · split <;> rfl

theorem resumeAt_ret (s u : State) (ret : Word32) :
    (resumeAt s u ret).2 = if u.cur.committed then u.eip else ret := by
  unfold resumeAt
  split
  · rfl
  · split <;> rfl

theorem ErrCode.withExt_false (c : ErrCode) : c.withExt false = c := by cases c <;> rfl

/-- A fault of an instruction that is delivered (R745). -/
theorem takeFault_resumed
    (delivered : deliver ⟨x.vec, .exc, if u.cur.committed then u.eip else s.cur.start, x.code, true⟩ (s.resumed u) =
      .ok () t) : takeFault s u x = .next t := by
  rw [← resumeAt_ret, ← resumeAt_state s u s.cur.start] at delivered
  unfold takeFault faultEvent
  rw [ErrCode.withExt_false]
  dsimp only
  rw [delivered]

end

/-! ## The fetch -/

section
variable {s t : State} {x : Exn} {n : Nat} {bytes : List Byte}

theorem fetchByte_sixteenth (long : 15 ≤ (s.cur.next - s.cur.start).toNat) : fetchByte s = .error (.exc gp0) s :=
  (bind_ok (get_run s)).trans (require_stop (decide_eq_false (Nat.not_lt.mpr long)))

theorem fetchByte_short {f : Unit → M Byte} (short : (s.cur.next - s.cur.start).toNat < 15) :
    (require (decide ((s.cur.next - s.cur.start).toNat < Config.maxLength)) gp0 >>= f) s = f () s :=
  require_pass (decide_eq_true short)

theorem fetchByte_beyond (short : (s.cur.next - s.cur.start).toNat < 15) (beyond : s.cs.limit.toNat < s.cur.next.toNat) :
    fetchByte s = .error (.exc gp0) s :=
  (bind_ok (get_run s)).trans ((fetchByte_short short).trans (require_stop (decide_eq_false (Nat.not_le.mpr beyond))))

theorem fetchByte_pageFault (short : (s.cur.next - s.cur.start).toNat < 15) (inside : s.cur.next.toNat ≤ s.cs.limit.toNat)
    (fails : linResolve (s.cs.base + s.cur.next) 1 false s.user true s = .error (.exc x) t) :
    fetchByte s = .error (.exc x) t :=
  (bind_ok (get_run s)).trans ((fetchByte_short short).trans ((require_pass (decide_eq_true inside)).trans
    (bind_error fails)))

theorem fetchMore_undefined (none : decode s.cur.opSize s.cur.addrSize bytes = .error .undefinedOpcode ∨
    decode s.cur.opSize s.cur.addrSize bytes = .error .registerForm) : fetchMore n bytes s = .error (.exc ud) s := by
  unfold fetchMore
  refine (bind_ok (get_run s)).trans ?_
  rcases none with none | none
  all_goals
    rw [none]
    rfl

/-- Bytes that are the beginning of an instruction are fetched on. -/
theorem fetchMore_more (more : decode s.cur.opSize s.cur.addrSize bytes = .error .more) :
    fetchMore (n + 1) bytes s = (fetchByte >>= fun b => fetchMore n (bytes ++ [b])) s := by
  rw [fetchMore]
  simp only [bind_run, get_run, more]

end

/-- Settles O30: where a fault resumes, each way a fetch fails, and the loop over the prefixes. -/
theorem faultIsTaken : Obligations.FaultIsTaken := by
  refine ⟨fun x s u t => takeFault_resumed, fun s => ⟨fetchByte_sixteenth, fetchByte_beyond,
    fun x t => fetchByte_pageFault,
    fun n bytes => ⟨fetchMore_undefined, fun x t more fails => (fetchMore_more more).trans (bind_error fails),
      fun b t more fetched => (fetchMore_more more).trans (bind_ok fetched)⟩⟩,
    fun fuel tf s t u => ⟨fun x => executeFrom_error, fun p => executeFrom_prefix, fun i => executeFrom_instr⟩,
    fun s => stepBoundary_running⟩

/-! ## The double fault -/

section
variable {e : Event} {x : Exn} {s t : State} {fuel : Nat}

theorem doubleFault_iff (x y : ExnClass) : doubleFault x y = true ↔
    (x = .contributory ∧ y = .contributory) ∨ (x = .page ∧ (y = .contributory ∨ y = .page)) := by
  cases x <;> cases y <;> simp [doubleFault]

/-- The EIP that an exception saves which is raised in delivering an event (R760). -/
theorem Event.refault_eq (e : Event) (s : State) (ret : Word32) :
    e.refault s ret = if s.cr0.pe = false ∧ e.src = .soft then s.cur.start else ret := by
  simp [Event.refault]

/-- An exception raised in delivering an event: what the rest of the delivery is. -/
theorem deliverChain_exc (committed : s.cur.committed = false) (partway : s.cur.partway = false)
    (raised : deliverOnce e s = .error (.exc x) t) : deliverChain (fuel + 1) e s =
      if e.vec == 8 && e.src == .exc then .ok () { s.resumed t with activity := .shutdown }
      else if doubleFault e.cls x.cls then
        deliverChain fuel
          (doubleFaultEvent (Config.freeValue (s.resumed t).free) (Config.freeValue ((s.resumed t).free + 1)))
          { s.resumed t with free := (s.resumed t).free + 2 }
      else deliverChain fuel (faultEvent x (if t.cur.committed then t.eip else e.refault s e.ret) (e.src != .soft))
        (s.resumed t) := by
  rw [deliverChain, State.fresh_eq committed partway, ← resumeAt_ret, ← resumeAt_state s t (e.refault s e.ret)]
  dsimp only
  rw [raised]

end

theorem Exn.cls_iff (x : Exn) :
    (x.cls = .page ↔ x.vec = 14) ∧ (x.cls = .contributory ↔ x.vec = 0 ∨ 9 ≤ x.vec ∧ x.vec ≤ 13) := by
  simp only [← BitVec.toNat_inj, BitVec.le_def]
  unfold Exn.cls
  generalize x.vec.toNat = n
  split
  case h_8 => simp_all; omega
  all_goals simp_all

/-- Settles O29: the classes by cases, and the three ways a delivery goes on after an exception. -/
theorem doubleFaults : Obligations.DoubleFault := by
  refine ⟨doubleFault_iff, Exn.cls_iff, fun e => ?_, fun e x fuel s t committed partway raised => ?_⟩
  · unfold Event.cls
    cases e.src <;> rfl
  · have rest := deliverChain_exc (fuel := fuel) committed partway raised
    rw [Event.refault_eq] at rest
    refine ⟨fun vec src => ?_, fun other double => ?_, fun other single => ?_⟩
    · rw [if_pos (by simp [vec, src])] at rest
      exact rest
    · rw [if_neg (by simpa using other), if_pos double] at rest
      exact ⟨_, _, rest⟩
    · rw [if_neg (by simpa using other), single] at rest
      exact rest

end Sys2Proof.Machine

/-! # Delivery in protected mode (60_exceptions.md R760 to R766) -/

namespace Sys2Proof.Machine

/-! ## The entry of the interrupt table -/

theorem shiftLeft_three (v : Word32) : v <<< 3 = 8 * v := by
  apply BitVec.eq_of_toNat_eq
  simp only [BitVec.ofNat_eq_ofNat, BitVec.toNat_shiftLeft, BitVec.toNat_mul, BitVec.toNat_ofNat, Nat.shiftLeft_eq]
  omega

/-- The error code about an entry of the interrupt table: eight times the identifier, with the I bit (R752). -/
theorem idtCode_eq (n : Byte) : idtCode n = .sel (8 * n.setWidth 16 + 2) := by
  have small := n.isLt
  have shifted : (n.setWidth 16 <<< 3 : Word16) = 8 * n.setWidth 16 := by
    apply BitVec.eq_of_toNat_eq
    simp only [BitVec.ofNat_eq_ofNat, BitVec.toNat_shiftLeft, BitVec.toNat_mul, BitVec.toNat_ofNat, Nat.shiftLeft_eq]
    omega
  have apart : (n.setWidth 16 <<< 3 : Word16) &&& 2 = 0 := by
    rw [show (2 : Word16) = BitVec.twoPow 16 1 from rfl, BitVec.and_twoPow]
    simp
  rw [idtCode, ← BitVec.add_eq_or_of_and_eq_zero _ _ apart, shifted]

section
variable {g : Desc}

/-- A descriptor is of one type. -/
theorem Desc.isSys_other {a b : BitVec 4} (h : g.isSys a = true) (other : a ≠ b) : g.isSys b = false := by
  simp only [Desc.isSys, Bool.and_eq_true, beq_iff_eq] at h ⊢
  rw [h.2, beq_false_of_ne other, Bool.and_false]

theorem Desc.isSys_notCode {a : BitVec 4} (h : g.isSys a = true) : g.attr.code = false := by
  simp only [Desc.isSys, Bool.and_eq_true, Bool.not_eq_true'] at h
  rw [SegAttr.code, Desc.attr, h.1]
  rfl

/-- An interrupt gate clears IF, a trap gate keeps it (R765). -/
theorem Desc.isTrapGate (handler : g.isSys 0xE = true ∨ g.isSys 0xF = true) : (!(g.type == 0xE)) = g.isSys 0xF := by
  rcases handler with interrupt | trap
  · rw [Desc.isSys_other interrupt (by decide)]
    simp only [Desc.isSys, Bool.and_eq_true] at interrupt
    rw [interrupt.2]
    rfl
  · rw [trap]
    simp only [Desc.isSys, Bool.and_eq_true, beq_iff_eq] at trap
    rw [trap.2]
    rfl

end

/-- Delivery through an entry of the interrupt table, once it has been read (R760, R762). -/
def throughEntry (g : Desc) (e : Event) (cpl : BitVec 2) : M Unit := do
  if g.isSys 6 || g.isSys 7 then refuse .desc286
  require (g.isSys 5 || g.isSys 0xE || g.isSys 0xF) ⟨13, idtCode e.vec⟩
  require (!(e.src == .soft && decide (g.dpl < cpl))) ⟨13, idtCode e.vec⟩
  require g.present ⟨11, idtCode e.vec⟩
  if g.isSys 5 then deliverTask g e else deliverGate g e

section
variable {e : Event} {g : Desc} {s u : State} {cpl : BitVec 2}

theorem deliverOnce_protected (pe : s.cr0.pe = true) : deliverOnce e s = deliverProtected e s :=
  (bind_ok (get_run s)).trans (congrFun (if_pos pe) s)

theorem deliverOnce_beyond (pe : s.cr0.pe = true) (beyond : s.idtr.limit.toNat < e.vec.toNat * 8 + 7) :
    deliverOnce e s = .error (.exc ⟨13, idtCode e.vec⟩) s :=
  (deliverOnce_protected pe).trans ((bind_ok (get_run s)).trans (require_stop (decide_eq_false (Nat.not_le.mpr beyond))))

theorem deliverOnce_entry (pe : s.cr0.pe = true) (inside : e.vec.toNat * 8 + 7 ≤ s.idtr.limit.toNat)
    (read : readPair (s.idtr.base + 8 * e.vec.setWidth 32) s = .ok g u) : deliverOnce e s = throughEntry g e s.cpl u := by
  rw [← shiftLeft_three] at read
  exact (deliverOnce_protected pe).trans ((bind_ok (get_run s)).trans ((require_pass (decide_eq_true inside)).trans
    (bind_ok read)))

theorem throughEntry_286 (old : g.isSys 6 = true ∨ g.isSys 7 = true) :
    throughEntry g e cpl u = .error (.refuse .desc286) u := by
  rw [throughEntry, Bool.or_eq_true_iff.mpr old]
  rfl

/-- The entry is of one of the types that are gates to the processor. -/
def Desc.isEntry (g : Desc) : Bool := g.isSys 5 || g.isSys 0xE || g.isSys 0xF

/-- A software interrupt needs the gate's DPL to be at least CPL. -/
def Desc.opensTo (g : Desc) (e : Event) (cpl : BitVec 2) : Bool := !(e.src == .soft && decide (g.dpl < cpl))

theorem Desc.opensTo_iff : g.opensTo e cpl = true ↔ (e.src = .soft → cpl ≤ g.dpl) := by
  simp [Desc.opensTo, imp_iff_not_or]

section
variable (six : g.isSys 6 = false) (seven : g.isSys 7 = false)
include six seven

theorem throughEntry_386 : throughEntry g e cpl u = (do
    require g.isEntry ⟨13, idtCode e.vec⟩
    require (g.opensTo e cpl) ⟨13, idtCode e.vec⟩
    require g.present ⟨11, idtCode e.vec⟩
    if g.isSys 5 then deliverTask g e else deliverGate g e) u := by
  rw [throughEntry, six, seven]
  rfl

theorem throughEntry_noGate (none : g.isEntry = false) :
    throughEntry g e cpl u = .error (.exc ⟨13, idtCode e.vec⟩) u :=
  (throughEntry_386 six seven).trans (require_stop none)

theorem throughEntry_closed (entry : g.isEntry = true) (closed : g.opensTo e cpl = false) :
    throughEntry g e cpl u = .error (.exc ⟨13, idtCode e.vec⟩) u :=
  (throughEntry_386 six seven).trans ((require_pass entry).trans (require_stop closed))

theorem throughEntry_absent (entry : g.isEntry = true) (opened : g.opensTo e cpl = true) (absent : g.present = false) :
    throughEntry g e cpl u = .error (.exc ⟨11, idtCode e.vec⟩) u :=
  (throughEntry_386 six seven).trans ((require_pass entry).trans ((require_pass opened).trans (require_stop absent)))

end

theorem throughEntry_task (task : g.isSys 5 = true) (opened : g.opensTo e cpl = true) (present : g.present = true) :
    throughEntry g e cpl u = deliverTask g e u := by
  have entry : g.isEntry = true := by rw [Desc.isEntry, task]; rfl
  refine (throughEntry_386 (Desc.isSys_other task (by decide)) (Desc.isSys_other task (by decide))).trans
    ((require_pass entry).trans ((require_pass opened).trans ((require_pass present).trans ?_)))
  rw [task]
  rfl

theorem throughEntry_gate (handler : g.isSys 0xE = true ∨ g.isSys 0xF = true) (opened : g.opensTo e cpl = true)
    (present : g.present = true) : throughEntry g e cpl u = deliverGate g e u := by
  have entry : g.isEntry = true := by
    rw [Desc.isEntry, Bool.or_assoc, Bool.or_eq_true_iff.mpr handler, Bool.or_true]
  have not (b : BitVec 4) (notE : 0xE ≠ b) (notF : 0xF ≠ b) : g.isSys b = false :=
    handler.elim (Desc.isSys_other · notE) (Desc.isSys_other · notF)
  refine (throughEntry_386 (not 6 (by decide) (by decide)) (not 7 (by decide) (by decide))).trans
    ((require_pass entry).trans ((require_pass opened).trans ((require_pass present).trans ?_)))
  rw [not 5 (by decide) (by decide)]
  rfl

end

/-! ## The handler -/

/-- The checks of the handler's segment (R763). -/
def handlerCheck (g : Desc) (cpl : BitVec 2) : Check where
  before := [(!selNull g.gateSel, gp0)]
  sel := g.gateSel
  beyond := gpFault g.gateSel
  tests c := [(c.attr.code, gpFault g.gateSel), (decide (c.dpl ≤ cpl), gpFault g.gateSel),
    (c.present, npFault g.gateSel)]

/-- Delivery to a handler at the same level (R763). -/
def deliverSame (g c : Desc) (e : Event) (s : State) : M Unit := do
  require (stackRoom true s.ss s.regs.esp .b32 (if e.code.pushes then 4 else 3)) ss0
  require (decide (g.gateOff.toNat ≤ c.limit.toNat)) gp0
  probePushesAs false .b32 (if e.code.pushes then 4 else 3)
  enterHandler g c e s

/-- Delivery to a handler at an inner level, on the stack found for it (R764). -/
def deliverOnStack (g c : Desc) (e : Event) (s : State) (nss : Word16) (nesp : Word32) (d : Desc) : M Unit := do
  require (stackRoom true (d.seg nss) nesp .b32 (if e.code.pushes then 6 else 5)) ss0
  require (decide (g.gateOff.toNat ≤ c.limit.toNat)) gp0
  enterInner c.dpl nss nesp d
  partway do
    pushSystem .b32 (s.ss.sel.setWidth 32)
    pushSystem .b32 s.regs.esp
    enterHandler g c e s

section
variable {g c : Desc} {e : Event} {s t : State} {x : Exn}

theorem deliverGate_eq (g : Desc) (e : Event) (s : State) : deliverGate g e s = ((handlerCheck g s.cpl).run >>= fun c =>
    if !c.attr.conforming && decide (c.dpl < s.cpl) then
      innerStack c.dpl >>= fun p => deliverOnStack g c e s p.1 p.2.1 p.2.2
    else deliverSame g c e s) s := by
  refine (bind_ok (get_run s)).trans ?_
  simp only [Check.run, handlerCheck, requireAll, bind_assoc, pure_bind]
  rfl

theorem deliverGate_fails (fails : (handlerCheck g s.cpl).Fails s x t) : deliverGate g e s = .error (.exc x) t :=
  (deliverGate_eq g e s).trans (bind_error (Check.run_fails.mpr fails))

end

/-! ## The frame -/

/-- What a delivery from `s` to a handler pushes at the same level, up to the error code (R763). -/
def handlerFrame (e : Event) (s : State) : List Word32 :=
  [({ s.flags with rf := e.rf }).image, s.cs.sel.setWidth 32, e.ret]

/-- What it pushes on the stack of an inner level (R764). -/
def innerHandlerFrame (e : Event) (s : State) : List Word32 :=
  [s.ss.sel.setWidth 32, s.regs.esp] ++ handlerFrame e s

/-- The error code, and the entry to the handler, after the frame. -/
def enterAfterFrame (g c : Desc) (e : Event) : M Unit := do
  pushCode e.code
  enterCode g.gateSel c g.gateOff
  setFlags fun f => f.entry (g.type == 0xE)

theorem enterHandler_eq (g c : Desc) (e : Event) (s : State) :
    enterHandler g c e s = pushAllAs false .b32 (handlerFrame e s) >>= fun _ => enterAfterFrame g c e := by
  simp only [enterHandler, enterAfterFrame, handlerFrame, pushAllAs, pushSystem, bind_assoc, pure_bind]

theorem pushInner_eq (g c : Desc) (e : Event) (s : State) : (do
      pushSystem .b32 (s.ss.sel.setWidth 32)
      pushSystem .b32 s.regs.esp
      enterHandler g c e s : M Unit) =
    pushAllAs false .b32 (innerHandlerFrame e s) >>= fun _ => enterAfterFrame g c e := by
  rw [innerHandlerFrame, pushAllAs_append, bind_assoc, ← enterHandler_eq]
  simp only [pushAllAs, pushSystem, bind_assoc, pure_bind]

/-- How many slots an error code takes. -/
def ErrCode.slots (c : ErrCode) : Nat := if c.pushes then 1 else 0

/-- An error code, if there is one, is pushed after a value has been drawn for its upper bits (R752). -/
def CodePushed (c : ErrCode) (s t : State) (pas : List Word32) : Prop :=
  if c.pushes then Pushed false .b32 [errImage c (Config.freeValue s.free)] { s with free := s.free + 1 } t pas
  else t = s ∧ pas = []

section
variable {a b c t u : State} {k : ErrCode} {vs : List Word32} {pas more : List Word32}

theorem CodePushed.run (h : CodePushed k a b pas) : pushCode k a = .ok () b := by
  unfold CodePushed at h
  unfold pushCode
  split at h
  case isTrue pushes =>
    rw [if_pos pushes]
    have pushed := h.run
    simp only [pushAllAs, bind_pure_unit] at pushed
    exact (bind_ok (draw_run a)).trans pushed
  case isFalse none =>
    rw [if_neg none, h.1]
    rfl

/-- What the frame and the error code leave: ESP down by their slots, and what accesses change. -/
theorem CodePushed.state (code : CodePushed k b c more) (pushed : Pushed false .b32 vs a b pas) :
    Access (a.moveSP (-BitVec.ofNat 32 ((vs.length + k.slots) * 4))) c := by
  unfold CodePushed at code
  unfold ErrCode.slots
  split at code
  case isTrue pushes =>
    have own : Access b { b with free := b.free + 1 } := .ofOwn rfl
    have moved := (Access.order.trans pushed.state own).moveSP (-BitVec.ofNat 32 (1 * Width.b32.bytes))
    rw [State.moveSP_moveSP, neg_slots_add] at moved
    rw [if_pos pushes]
    exact Access.order.trans moved code.state
  case isFalse none =>
    rw [if_neg none, code.1]
    exact pushed.state

/-- With paging off the frame and the error code are stored in their slots, and nothing else in memory changes. -/
theorem CodePushed.kept (code : CodePushed k b c more) (pushed : Pushed false .b32 vs a b pas) (pg : a.cr0.pg = false)
    (wf : a.mem.wf = true) :
    pas ++ more = a.slots .b32 (vs.length + k.slots) ∧ MemoryKept a c (.mem (pas ++ more)) := by
  obtain ⟨slots, kept⟩ := pushed.kept pg wf
  unfold CodePushed at code
  unfold ErrCode.slots
  split at code
  case isTrue pushes =>
    have own : Access b { b with free := b.free + 1 } := .ofOwn rfl
    have moved := Access.order.trans pushed.state own
    obtain ⟨slotsCode, keptCode⟩ := code.kept (by rw [moved.1]; exact pg) (moved.2.1 wf)
    rw [if_pos pushes, State.slots_add, ← slots]
    refine ⟨?_, MemoryKept.trans (fun x o => pushed.state.outside o) kept keptCode⟩
    rw [slotsCode, slots_access moved]
    rfl
  case isFalse none =>
    obtain ⟨rfl, rfl⟩ := code
    rw [if_neg none, List.append_nil]
    exact ⟨slots, kept⟩

/-- The handler entered after the frame and the error code. -/
theorem enterAfterFrame_ok {g d : Desc} {e : Event} {level : BitVec 2} {f : Flags} (code : CodePushed e.code b c more)
    (accessed : setAccessed g.gateSel d c = .ok () t) (cpl : t.cpl = level) (flags : t.flags = f) :
    enterAfterFrame g d e b = .ok () ({ t with
      cs := d.seg (withRpl g.gateSel level), flags := f.entry (g.type == 0xE) }.jumped g.gateOff) := by
  subst flags
  exact (bind_ok code.run).trans (bind_ok (enterCode_at accessed cpl))

end

/-- The flags on entry, by the type of the gate (R765). -/
theorem Flags.entry_eq {g : Desc} (f : Flags) (handler : g.isSys 0xE = true ∨ g.isSys 0xF = true) :
    f.entry (g.type == 0xE) = { f with tf := false, nt := false, rf := false, ie := f.ie && g.isSys 0xF } := by
  rw [Flags.entry, Desc.isTrapGate handler]

/-! ## Delivery through a gate -/

section
variable {g c : Desc} {e : Event} {s t u : State} {x : Exn}

/-- A handler whose segment passes its checks. -/
theorem handlerCheck_passes {cpl : BitVec 2} (named : selNull g.gateSel = false)
    (read : readDesc g.gateSel (gpFault g.gateSel) s = .ok c t) (code : c.attr.code = true) (allowed : c.dpl ≤ cpl)
    (present : c.present = true) : (handlerCheck g cpl).Passes s c t := by
  refine ⟨?_, read, ?_⟩
  · simp [handlerCheck, firstFailure, named]
  · simp [handlerCheck, firstFailure, code, allowed, present]

theorem deliverGate_inner (passes : (handlerCheck g s.cpl).Passes s c t) (strict : c.attr.conforming = false)
    (below : c.dpl < s.cpl) :
    deliverGate g e s = (innerStack c.dpl >>= fun p => deliverOnStack g c e s p.1 p.2.1 p.2.2) t := by
  rw [deliverGate_eq, bind_ok (Check.run_passes.mpr passes), strict, decide_eq_true below]
  rfl

theorem deliverGate_same (passes : (handlerCheck g s.cpl).Passes s c t)
    (same : c.attr.conforming = true ∨ c.dpl = s.cpl) : deliverGate g e s = deliverSame g c e s t := by
  have notInner : (!c.attr.conforming && decide (c.dpl < s.cpl)) = false := by
    rcases same with conforming | same
    · rw [conforming]; rfl
    · rw [same, decide_eq_false (BitVec.lt_irrefl _), Bool.and_false]
  rw [deliverGate_eq, bind_ok (Check.run_passes.mpr passes), notInner]
  rfl

theorem deliverSame_noRoom (noRoom : ¬ stackRoom true s.ss s.regs.esp .b32 (if e.code.pushes then 4 else 3) = true) :
    deliverSame g c e s t = .error (.exc ss0) t := require_stop (Bool.eq_false_iff.mpr noRoom)

section
variable (room : stackRoom true s.ss s.regs.esp .b32 (if e.code.pushes then 4 else 3) = true)
include room

theorem deliverSame_beyond (beyond : ¬ g.gateOff.toNat ≤ c.limit.toNat) :
    deliverSame g c e s t = .error (.exc gp0) t :=
  (require_pass room).trans (require_stop (decide_eq_false beyond))

theorem deliverSame_inside (inside : g.gateOff.toNat ≤ c.limit.toNat) : deliverSame g c e s t =
    (probePushesAs false .b32 (if e.code.pushes then 4 else 3) >>= fun _ => enterHandler g c e s) t :=
  (require_pass room).trans (require_pass (decide_eq_true inside))

end

section
variable {nss : Word16} {nesp : Word32} {d : Desc}

theorem deliverOnStack_noRoom (noRoom : ¬ stackRoom true (d.seg nss) nesp .b32 (if e.code.pushes then 6 else 5) = true) :
    deliverOnStack g c e s nss nesp d t = .error (.exc ss0) t := require_stop (Bool.eq_false_iff.mpr noRoom)

section
variable (room : stackRoom true (d.seg nss) nesp .b32 (if e.code.pushes then 6 else 5) = true)
include room

theorem deliverOnStack_beyond (beyond : ¬ g.gateOff.toNat ≤ c.limit.toNat) :
    deliverOnStack g c e s nss nesp d t = .error (.exc gp0) t :=
  (require_pass room).trans (require_stop (decide_eq_false beyond))

theorem deliverOnStack_inside (inside : g.gateOff.toNat ≤ c.limit.toNat) (accessed : setAccessed nss d t = .ok () u) :
    deliverOnStack g c e s nss nesp d t =
      partway (pushAllAs false .b32 (innerHandlerFrame e s) >>= fun _ => enterAfterFrame g c e)
        { u with ss := d.seg nss, regs := { u.regs with esp := nesp }, cpl := c.dpl } := by
  rw [← pushInner_eq]
  exact (require_pass room).trans ((require_pass (decide_eq_true inside)).trans (bind_ok (enterInner_ok accessed)))

end

end

end

/-! ## Error codes -/

/-- What is pushed for a selector: EXT in bit 0, bit 1 clear, the rest of the selector, and free bits above (R752). -/
theorem errImage_selector (sel : Word16) (u : Word32) (ext : Bool) :
    let pushed := errImage ((selCode sel).withExt ext) u
    pushed.getLsbD 0 = ext ∧ pushed.getLsbD 1 = false ∧ (∀ i, 2 ≤ i → i < 16 → pushed.getLsbD i = sel.getLsbD i) ∧
      ∀ i, 16 ≤ i → i < 32 → pushed.getLsbD i = u.getLsbD i := by
  intro pushed
  have image : pushed = u.extractLsb' 16 16 ++ (if ext then sel &&& 0xFFFC ||| 1 else sel &&& 0xFFFC) := rfl
  have low (i : Nat) (below : i < 16) : pushed.getLsbD i =
      (sel.getLsbD i && (0xFFFC : Word16).getLsbD i || ext && (1 : Word16).getLsbD i) := by
    rw [image, extractLsb'_append_bit _ _ (by decide), if_pos below]
    cases ext
    · simp only [Bool.false_eq_true, if_false, BitVec.getLsbD_and, Bool.false_and, Bool.or_false]
    · simp only [if_true, BitVec.getLsbD_or, BitVec.getLsbD_and, Bool.true_and]
  refine ⟨?_, ?_, fun i from2 below => ?_, fun i from16 below => ?_⟩
  · rw [low 0 (by decide)]
    simp
  · rw [low 1 (by decide)]
    simp
  · have mask : ∀ k : Fin 16, 2 ≤ k.val → (0xFFFC : Word16).getLsbD k = true ∧ (1 : Word16).getLsbD k = false := by
      decide
    obtain ⟨kept, clear⟩ := mask ⟨i, below⟩ from2
    rw [low i below, kept, clear, Bool.and_true, Bool.and_false, Bool.or_false]
  · rw [image, extractLsb'_append_bit _ _ (by decide), if_neg (Nat.not_lt.mpr from16), Nat.add_sub_cancel' from16]

/-- What is pushed for a page fault has P, W/R and U/S in bits 0, 1 and 2 (R738). -/
theorem errImage_page (u : Word32) (p w us : Bool) :
    let pushed := errImage (.page (BitVec.ofBool us ++ (BitVec.ofBool w ++ BitVec.ofBool p))) u
    pushed.getLsbD 0 = p ∧ pushed.getLsbD 1 = w ∧ pushed.getLsbD 2 = us := by
  simp only [errImage, BitVec.getLsbD_append, BitVec.getLsbD_ofBool]
  simp

/-- Settles O28: the tests of an entry in the order the model makes them, and the bits of an error code. -/
theorem deliveryChecks : Obligations.DeliveryChecks := by
  refine ⟨fun e s pe => ?_, fun sel u ext => ?_, fun la u p w us s => ?_⟩
  · intro code
    have codeIs (v : Byte) : (⟨v, idtCode e.vec⟩ : Exn) = code v := congrArg (Exn.mk v) (idtCode_eq e.vec)
    refine ⟨fun beyond => ?_, fun g u inside read => ?_⟩
    · rw [← codeIs]
      exact deliverOnce_beyond pe beyond
    have readUp := (readPair_reading _).ok read
    have entered := deliverOnce_entry (e := e) pe inside read
    simp only [← codeIs]
    refine ⟨fun old => entered.trans (throughEntry_286 old), fun six seven => ⟨fun notTask notInt notTrap => ?_,
      fun gate => ⟨fun soft closed => ?_, fun opened absent => ?_⟩, fun handler opened present x v fails => ?_⟩⟩
    · exact entered.trans (throughEntry_noGate six seven (by rw [Desc.isEntry, notTask, notInt, notTrap]; rfl))
    · refine entered.trans (throughEntry_closed six seven (by simpa [Desc.isEntry, or_assoc] using gate)
        (Bool.eq_false_iff.mpr fun opened => ?_))
      exact BitVec.not_le.mpr closed (Desc.opensTo_iff.mp opened soft)
    · exact entered.trans (throughEntry_absent six seven (by simpa [Desc.isEntry, or_assoc] using gate)
        (Desc.opensTo_iff.mpr opened) absent)
    · obtain ⟨y, rfl⟩ := readUp.1.exists_rollback
      exact entered.trans ((throughEntry_gate handler (Desc.opensTo_iff.mpr opened) present).trans
        (deliverGate_fails (s := s.rollback y) fails))
  · exact errImage_selector sel u ext
  · exact ⟨_, rfl, errImage_page u p w us⟩

end Sys2Proof.Machine

/-! # Delivery through an interrupt or trap gate (60_exceptions.md R763 to R765) -/

namespace Sys2Proof.Machine

theorem ErrCode.slots_same (c : ErrCode) : (if c.pushes then 4 else 3) = 3 + c.slots := by
  unfold ErrCode.slots
  split <;> rfl

theorem ErrCode.slots_inner (c : ErrCode) : (if c.pushes then 6 else 5) = 5 + c.slots := by
  unfold ErrCode.slots
  split <;> rfl

section
variable {e : Event} {g c : Desc} {s s1 s2 : State} (pe : s.cr0.pe = true)
  (inTable : e.vec.toNat * 8 + 7 ≤ s.idtr.limit.toNat)
  (read : readPair (s.idtr.base + 8 * e.vec.setWidth 32) s = .ok g s1)
  (handler : g.isSys 0xE = true ∨ g.isSys 0xF = true) (opened : e.src = .soft → s.cpl ≤ g.dpl)
  (present : g.present = true)
include pe inTable read handler opened present

/-- An attempt whose entry is an open gate to a handler. -/
theorem deliverOnce_gate : deliverOnce e s = deliverGate g e s1 :=
  (deliverOnce_entry pe inTable read).trans (throughEntry_gate handler (Desc.opensTo_iff.mpr opened) present)

variable (named : selNull g.gateSel = false) (found : readDesc g.gateSel (gpFault g.gateSel) s1 = .ok c s2)
  (code : c.attr.code = true) (allowed : c.dpl ≤ s.cpl) (there : c.present = true)
include named found code allowed there

/-- An attempt at a handler at the same level. -/
theorem deliverOnce_same (same : c.attr.conforming = true ∨ c.dpl = s.cpl) :
    deliverOnce e s = deliverSame g c e s s2 := by
  have entered := deliverOnce_gate pe inTable read handler opened present
  obtain ⟨y, rfl⟩ := ((readPair_reading _).ok read).1.exists_rollback
  exact entered.trans (deliverGate_same (handlerCheck_passes named found code allowed there) same)

/-- An attempt at a handler at an inner level. -/
theorem deliverOnce_inner (strict : c.attr.conforming = false) (below : c.dpl < s.cpl) :
    deliverOnce e s = (innerStack c.dpl >>= fun p => deliverOnStack g c e s p.1 p.2.1 p.2.2) s2 := by
  have entered := deliverOnce_gate pe inTable read handler opened present
  obtain ⟨y, rfl⟩ := ((readPair_reading _).ok read).1.exists_rollback
  exact entered.trans (deliverGate_inner (handlerCheck_passes named found code allowed there) strict below)

end

/-- Settles O26: the tests of room and limit, the probes, then the frame, the error code and the entry. -/
theorem gateDeliverySameLevel : Obligations.GateDeliverySameLevel := by
  intro e g c s s1 s2 pe committed partway inTable read handler opened present named found code allowed there same k
  have once := deliverOnce_same pe inTable read handler opened present named found code allowed there same
  have readUp := Reading.order.trans ((readPair_reading _).ok read) ((readDesc_reading _ _).ok found)
  intro room inside
  refine ⟨fun noRoom => once.trans (deliverSame_noRoom noRoom), fun hasRoom beyond =>
    once.trans (deliverSame_beyond hasRoom beyond), fun x u hasRoom within fails => ?_, ?_⟩
  · exact once.trans ((deliverSame_inside hasRoom within).trans (bind_error fails.run))
  intro s3 s5 s6 pas more hasRoom within probed pushed errPushed
  have begun := Reading.order.trans readUp probed.reading
  have count : k = 3 + e.code.slots := e.code.slots_same
  have codePushed : CodePushed e.code s5 s6 more := errPushed
  refine ⟨fun pg wf => ?_, fun s7 accessed => ?_⟩
  · obtain ⟨slots, kept⟩ := codePushed.kept pushed (by rw [begun.1.cr0]; exact pg) (begun.1.2.1 wf)
    rw [slots_access begun.1] at slots
    rw [count]
    exact ⟨slots, (begun.kept pg wf).after (fun _ o => begun.1.outside o) kept⟩
  · have left := Access.order.trans (begun.1.moveSP _)
      (Access.order.trans (codePushed.state pushed) ((setAccessed_access _ _).ok accessed))
    have entry := enterAfterFrame_ok (e := e) codePushed accessed left.cpl left.flags
    rw [Flags.entry_eq _ handler] at entry
    refine deliver_ok committed partway (once.trans ((deliverSame_inside hasRoom within).trans
      ((bind_ok probed.run).trans ?_)))
    rw [enterHandler_eq]
    exact (bind_ok pushed.run).trans entry

/-- Settles O27: the checks of the new stack, of room and limit, then that stack, the frame, the error code and the
entry. -/
theorem gateDeliveryInner : Obligations.GateDeliveryInner := by
  intro e g c s s1 s2 pe committed partway inTable read handler opened present named found code there below strict
  have once := deliverOnce_inner pe inTable read handler opened present named found code (BitVec.le_of_lt below) there
    strict below
  have readUp := Reading.order.trans ((readPair_reading _).ok read) ((readDesc_reading _ _).ok found)
  refine ⟨fun x u fails => once.trans (bind_error (innerStack_fails fails)), fun nss nesp d s3 stack => ?_⟩
  have onStack := once.trans (bind_ok (innerStack_ok stack))
  have stacked := Reading.order.trans readUp stack.reading
  intro k room inside
  refine ⟨fun noRoom => onStack.trans (deliverOnStack_noRoom noRoom), fun hasRoom beyond =>
    onStack.trans (deliverOnStack_beyond hasRoom beyond), fun s4 hasRoom within accessed => ?_⟩
  have begun := Access.order.trans stacked.1 ((setAccessed_access _ _).ok accessed)
  have attempt := onStack.trans (deliverOnStack_inside hasRoom within accessed)
  obtain ⟨y, rfl⟩ := begun.exists_rollback
  intro on values
  have count : k = 5 + e.code.slots := e.code.slots_inner
  refine ⟨fun x b fails => ⟨attempt.trans (partway_error (bind_error fails.run)), ?_⟩, ?_⟩
  · rw [fails.cur]
    rfl
  intro p5 p6 pas more pushed errPushed
  have codePushed : CodePushed e.code p5 p6 more := errPushed
  refine ⟨fun pg wf => ?_, fun t codeAccessed => ?_⟩
  · rw [count]
    exact codePushed.kept pushed pg (begun.2.1 wf)
  · have left := Access.order.trans (codePushed.state pushed) ((setAccessed_access _ _).ok codeAccessed)
    rw [show values.length + e.code.slots = k from count.symm] at left
    obtain ⟨cpl, ss, flags, regs⟩ := left.inner_frame (s := on) pe
    have entry := enterAfterFrame_ok (e := e) codePushed codeAccessed cpl flags
    rw [Flags.entry_eq _ handler] at entry
    exact ⟨deliver_ok committed partway (attempt.trans (partway_ok ((bind_ok pushed.run).trans entry))), cpl, ss, regs⟩

end Sys2Proof.Machine

/-! # Transfer of control to another task (44_control_transfer.md R526, R530, R545; 60_exceptions.md R766;
22_multitasking.md R267) -/

namespace Sys2Proof.Machine

/-! ## A task switch and what follows it -/

/-- The incoming task goes on, its debug trap armed where its T bit is set (22_multitasking.md R267). -/
def State.taskDone (t : State) (trap : Bool) : State :=
  if trap then { t with debugTrap := true, dbg := { t.dbg with dr6 := t.dbg.dr6 ||| 0x8000 } } else t

section
variable {dest : Word16} {k : TaskKind} {ret : Word32} {u t : State} {trap : Bool} {x : Exn}

theorem finishTask_inside (inside : t.eip.toNat ≤ t.cs.limit.toNat) : finishTask trap t = .ok () (t.taskDone trap) := by
  refine (bind_ok (get_run t)).trans ((require_pass (decide_eq_true inside)).trans ?_)
  cases trap <;> rfl

theorem finishTask_beyond (beyond : t.cs.limit.toNat < t.eip.toNat) : finishTask trap t = .error (.exc gp0) t :=
  (bind_ok (get_run t)).trans (require_stop (decide_eq_false (Nat.not_le.mpr beyond)))

/-- A task switch, and the checks of the incoming task's EIP and T bit. -/
def switchTo (dest : Word16) (k : TaskKind) (ret : Word32) : M Unit := taskSwitch dest k ret >>= finishTask

theorem switchTo_inside (switched : taskSwitch dest k ret u = .ok trap t) (inside : t.eip.toNat ≤ t.cs.limit.toNat) :
    switchTo dest k ret u = .ok () (t.taskDone trap) := (bind_ok switched).trans (finishTask_inside inside)

theorem switchTo_beyond (switched : taskSwitch dest k ret u = .ok trap t) (beyond : t.cs.limit.toNat < t.eip.toNat) :
    switchTo dest k ret u = .error (.exc gp0) t := (bind_ok switched).trans (finishTask_beyond beyond)

theorem switchTo_fails (fails : taskSwitch dest k ret u = .error (.exc x) t) :
    switchTo dest k ret u = .error (.exc x) t := bind_error fails

end

/-! ## Far JMP and CALL -/

section
variable {k : FarKind} {w : Width} {sel : Word16} {off : Word32} {d : Desc} {a u : State}
  (notNull : selNull sel = false) (read : readDesc sel (gpFault sel) a = .ok d u)

theorem farTask_eq (k : FarKind) (dest : Word16) (u : State) :
    farTask k dest u = switchTo dest k.task u.nextIp u := bind_ok (get_run u)

theorem Desc.gateOk_iff (cpl : BitVec 2) : d.gateOk cpl sel = true ↔ cpl ≤ d.dpl ∧ rpl sel ≤ d.dpl := by
  simp [Desc.gateOk]

include notNull read

theorem farProtected_tss (type : d.isSys 9 = true) :
    farProtected k w sel off a = (require (d.gateOk a.cpl sel) (gpFault sel) >>= fun _ => farTask k sel) u := by
  refine (bind_ok (get_run a)).trans ((require_pass (by rw [notNull]; rfl)).trans ((bind_ok read).trans ?_))
  rw [Desc.isSys_notCode type, Desc.isSys_other type (by decide : (9 : BitVec 4) ≠ 0xC), type]
  rfl

theorem farProtected_taskGate (type : d.isSys 5 = true) :
    farProtected k w sel off a = (require (d.gateOk a.cpl sel) (gpFault sel) >>= fun _ =>
      require d.present (npFault sel) >>= fun _ => farTask k d.gateSel) u := by
  refine (bind_ok (get_run a)).trans ((require_pass (by rw [notNull]; rfl)).trans ((bind_ok read).trans ?_))
  rw [Desc.isSys_notCode type, Desc.isSys_other type (by decide : (5 : BitVec 4) ≠ 0xC),
    Desc.isSys_other type (by decide : (5 : BitVec 4) ≠ 9), type]
  rfl

/-- A TSS or a task gate that the level may not name. -/
theorem farProtected_taskDenied (type : d.isSys 9 = true ∨ d.isSys 5 = true) (denied : d.gateOk a.cpl sel = false) :
    farProtected k w sel off a = .error (.exc (gpFault sel)) u := by
  rcases type with type | type
  · exact (farProtected_tss notNull read type).trans (require_stop denied)
  · exact (farProtected_taskGate notNull read type).trans (require_stop denied)

end

/-! ## IRET and events -/

section
variable {s u t v : State} {sz : Size} {link : Word16} {e : Event} {g : Desc} {trap : Bool} {x : Exn}

/-- IRET with NT = 1 goes back to the task that the back link names (R545). -/
theorem interruptReturn_task (pe : s.cr0.pe = true) (nt : s.flags.nt = true)
    (read : linRead .b16 s.tr.base false s = .ok link u) :
    interruptReturn sz s = (switchTo link .iret s.nextIp >>= fun _ =>
      modify fun t => { t with nmiLatch := false, cur := { t.cur with keepRf := true } }) u := by
  have task : iretTask s = switchTo link .iret s.nextIp u := (bind_ok (get_run s)).trans (bind_ok read)
  simp only [interruptReturn, bind_run, get_run, pe, nt, Bool.not_true, Bool.false_eq_true, if_false, if_true, task]

/-- An error code pushed where there is one. -/
theorem CodePushed.of_task (h : if e.code.pushes then
      ∃ pas, Pushed false .b32 [errImage e.code (Config.freeValue t.free)] { t with free := t.free + 1 } v pas
      else v = t) :
    ∃ pas, CodePushed e.code t v pas := by
  unfold CodePushed
  split at h
  case isTrue pushes =>
    obtain ⟨pas, pushed⟩ := h
    exact ⟨pas, by rw [if_pos pushes]; exact pushed⟩
  case isFalse none => exact ⟨[], by rw [if_neg none]; exact ⟨h, rfl⟩⟩

theorem deliverTask_fails (fails : taskSwitch g.gateSel .int e.ret u = .error (.exc x) t) :
    deliverTask g e u = .error (.exc x) t := bind_error fails

theorem deliverTask_pushed {pas : List Word32} (switched : taskSwitch g.gateSel .int e.ret u = .ok trap t)
    (pushed : CodePushed e.code t v pas) : deliverTask g e u = finishTask trap v :=
  (bind_ok switched).trans (bind_ok pushed.run)

end

/-- An instruction that ends as a task switch does, but for what it does last. -/
theorem exec_switchTo {i : Instr} {s u : State} {dest : Word16} {k : TaskKind} {ret : Word32} {finish : State → State}
    (does : exec i s = settle s ((switchTo dest k ret >>= fun _ => modify finish) u)) :
    (∀ (trap : Bool) (t : State), taskSwitch dest k ret u = .ok trap t →
      (t.eip.toNat ≤ t.cs.limit.toNat → exec i s = .next (finish (t.taskDone trap))) ∧
      (t.cs.limit.toNat < t.eip.toNat → exec i s = takeFault s t gp0)) ∧
    ∀ (x : Exn) (t : State), taskSwitch dest k ret u = .error (.exc x) t → exec i s = takeFault s t x :=
  ⟨fun _ _ switched => ⟨fun inside => does.trans (congrArg (settle s) (bind_ok (switchTo_inside switched inside))),
    fun beyond => does.trans (settle_exc (bind_error (switchTo_beyond switched beyond)))⟩,
    fun _ _ fails => does.trans (settle_exc (bind_error (switchTo_fails fails)))⟩

/-- Settles O36: each of the ways into another task is one task switch, after the tests of what names the task. -/
theorem transferToTask : Obligations.TransferToTask := by
  unfold Obligations.TransferToTask
  intro done
  refine ⟨fun s u pe lock => ?_, fun e g s u pe committed partway inTable read type opened present => ?_⟩
  · intro switches
    have ends (m : M Unit) : m = (m >>= fun _ => modify id) := (bind_pure_unit (x := m)).symm
    refine ⟨fun jmp call off sel d a pair notNull read => ?_, fun link nt read => ?_⟩
    · obtain ⟨jmpIs, callIs⟩ := pair.exec_eq lock
      have begun := pair.reading
      have ape : a.cr0.pe = true := by rw [begun.1.1]; exact pe
      rw [farTransfer_protected ape] at jmpIs callIs
      have readUp := Reading.order.trans begun ((readDesc_reading _ _).ok read)
      obtain ⟨y, rfl⟩ := begun.1.exists_through
      obtain ⟨z, rfl⟩ := readUp.1.exists_through
      intro goes both
      refine ⟨fun type denied => ?_, fun type cpl rplOk => ?_, fun type cpl rplOk => ?_⟩
      · have closed : d.gateOk s.cpl sel = false := by
          refine Bool.eq_false_iff.mpr fun h => ?_
          obtain ⟨le, rplLe⟩ := (Desc.gateOk_iff s.cpl).mp h
          exact denied.elim (fun below => BitVec.not_lt.mpr le below) (fun below => BitVec.not_lt.mpr rplLe below)
        exact ⟨jmpIs.trans (settle_exc (farProtected_taskDenied (a := s.through y) notNull read type closed)),
          callIs.trans (settle_exc (farProtected_taskDenied (a := s.through y) notNull read type closed))⟩
      · have opened : d.gateOk s.cpl sel = true := (Desc.gateOk_iff s.cpl).mpr ⟨cpl, rplOk⟩
        have enters (k : FarKind) : farProtected k s.opw sel off (s.through y) =
            switchTo sel k.task s.nextIp (s.through z) :=
          (farProtected_tss (a := s.through y) notNull read type).trans ((require_pass opened).trans (farTask_eq k sel _))
        rw [enters] at jmpIs callIs
        rw [ends (switchTo _ _ _)] at jmpIs callIs
        exact ⟨exec_switchTo jmpIs, exec_switchTo callIs⟩
      · have opened : d.gateOk s.cpl sel = true := (Desc.gateOk_iff s.cpl).mpr ⟨cpl, rplOk⟩
        have gate (k : FarKind) : farProtected k s.opw sel off (s.through y) = _ :=
          (farProtected_taskGate (a := s.through y) notNull read type).trans (require_pass opened)
        refine ⟨fun absent => ?_, fun present => ?_⟩
        · exact ⟨jmpIs.trans (settle_exc ((gate .jmp).trans (require_stop absent))),
            callIs.trans (settle_exc ((gate .call).trans (require_stop absent)))⟩
        · have enters (k : FarKind) : farProtected k s.opw sel off (s.through y) =
              switchTo d.gateSel k.task s.nextIp (s.through z) :=
            (gate k).trans ((require_pass present).trans (farTask_eq k d.gateSel _))
          rw [enters] at jmpIs callIs
          rw [ends (switchTo _ _ _)] at jmpIs callIs
          exact ⟨exec_switchTo jmpIs, exec_switchTo callIs⟩
    · have returns (sz : Size) := congrArg (settle s) (interruptReturn_task (sz := sz) (s := s.entered) pe nt read)
      have iret : exec .iret s = _ := (run_settle lock).trans (returns .s16)
      have iretd : exec .iretd s = _ := (run_settle lock).trans (returns .s32)
      exact ⟨exec_switchTo iret, exec_switchTo iretd⟩
  · have once : deliverOnce e s = deliverTask g e u :=
      (deliverOnce_entry pe inTable read).trans (throughEntry_task type (Desc.opensTo_iff.mpr opened) present)
    refine ⟨fun x t fails => once.trans (deliverTask_fails fails), fun trap t v switched code => ?_⟩
    obtain ⟨pas, pushed⟩ := CodePushed.of_task code
    have finishes := once.trans (deliverTask_pushed switched pushed)
    exact ⟨fun inside => deliver_ok committed partway (finishes.trans (finishTask_inside inside)),
      fun beyond => finishes.trans (finishTask_beyond beyond)⟩

end Sys2Proof.Machine
